-- ==== Sys2Proof/Word.lean ====
section
/-! DEFINITION. Words, bytes and the plainest arithmetic on them (spec 00 R2: bit 0 is least significant, multi-byte values are little-endian). -/

namespace Sys2Proof

/-- A scalar register, a CSR, a handle address. -/
abbrev Word := BitVec 64
/-- One byte of memory. -/
abbrev Byte := BitVec 8
/-- A vector register (05 R105). -/
abbrev Vec := BitVec 512

/-- The slice `x[lo+n-1:lo]` of a word, as a number. -/
def fld {w : Nat} (x : BitVec w) (lo n : Nat) : Nat := x.toNat / 2 ^ lo % 2 ^ n

/-- The value placed at bit `lo`. -/
def put (v lo : Nat) : Nat := v * 2 ^ lo

/-- The two's-complement reading of the low `n` bits of `v`. -/
def sextInt (v n : Nat) : Int :=
  let r := v % 2 ^ n
  if n ≠ 0 ∧ 2 ^ (n - 1) ≤ r then (r : Int) - (2 ^ n : Nat) else r

/-- A Bool as a bit. -/
def bit (b : Bool) : Nat := if b then 1 else 0

/-- Bit `i` of a number. -/
def tbit (v i : Nat) : Bool := v / 2 ^ i % 2 == 1

/-- Ceiling division. -/
def cdiv (a b : Nat) : Nat := (a + b - 1) / b

end Sys2Proof
end

