-- ==== Sys2Proof/Config.lean ====
section
/-! DEFINITION. What the spec leaves open as a value: free values, which nothing in Lean can evaluate. -/

namespace Sys2Proof.Config

/-- The free values. The first argument is the counter `State.free`, which every step that may use one advances; the second
tells apart the uses of one step. Nothing is assumed of the numbers. -/
opaque freeNat : Nat → Nat → Nat

/-- A free word. -/
def freeWord (n k : Nat) : Word := BitVec.ofNat 64 (freeNat n k)

/-- A free vector. -/
def freeVec (n k : Nat) : Vec := BitVec.ofNat 512 (freeNat n k)

/-- A free choice. -/
def freeBool (n k : Nat) : Bool := freeNat n k % 2 == 1

/-- TRAP.DETAIL of a register-drop fault: it names the slot, the operand field and the physical row, in a layout that the spec does
not give (05 R115). -/
opaque dropDetail : Nat → Nat → Nat → Nat

/-- The device key's signature over the evidence of an attestation (18 R429: the key is not given): a free counter, the message. -/
opaque signature : Nat → Nat → Nat

/-- Vendor and revision of HUB.ID (18 R422: not given). -/
opaque hubVendor : Nat
opaque hubRev : Nat

/-- The size of a partition's share of a space, in units of 64 KiB, by partition and fixed handle, as management allots it; for partition 4,
the size of the space itself where the spec gives none (01 R21; 07 R154; 09 R204). -/
opaque fixedShare : Nat → Nat → Nat

/-- Spill pages (0) and sequences (1) that management gives a partition of a die, before they are reduced to what there can be (13 R322; log 146). -/
opaque kvGrant : Nat → Nat → Nat

/-- Bus address at which the host has placed a BAR (18 R419). -/
opaque barBase : Nat → Nat

end Sys2Proof.Config
end

