-- ==== Sys2Proof/Syntax.lean ====
section
/-! DEFINITION. The instructions of Gerex 1.0 and the module's events: one constructor for each row of spec/opcode_table.json. -/

namespace Sys2Proof

/-- A scalar or predicate register number (02 R33: a 6-bit field names the whole file). -/
abbrev Reg := BitVec 6

/-- Element types of slot V (02 R42). -/
inductive VTy where
  | s8 | n8 | s16 | n16 | s32 | n32 | bf16 | f32 | m8
  deriving DecidableEq, Repr, Inhabited

/-- Rounding modes (02 R42, 03 R68). -/
inductive Rnd where
  | rne | rtz | rup | rdn
  deriving DecidableEq, Repr, Inhabited

/-- Variants of vfma (02 R44). -/
inductive FmaOp where
  | fma | fms | fnma
  deriving DecidableEq, Repr

/-- Variants of vcmp (02 R44). -/
inductive CmpOp where
  | eq | ne | lt | le | gt | ge
  deriving DecidableEq, Repr

/-- Variants of vred (02 R44). -/
inductive RedOp where
  | sum | max | min
  deriving DecidableEq, Repr

/-- Operations of amo (02 R39). -/
inductive AmoOp where
  | add | and | or | xor | min | max | minn | maxn | swap
  deriving DecidableEq, Repr

/-- Scopes of amo, cas and fence (02 R39, 10 R233). -/
inductive Scope where
  | core | clus | die | mod | sys
  deriving DecidableEq, Repr

/-- Size and extension codes of ld (02 R39). -/
inductive LdSize where
  | b | bn | h | hn | w | wn | d
  deriving DecidableEq, Repr

/-- Size codes of st (02 R39). -/
inductive StSize where
  | b | h | w | d
  deriving DecidableEq, Repr

/-- Engines named by patch words and `mt.ld` (02 R47), also the timelines of `tl` (02 R46). -/
inductive Eng where
  | me | pae | dae | ce
  deriving DecidableEq, Repr, Inhabited

/-- Timelines (02 R46). -/
inductive Tl where
  | me | ce | vp | at
  deriving DecidableEq, Repr

/-- Barrier and domain levels (02 R46). -/
inductive Level where
  | clus | die | mod
  deriving DecidableEq, Repr

/-- Bank states named by `bank` (05 R126). -/
inductive BankSt where
  | full | ret | off
  deriving DecidableEq, Repr, Inhabited

/-- Buffer spaces (07 R152). -/
inductive BufSp where
  | w | a | c | p
  deriving DecidableEq, Repr

/-- The fields of slot V below the major and minor (02 R42); `h` and `w` hold the block size less one. -/
structure VArgs where
  ty : VTy
  d : BitVec 8
  a : BitVec 8
  b : BitVec 8
  c : BitVec 8
  h : BitVec 4
  w : BitVec 4
  pred : Reg
  rnd : Rnd
  sat : Bool
  da : Bool
  deriving DecidableEq, Repr

/-- The fields of a vector load or store (02 R38, VM). -/
structure VMem where
  v : BitVec 8
  base : Reg
  h : BitVec 4
  w : BitVec 4
  stride : BitVec 12
  off : BitVec 12
  handle : BitVec 12
  deriving DecidableEq, Repr

/-- Common flags of the copy instructions (09 R223). -/
structure CpFlags where
  ver : Bool
  whole : Bool
  ph : Bool
  dcb : Bool
  scb : Bool
  deriving DecidableEq, Repr

/-- One patch word (02 R47). -/
structure PatchWord where
  eng : BitVec 3
  tmpl : BitVec 6
  field : BitVec 5
  value : BitVec 16
  issue : Bool
  deriving DecidableEq, Repr

/-- Every instruction and every event of the table. The events carry what the outside world (host, management, supply, wall
clock, peers) decides in them; the rest of an event is read from the state. -/
inductive Instr where
  -- slot B
  | brZ (s : Reg) (disp : BitVec 19)
  | brNz (s : Reg) (disp : BitVec 19)
  | brpAny (p : Reg) (width : BitVec 2) (disp : BitVec 16)
  | brpAll (p : Reg) (width : BitVec 2) (disp : BitVec 16)
  | brpNone (p : Reg) (width : BitVec 2) (disp : BitVec 16)
  | jmp (disp : BitVec 26)
  | call (disp : BitVec 26)
  | jmpr (s : Reg)
  | callr (s : Reg)
  | loopSet (l : BitVec 2) (s : Reg) (off : BitVec 18)
  | loopSeti (l : BitVec 2) (count : BitVec 12) (off : BitVec 12)
  | loopEnd (l : BitVec 2)
  | tsbAny (cb : BitVec 4) (mask : BitVec 6) (disp : BitVec 15)
  | tsbNone (cb : BitVec 4) (mask : BitVec 6) (disp : BitVec 15)
  | ipf (n : BitVec 4) (disp : BitVec 22)
  | phmark (disp : BitVec 26)
  | trap (code : BitVec 16)
  | brk (code : BitVec 16)
  | csrr (d : Reg) (csr : BitVec 12)
  | csrw (csr : BitVec 12) (a : Reg)
  | csrs (csr : BitVec 12) (a : Reg)
  | csrc (csr : BitVec 12) (a : Reg)
  -- slot M, scalar
  | add (d a b : Reg)
  | sub (d a b : Reg)
  | mul (d a b : Reg)
  | mulh (d a b : Reg)
  | mulhn (d a b : Reg)
  | div (d a b : Reg)
  | divn (d a b : Reg)
  | rem (d a b : Reg)
  | remn (d a b : Reg)
  | and (d a b : Reg)
  | or (d a b : Reg)
  | xor (d a b : Reg)
  | andn (d a b : Reg)
  | shl (d a b : Reg)
  | shr (d a b : Reg)
  | sar (d a b : Reg)
  | rol (d a b : Reg)
  | min (d a b : Reg)
  | max (d a b : Reg)
  | minn (d a b : Reg)
  | maxn (d a b : Reg)
  | seq (d a b : Reg)
  | sne (d a b : Reg)
  | slt (d a b : Reg)
  | sltn (d a b : Reg)
  | sle (d a b : Reg)
  | slen (d a b : Reg)
  | clz (d a : Reg)
  | ctz (d a : Reg)
  | popc (d a : Reg)
  | bswap (d a : Reg)
  | mov (d a : Reg)
  | addi (d a : Reg) (imm : BitVec 32)
  | andi (d a : Reg) (imm : BitVec 32)
  | ori (d a : Reg) (imm : BitVec 32)
  | xori (d a : Reg) (imm : BitVec 32)
  | shli (d a : Reg) (amt : BitVec 6)
  | shri (d a : Reg) (amt : BitVec 6)
  | sari (d a : Reg) (amt : BitVec 6)
  | slti (d a : Reg) (imm : BitVec 32)
  | sltni (d a : Reg) (imm : BitVec 32)
  | seqi (d a : Reg) (imm : BitVec 32)
  | muli (d a : Reg) (imm : BitVec 32)
  | li (d : Reg) (imm : BitVec 32)
  | lih (d : Reg) (imm : BitVec 32)
  | sel (d a b p : Reg) (idx : BitVec 6)
  -- slot M, memory
  | ld (size : LdSize) (d base : Reg) (handle : BitVec 12) (imm : BitVec 20)
  | st (size : StSize) (src base : Reg) (handle : BitVec 12) (imm : BitVec 20)
  | vld (m : VMem)
  | vst (m : VMem)
  | vldVer (m : VMem)
  | amo (op : AmoOp) (dword : Bool) (scope : Scope) (d base b : Reg) (handle : BitVec 12) (imm : BitVec 20)
  | cas (dword : Bool) (scope : Scope) (d base b c : Reg) (handle : BitVec 12) (imm : BitVec 18)
  | boArr (d base b : Reg) (handle : BitVec 12) (imm : BitVec 20)
  | boWait (d base b e : Reg) (handle : BitVec 12) (imm : BitVec 20)
  | fence (scope : Scope)
  | hset (a b : Reg)
  | hinv (a : Reg)
  | dstc (c base b : Reg) (handle : BitVec 12) (imm : BitVec 20)
  | dldc (d base : Reg) (handle : BitVec 12) (imm : BitVec 20)
  -- slot V
  | vadd (v : VArgs)
  | vsub (v : VArgs)
  | vmul (v : VArgs)
  | vfma (op : FmaOp) (v : VArgs)
  | vmin (v : VArgs)
  | vmax (v : VArgs)
  | vabs (v : VArgs)
  | vneg (v : VArgs)
  | vand (v : VArgs)
  | vor (v : VArgs)
  | vxor (v : VArgs)
  | vnot (v : VArgs)
  | vshl (v : VArgs)
  | vshr (v : VArgs)
  | vsar (v : VArgs)
  | vcmp (op : CmpOp) (v : VArgs)
  | vsel (v : VArgs)
  | vcvt (src : VTy) (v : VArgs)
  | vexp2 (v : VArgs)
  | vlog2 (v : VArgs)
  | vrcp (v : VArgs)
  | vrsq (v : VArgs)
  | vtanh (v : VArgs)
  | vred (op : RedOp) (v : VArgs)
  | vperm (v : VArgs)
  | vbcast (v : VArgs)
  | vext (v : VArgs)
  | vins (v : VArgs)
  | vmov (v : VArgs)
  | vrot (v : VArgs)
  | vquant (v : VArgs)
  | vdeq (v : VArgs)
  | vdot (v : VArgs)
  | vsmx (v : VArgs)
  | vpack (v : VArgs)
  | vunpk (v : VArgs)
  | pand (v : VArgs)
  | por (v : VArgs)
  | pxor (v : VArgs)
  | pnot (v : VArgs)
  | ppopc (v : VArgs)
  -- circular buffers
  | cbSet (cb : BitVec 4) (a : Reg)
  | cbPush (cb : BitVec 4) (n : BitVec 9)
  | cbPop (cb : BitVec 4) (n : BitVec 9)
  | cbWait (d : Reg) (cb : BitVec 4) (room : Bool) (n : BitVec 9) (b : Reg)
  | cbRd (d : Reg) (cb : BitVec 4) (what : BitVec 2) (k : BitVec 8)
  | cbRel (mask : BitVec 16)
  -- matrix engine
  | mm (tmpl : BitVec 6) (keep : Bool) (a b c : Reg)
  | mtLd (eng : Eng) (tmpl : BitVec 6) (a : Reg)
  | ftLd (first : BitVec 5) (n : BitVec 5) (a : Reg)
  | epLd (tmpl : BitVec 6) (n : BitVec 5) (a : Reg)
  | patchPair (hi lo : PatchWord)
  -- copies and translation
  | cp (f : CpFlags) (cb : BitVec 4) (d a b c : Reg)
  | cpM (ver ph : Bool) (cb : BitVec 4) (off : BitVec 16) (d a b c : Reg)
  | cp2d (f : CpFlags) (tmpl : BitVec 6) (cb : BitVec 4) (d a b c : Reg)
  | gat (f : CpFlags) (tmpl : BitVec 6) (cb : BitVec 4) (d a b c : Reg)
  | sca (f : CpFlags) (tmpl : BitVec 6) (cb : BitVec 4) (d a b c : Reg)
  | cpRes (d a : Reg)
  | cpResDrop (d a : Reg)
  | copyChunk (num : Nat)
  | copyComplete (num : Nat)
  -- order
  | tlWait (tl : Tl) (d a b : Reg)
  | tlRd (tl : Tl) (d : Reg)
  | tlPub (tl : Tl) (a b : Reg)
  | publicationWrite (tl : Tl)
  -- banks, caches, CSR rows
  | bankVec (st : BankSt) (rows : BitVec 16)
  | bankBuf (st : BankSt) (sp : BufSp) (banks : BitVec 16)
  | tlbflWrite (all : Bool)
  | rotloWrite (v : Word)
  | rotbWrite (v : Word)
  | lcWrite (l : BitVec 2) (v : Word)
  | avtbWrite (v : Word)
  | schbWrite (cmpb : Bool) (v : Word)
  | kvpolbWrite (v : Word)
  | kvmirbWrite (v : Word)
  | tvecWrite (v : Word)
  | segEvWrite (v : Word)
  -- KV and attention
  | atMask (n : BitVec 4) (a : Reg)
  | kvApp (d a : Reg) (g : BitVec 6) (n : BitVec 8)
  | kvLk (d a b : Reg) (g : BitVec 6)
  | kvAlloc (d : Reg)
  | kvAllocFork (d a : Reg)
  | kvRef (d a : Reg)
  | kvFree (d a : Reg)
  | kvFreeSeq (d a : Reg)
  | kvCow (d a b : Reg) (g : BitVec 6)
  | kvCowSpill (d a b : Reg) (g : BitVec 6)
  | kvLenCommit (d a : Reg)
  | kvLenRestore (d a : Reg)
  | pfxIns (d a b : Reg) (g blk : BitVec 6)
  | pfxFind (d a b : Reg) (g blk : BitVec 6)
  | pfxFindDrop (d b : Reg) (g : BitVec 6)
  | attentionFire (dae : Bool)
  | attentionComplete (dae : Bool)
  | attentionReservationReturn (dae : Bool)
  -- millrace
  | arrWait (d b : Reg) (races : BitVec 2)
  | segPin (d a b : Reg)
  | segUnpin (a : Reg)
  | segHold (d a b : Reg) (k : BitVec 4)
  -- scheduler
  | spawn (d a : Reg)
  | taskEnd (d : Reg) (mask : BitVec 4)
  | feSetFull (a : Reg)
  | feSetEmpty (a : Reg)
  | rqNextAdv (d a b : Reg)
  | rqNextDone (d a b : Reg)
  | rqNextSusp (d a b : Reg)
  | rqNextResume (d a b : Reg)
  | rqNextRelease (d a b : Reg)
  | cmpApp (d a b : Reg)
  | cmpTake (d a : Reg)
  | termOpen (d : Reg)
  | termClose (d : Reg)
  | termWait (d b : Reg)
  | bar (lvl : Level) (d b : Reg)
  | dmSet (lvl : Level) (a : Reg)
  -- ballot
  | bltOpen (d a b : Reg)
  | bltPost (d a b : Reg)
  | bltRead (d a : Reg) (sel : BitVec 4)
  | bltClose (d a : Reg)
  -- power
  | govRes (d a : Reg)
  | govRel (d : Reg)
  | govBallast (d a : Reg)
  | opReq (d a : Reg)
  -- contexts
  | ctxSwap (d : Reg)
  | ctxSpill (d a : Reg)
  | ctxFill (d a : Reg)
  | partitionSwap (part : BitVec 2) (imageIn imageOut : Nat)
  -- checkpoint domain
  | rpCtlWrite (v : Word)
  -- hub
  | launchAdmit (part : BitVec 2) (addr : Nat) (rec : BitVec 512)
  | launchRun (part : BitVec 2) (addr : Nat) (rec : BitVec 512)
  | launchWindowRefused (addr : Nat)
  | launchContextStart (station : Nat)
  | logTailWrite (v : BitVec 32)
  | logOvfWrite (v : BitVec 32)
  | windowMWrite (off : Nat) (v : Word)
  | keepWindowAccess (off : Nat) (wdata : Option (List Byte)) (n : Nat)
  | xRemoteRequest (station : Nat) (part : BitVec 2) (ha : Word) (wdata : Option (List Byte)) (n : Nat)
  | ethernetForeignFrame (etherType : BitVec 16)
  | bringupStep (ok : Bool) (measurement : BitVec 512)
  | coreReset (core : Nat)
  | ringDieReset (station : Nat)
  | xChunkReply (refused : Bool) (rdata : List Byte)
  | windowMReadDuringBringUp (off : Nat)
  | dieLoss (station : Nat)
  -- instructions and events without fields
  | ret
  | idle
  | eret
  | nop
  | relRec
  | vectorIntakeStart
  | vectorReservationReturn
  | cbWaitTimeout
  | commitApply
  | engineFrontApply
  | meFire
  | meMacComplete
  | meDrainEnd
  | meReservationReturn
  | copyReservationReturn
  | pageWalkEnd
  | tlWaitTimeout
  | storePerform
  | resultLanding
  | bankWakeEnd
  | icacheFill
  | icflWrite
  | icacheFlushDone
  | tlbInvalidateDone
  | arrWaitTimeout
  | strokeBoundary
  | stagingEnd
  | reInjection
  | taskOffer
  | termWaitTimeout
  | barrierPass
  | barTimeout
  | governorStep
  | capSample
  | rampStep
  | rampComplete
  | droopEmergency
  | ctxSpillComplete
  | ctxFillComplete
  | trapEntry
  | freezeTimeout
  | containment
  | stageRefetch
  | kvMirrorWork
  | mirrorSequenceWord
  | recordComplete
  | mbCheckpoint
  | checkpointComplete
  | mbLoadModel
  | mbUnload
  | mbFenceStation
  | mbRestartRing
  | restoreComplete
  | mbAttest
  | mbSetPowerCap
  | mbAllotCluster
  | mbSetPeer
  | mbWarmReset
  | mbInvalidCode
  | mailboxComplete
  | xAckTimeout
  | powerOn
  | boWaitTimeout
  | durableWriteInCheckpointDomain
  deriving DecidableEq, Repr

end Sys2Proof
end

