-- ==== Sys2Proof/WellFormed.lean ====
section
/-! DEFINITION. Which instructions are legal: the field rules that the types of Syntax do not already carry (spec 02 R33, R35, R38, R43, R48 and each instruction's own rule). -/

namespace Sys2Proof

/-- Lane width in bits of an element type (06 R128). -/
def VTy.width : VTy → Nat
  | .s8 | .n8 | .m8 => 8
  | .s16 | .n16 | .bf16 => 16
  | .s32 | .n32 | .f32 => 32

/-- The float types F of 06 R132. -/
def VTy.isF : VTy → Bool
  | .bf16 | .f32 => true
  | _ => false

/-- The integer types I of 06 R132. -/
def VTy.isI : VTy → Bool
  | .bf16 | .f32 | .m8 => false
  | _ => true

/-- The signed integer types SI of 06 R132. -/
def VTy.isSI : VTy → Bool
  | .s8 | .s16 | .s32 => true
  | _ => false

/-- Ratio of two element widths (06 R128). -/
def VTy.ratio (wide narrow : VTy) : Nat := wide.width / narrow.width

/-- A block of `h` rows and `w` columns at origin `v` fits the 16 x 16 grid (02 R43). -/
def blockFits (v : BitVec 8) (h w : Nat) : Bool :=
  decide (v.toNat / 16 + h ≤ 16) && decide (v.toNat % 16 + w ≤ 16)

/-- What a field of slot V names in an operation (06 R132). -/
inductive VKind where
  | vec (h w : Nat)   -- a vector block of that shape
  | pred              -- a predicate register
  | scal              -- a scalar register
  | none              -- unused, must be zero
  deriving DecidableEq, Repr

/-- A field obeys its kind (02 R43). -/
def VKind.ok : VKind → BitVec 8 → Bool
  | .vec h w, v => blockFits v h w
  | .pred, v => decide (v.toNat < 64)
  | .scal, v => decide (v.toNat < 64)
  | .none, v => v == 0

/-- What an operation of slot V takes: the kinds of its four fields and whether rnd, sat and pred are used. -/
structure VUse where
  tyOk : Bool
  d : VKind
  a : VKind
  b : VKind
  c : VKind
  rnd : Bool
  sat : Bool
  pred : Bool
  deriving DecidableEq, Repr

/-- Block height and width of slot V fields. -/
def VArgs.hN (v : VArgs) : Nat := v.h.toNat + 1
def VArgs.wN (v : VArgs) : Nat := v.w.toNat + 1

/-- The uniform shape of all operands (06 R128). -/
def VArgs.blk (v : VArgs) : VKind := .vec v.hN v.wN

/-- Three-operand uniform use. -/
def vUse3 (v : VArgs) (tyOk rnd sat : Bool) : VUse :=
  { tyOk := tyOk, d := v.blk, a := v.blk, b := v.blk, c := .none, rnd := rnd, sat := sat, pred := true }

/-- Two-operand uniform use. -/
def vUse2 (v : VArgs) (tyOk rnd sat : Bool) : VUse :=
  { tyOk := tyOk, d := v.blk, a := v.blk, b := .none, c := .none, rnd := rnd, sat := sat, pred := true }

/-- A predicate operation (06 R128, R151). -/
def vUseP (v : VArgs) (b : VKind) : VUse :=
  { tyOk := v.ty == .s8 && v.h == 0 && v.w == 0, d := .pred, a := .pred, b := b, c := .none, rnd := false, sat := false,
    pred := false }

/-- The use of each field, by operation (06 R128, R132); `none` for an instruction of another slot. -/
def vUse : Instr → Option (VArgs × VUse)
  | .vadd v => some (v, vUse3 v (v.ty.isI || v.ty.isF) v.ty.isF true)
  | .vsub v => some (v, vUse3 v (v.ty.isI || v.ty.isF) v.ty.isF true)
  | .vmul v => some (v, vUse3 v (v.ty.isI || v.ty.isF) v.ty.isF true)
  | .vfma _ v => some (v, { vUse3 v v.ty.isF true true with c := v.blk })
  | .vmin v => some (v, vUse3 v (v.ty.isI || v.ty.isF) false false)
  | .vmax v => some (v, vUse3 v (v.ty.isI || v.ty.isF) false false)
  | .vabs v => some (v, vUse2 v (v.ty.isSI || v.ty.isF) false v.ty.isI)
  | .vneg v => some (v, vUse2 v (v.ty.isSI || v.ty.isF) false v.ty.isI)
  | .vand v => some (v, vUse3 v true false false)
  | .vor v => some (v, vUse3 v true false false)
  | .vxor v => some (v, vUse3 v true false false)
  | .vnot v => some (v, vUse2 v true false false)
  | .vshl v => some (v, vUse3 v v.ty.isI false false)
  | .vshr v => some (v, vUse3 v v.ty.isI false false)
  | .vsar v => some (v, vUse3 v v.ty.isSI false false)
  | .vcmp _ v => some (v, { vUse3 v (v.ty.isI || v.ty.isF) false false with d := .pred })
  | .vsel v => some (v, { vUse3 v true false false with c := .pred })
  | .vcvt src v =>
    let q := if v.ty.width ≤ src.width then VTy.ratio src v.ty else VTy.ratio v.ty src
    let narrowD := decide (v.ty.width ≤ src.width)
    some (v, { tyOk := (src != v.ty) && (if src == .m8 then v.ty.isF else true) && (if v.ty == .m8 then src.isF else true),
               d := if narrowD then v.blk else .vec v.hN (v.wN * q), a := if narrowD then .vec v.hN (v.wN * q) else v.blk,
               b := .none, c := .none, rnd := !(src.isI && v.ty.isI), sat := true, pred := true })
  | .vexp2 v => some (v, vUse2 v v.ty.isF true true)
  | .vlog2 v => some (v, vUse2 v v.ty.isF true true)
  | .vrcp v => some (v, vUse2 v v.ty.isF true true)
  | .vrsq v => some (v, vUse2 v v.ty.isF true true)
  | .vtanh v => some (v, vUse2 v v.ty.isF true true)
  | .vred op v => some (v, { vUse2 v (v.ty.isI || v.ty.isF) (v.ty.isF && op == .sum) (op == .sum) with d := .vec v.hN 1 })
  | .vperm v => some (v, vUse3 v true false false)
  | .vbcast v => some (v, { vUse2 v true false false with a := .scal })
  | .vext v => some (v, { vUse3 v true false false with c := .scal })
  | .vins v => some (v, { vUse2 v true false false with b := .scal, c := .scal })
  | .vmov v => some (v, vUse2 v true false false)
  | .vrot v => some (v, { vUse2 v true false false with b := .scal })
  | .vquant v =>
    some (v, { vUse2 v v.ty.isF false false with a := .vec v.hN (v.wN * (v.ty.width / 8)), c := .vec v.hN 1 })
  | .vdeq v =>
    some (v, { vUse2 v v.ty.isF true true with d := .vec v.hN (v.wN * (v.ty.width / 8)), c := .vec v.hN 1 })
  | .vdot v =>
    some (v, { vUse3 v (v.ty == .s8 || v.ty == .n8 || v.ty == .s16 || v.ty == .bf16) (v.ty == .bf16) v.ty.isI with c := v.blk })
  | .vsmx v => some (v, { vUse2 v (v.ty == .f32) false false with d := .vec v.hN 1, c := .vec v.hN 1 })
  | .vpack v =>
    some (v, { vUse3 v (v.ty == .s16 || v.ty == .n16 || v.ty == .s32 || v.ty == .n32) false true with pred := false })
  | .vunpk v =>
    some (v, { vUse2 v (v.ty == .s16 || v.ty == .n16 || v.ty == .s32 || v.ty == .n32) false false with b := .scal })
  | .pand v => some (v, vUseP v .pred)
  | .por v => some (v, vUseP v .pred)
  | .pxor v => some (v, vUseP v .pred)
  | .pnot v => some (v, vUseP v .none)
  | .ppopc v => some (v, { vUse2 v v.ty.isI false false with a := .pred })
  | _ => none

/-- Whether a kind is a vector block. -/
def VKind.isVec : VKind → Bool
  | .vec _ _ => true
  | _ => false

/-- The field rules of slot V (02 R43, 06 R130 to R132). -/
def vWf (v : VArgs) (u : VUse) : Bool :=
  u.tyOk && u.d.ok v.d && u.a.ok v.a && u.b.ok v.b && u.c.ok v.c
    && (u.rnd || v.rnd == .rne) && (u.sat || !v.sat) && (u.pred || v.pred == 0) && (u.a.isVec || !v.da)

/-- The CSR numbers that some chapter lists (05 R117). -/
def csrImplemented (n : Nat) : Bool :=
  [(0x000, 0x002), (0x010, 0x01B), (0x020, 0x028), (0x100, 0x10A), (0x10C, 0x113), (0x130, 0x132), (0x140, 0x143),
   (0x200, 0x203), (0x300, 0x30C), (0x320, 0x32D), (0x340, 0x342), (0x400, 0x407), (0x410, 0x414), (0x420, 0x422),
   (0x430, 0x433), (0x440, 0x445), (0x450, 0x456), (0x460, 0x461), (0x500, 0x50D)].any
    (fun r => decide (r.1 ≤ n) && decide (n ≤ r.2))

/-- A count of slots, 1 to 256 (07 R165). -/
def cbCountOk (n : BitVec 9) : Bool := decide (1 ≤ n.toNat) && decide (n.toNat ≤ 256)

/-- The flags of a copy and its cb field (09 R223). -/
def cpWf (f : CpFlags) (cb : BitVec 4) : Bool := !(f.dcb && f.scb) && (f.dcb || f.scb || cb == 0)

/-- A patch word (02 R47, R48): engines 4 to 7 are illegal, and field 31 takes the value zero. -/
def pwWf (p : PatchWord) : Bool := decide (p.eng.toNat < 4) && (p.field != 31 || p.value == 0)

/-- The 31-bit patch word. -/
def PatchWord.bits (p : PatchWord) : Nat :=
  put p.eng.toNat 28 + put p.tmpl.toNat 22 + put p.field.toNat 17 + put p.value.toNat 1 + bit p.issue

/-- Banks of a buffer space (07 R152). -/
def BufSp.banks : BufSp → Nat
  | .w => 16
  | .a => 12
  | .c => 8
  | .p => 4

/-- The block of a vector load or store fits the grid (02 R38). -/
def VMem.wf (m : VMem) : Bool := blockFits m.v (m.h.toNat + 1) (m.w.toNat + 1)

/-- The well-formed instructions: those that R33 does not call illegal, and the events whose operands name something that
exists. -/
def Instr.wf : Instr → Bool
  | .brpAny _ w _ | .brpAll _ w _ | .brpNone _ w _ => w != 3
  | .loopSet _ _ off => off != 0
  | .loopSeti _ _ off => off != 0
  | .csrr _ c => csrImplemented c.toNat
  | .csrw c _ | .csrs c _ | .csrc c _ => csrImplemented c.toNat
  | .vld m | .vst m | .vldVer m => m.wf
  | .vcmp op v =>
    (match vUse (.vcmp op v) with
     | some (v, u) => vWf v u
     | none => false) && decide (v.d.toNat + v.hN * v.wN ≤ 64)
  | .cbPush _ n | .cbPop _ n => cbCountOk n
  | .cbWait _ _ _ n _ => cbCountOk n
  | .ftLd first n _ => decide (first.toNat + n.toNat + 1 ≤ 32)
  | .patchPair hi lo => pwWf hi && pwWf lo
  | .cp f cb _ _ _ _ => cpWf f cb
  | .cp2d f _ cb _ _ _ _ | .gat f _ cb _ _ _ _ | .sca f _ cb _ _ _ _ => cpWf f cb
  | .bankBuf _ sp m => decide (m.toNat < 2 ^ sp.banks)
  | .arrWait _ _ r => r != 0
  | .segHold _ _ _ k => decide (k.toNat ≤ 8)
  | .bltRead _ _ which => which != 15
  | .windowMWrite off _ => decide (off < 0x80000)
  | .windowMReadDuringBringUp off => decide (off < 0xA0000)
  | .keepWindowAccess off _ n => decide (off + n ≤ 2 ^ 36)
  | .coreReset k => decide (k < 1536)
  | .ringDieReset n | .dieLoss n | .launchContextStart n => decide (n < 32)
  | .xRemoteRequest n _ _ _ _ => decide (n < 32)
  | i =>
    match vUse i with
    | some (v, u) => vWf v u
    | none => true

end Sys2Proof
end

