-- ==== Sys2Proof/Decode.lean ====
section
/-! DEFINITION. The decoder of slots and bundles, and the encoder (spec 02 R28 to R48). -/

namespace Sys2Proof

/-- A candidate instruction, kept where the fields its format leaves unused are zero (02 R33). -/
def cand (unusedZero : Bool) (i : Instr) : Option Instr := if unusedZero then some i else none

/-- Keeps the well-formed instructions. -/
def legal (i : Option Instr) : Option Instr :=
  match i with
  | some i => if i.wf then some i else none
  | none => none

/-- Slot B before the field-value checks (02 R35 to R37). -/
def rawB (w : BitVec 32) : Option Instr :=
  let z (lo n : Nat) : Bool := w.extractLsb' lo n == 0
  match (w.extractLsb' 26 6).toNat with
  | 0x00 => cand (w == 0) .nop
  | 0x01 =>
    if w.getLsbD 19 then some (.brNz (w.extractLsb' 20 6) (w.extractLsb' 0 19))
    else some (.brZ (w.extractLsb' 20 6) (w.extractLsb' 0 19))
  | 0x02 =>
    match (w.extractLsb' 18 2).toNat with
    | 0 => some (.brpAny (w.extractLsb' 20 6) (w.extractLsb' 16 2) (w.extractLsb' 0 16))
    | 1 => some (.brpAll (w.extractLsb' 20 6) (w.extractLsb' 16 2) (w.extractLsb' 0 16))
    | 2 => some (.brpNone (w.extractLsb' 20 6) (w.extractLsb' 16 2) (w.extractLsb' 0 16))
    | _ => none
  | 0x03 => some (.jmp (w.extractLsb' 0 26))
  | 0x04 => cand (z 0 20) (.jmpr (w.extractLsb' 20 6))
  | 0x05 => some (.call (w.extractLsb' 0 26))
  | 0x06 => cand (z 0 20) (.callr (w.extractLsb' 20 6))
  | 0x07 => cand (z 0 26) .ret
  | 0x08 => some (.loopSet (w.extractLsb' 24 2) (w.extractLsb' 18 6) (w.extractLsb' 0 18))
  | 0x09 => some (.loopSeti (w.extractLsb' 24 2) (w.extractLsb' 12 12) (w.extractLsb' 0 12))
  | 0x0A => cand (z 0 24) (.loopEnd (w.extractLsb' 24 2))
  | 0x0B =>
    if w.getLsbD 15 then some (.tsbNone (w.extractLsb' 22 4) (w.extractLsb' 16 6) (w.extractLsb' 0 15))
    else some (.tsbAny (w.extractLsb' 22 4) (w.extractLsb' 16 6) (w.extractLsb' 0 15))
  | 0x0C => some (.ipf (w.extractLsb' 22 4) (w.extractLsb' 0 22))
  | 0x0D => some (.phmark (w.extractLsb' 0 26))
  | 0x0E => cand (z 16 10) (.trap (w.extractLsb' 0 16))
  | 0x0F => cand (z 16 10) (.brk (w.extractLsb' 0 16))
  | 0x10 => cand (z 0 26) .idle
  | 0x11 => cand (z 0 26) .eret
  | 0x12 => cand (z 0 8) (.csrr (w.extractLsb' 20 6) (w.extractLsb' 8 12))
  | 0x13 => cand (z 0 8) (.csrw (w.extractLsb' 8 12) (w.extractLsb' 20 6))
  | 0x14 => cand (z 0 8) (.csrs (w.extractLsb' 8 12) (w.extractLsb' 20 6))
  | 0x15 => cand (z 0 8) (.csrc (w.extractLsb' 8 12) (w.extractLsb' 20 6))
  | _ => none

/-- The decoder of slot B. -/
def decodeB (w : BitVec 32) : Option Instr := legal (rawB w)

/-- The two-source and one-source ALU operations by minor (02 R41). -/
def aluOp (minor : Nat) (d a b : Reg) : Option Instr :=
  match minor with
  | 0x00 => some (.add d a b)
  | 0x01 => some (.sub d a b)
  | 0x02 => some (.mul d a b)
  | 0x03 => some (.mulh d a b)
  | 0x04 => some (.mulhn d a b)
  | 0x05 => some (.div d a b)
  | 0x06 => some (.divn d a b)
  | 0x07 => some (.rem d a b)
  | 0x08 => some (.remn d a b)
  | 0x09 => some (.and d a b)
  | 0x0A => some (.or d a b)
  | 0x0B => some (.xor d a b)
  | 0x0C => some (.andn d a b)
  | 0x0D => some (.shl d a b)
  | 0x0E => some (.shr d a b)
  | 0x0F => some (.sar d a b)
  | 0x10 => some (.rol d a b)
  | 0x11 => some (.min d a b)
  | 0x12 => some (.max d a b)
  | 0x13 => some (.minn d a b)
  | 0x14 => some (.maxn d a b)
  | 0x15 => some (.seq d a b)
  | 0x16 => some (.sne d a b)
  | 0x17 => some (.slt d a b)
  | 0x18 => some (.sltn d a b)
  | 0x19 => some (.sle d a b)
  | 0x1A => some (.slen d a b)
  | 0x1B => cand (b == 0) (.clz d a)
  | 0x1C => cand (b == 0) (.ctz d a)
  | 0x1D => cand (b == 0) (.popc d a)
  | 0x1E => cand (b == 0) (.bswap d a)
  | 0x1F => cand (b == 0) (.mov d a)
  | _ => none

/-- The immediate ALU operations by minor (02 R41). -/
def aluiOp (minor : Nat) (d a : Reg) (imm : BitVec 32) : Option Instr :=
  match minor with
  | 0x00 => some (.addi d a imm)
  | 0x01 => some (.andi d a imm)
  | 0x02 => some (.ori d a imm)
  | 0x03 => some (.xori d a imm)
  | 0x04 => cand (imm.extractLsb' 6 26 == 0) (.shli d a (imm.extractLsb' 0 6))
  | 0x05 => cand (imm.extractLsb' 6 26 == 0) (.shri d a (imm.extractLsb' 0 6))
  | 0x06 => cand (imm.extractLsb' 6 26 == 0) (.sari d a (imm.extractLsb' 0 6))
  | 0x07 => some (.slti d a imm)
  | 0x08 => some (.sltni d a imm)
  | 0x09 => some (.seqi d a imm)
  | 0x0A => some (.muli d a imm)
  | _ => none

/-- Size codes of ld (02 R39). -/
def ldSize : Nat → Option LdSize
  | 0 => some .b | 1 => some .bn | 2 => some .h | 3 => some .hn | 4 => some .w | 5 => some .wn | 6 => some .d
  | _ => none

/-- Size codes of st (02 R39). -/
def stSize : Nat → Option StSize
  | 0 => some .b | 2 => some .h | 4 => some .w | 6 => some .d
  | _ => none

/-- Scope codes (02 R39). -/
def scopeOf : Nat → Option Scope
  | 0 => some .core | 1 => some .clus | 2 => some .die | 3 => some .mod | 4 => some .sys
  | _ => none

/-- Operation codes of amo (02 R39). -/
def amoOf : Nat → Option AmoOp
  | 0 => some .add | 1 => some .and | 2 => some .or | 3 => some .xor | 4 => some .min | 5 => some .max
  | 6 => some .minn | 7 => some .maxn | 8 => some .swap
  | _ => none

/-- The fields of a vector load or store (02 R38, VM). -/
def vmemOf (w : BitVec 64) : VMem :=
  { v := w.extractLsb' 50 8, base := w.extractLsb' 44 6, h := w.extractLsb' 40 4, w := w.extractLsb' 36 4,
    stride := w.extractLsb' 24 12, off := w.extractLsb' 12 12, handle := w.extractLsb' 0 12 }

/-- Slot M before the field-value checks (02 R38 to R41). -/
def rawM (w : BitVec 64) : Option Instr :=
  let z (lo n : Nat) : Bool := w.extractLsb' lo n == 0
  let f52 : Reg := w.extractLsb' 52 6
  let f46 : Reg := w.extractLsb' 46 6
  let f40 : Reg := w.extractLsb' 40 6
  match (w.extractLsb' 58 6).toNat with
  | 0x00 => cand (w == 0) .nop
  | 0x01 => if z 0 32 then aluOp (w.extractLsb' 32 8).toNat f52 f46 f40 else none
  | 0x02 => if z 32 8 then aluiOp f40.toNat f52 f46 (w.extractLsb' 0 32) else none
  | 0x03 => cand (z 32 20) (.li f52 (w.extractLsb' 0 32))
  | 0x04 => cand (z 32 20) (.lih f52 (w.extractLsb' 0 32))
  | 0x05 => cand (z 0 28) (.sel f52 f46 f40 (w.extractLsb' 34 6) (w.extractLsb' 28 6))
  | 0x06 =>
    match ldSize (w.extractLsb' 31 3).toNat with
    | some sz => cand (z 28 3 && z 0 8) (.ld sz f52 f46 (w.extractLsb' 34 12) (w.extractLsb' 8 20))
    | none => none
  | 0x07 =>
    match stSize (w.extractLsb' 31 3).toNat with
    | some sz => cand (z 28 3 && z 0 8) (.st sz f52 f46 (w.extractLsb' 34 12) (w.extractLsb' 8 20))
    | none => none
  | 0x08 => some (.vld (vmemOf w))
  | 0x09 => some (.vst (vmemOf w))
  | 0x0A => some (.vldVer (vmemOf w))
  | 0x0B =>
    match amoOf (w.extractLsb' 24 4).toNat, scopeOf (w.extractLsb' 20 3).toNat with
    | some op, some sc => some (.amo op (w.getLsbD 23) sc f52 f46 f40 (w.extractLsb' 28 12) (w.extractLsb' 0 20))
    | _, _ => none
  | 0x0C =>
    match scopeOf (w.extractLsb' 18 3).toNat with
    | some sc =>
      some (.cas (w.getLsbD 21) sc f52 f46 f40 (w.extractLsb' 34 6) (w.extractLsb' 22 12) (w.extractLsb' 0 18))
    | none => none
  | 0x0D => cand (z 0 8) (.boArr f52 f46 f40 (w.extractLsb' 28 12) (w.extractLsb' 8 20))
  | 0x0E => cand (z 0 2) (.boWait f52 f46 f40 (w.extractLsb' 2 6) (w.extractLsb' 28 12) (w.extractLsb' 8 20))
  | 0x0F =>
    match scopeOf (w.extractLsb' 55 3).toNat with
    | some sc => cand (z 0 55) (.fence sc)
    | none => none
  | 0x10 => cand (z 0 58) .relRec
  | 0x11 => cand (z 52 6 && z 0 40) (.hset f46 f40)
  | 0x12 => cand (z 52 6 && z 0 46) (.hinv f46)
  | 0x13 => cand (z 0 8) (.dstc f52 f46 f40 (w.extractLsb' 28 12) (w.extractLsb' 8 20))
  | 0x14 => cand (z 40 6 && z 0 8) (.dldc f52 f46 (w.extractLsb' 28 12) (w.extractLsb' 8 20))
  | _ => none

/-- The decoder of slot M. -/
def decodeM (w : BitVec 64) : Option Instr := legal (rawM w)

/-- Element type codes (02 R42). -/
def vtyOf : Nat → Option VTy
  | 0 => some .s8 | 1 => some .n8 | 2 => some .s16 | 3 => some .n16 | 4 => some .s32 | 5 => some .n32
  | 6 => some .bf16 | 7 => some .f32 | 8 => some .m8
  | _ => none

/-- Rounding codes (02 R42). -/
def rndOf : Nat → Rnd
  | 0 => .rne | 1 => .rtz | 2 => .rup
  | _ => .rdn

/-- The fields of slot V (02 R42). -/
def vargsOf (ty : VTy) (w : BitVec 64) : VArgs :=
  { ty := ty, d := w.extractLsb' 46 8, a := w.extractLsb' 38 8, b := w.extractLsb' 30 8, c := w.extractLsb' 22 8,
    h := w.extractLsb' 18 4, w := w.extractLsb' 14 4, pred := w.extractLsb' 8 6, rnd := rndOf (w.extractLsb' 6 2).toNat,
    sat := w.getLsbD 5, da := w.getLsbD 4 }

/-- Slot V operations by major and minor (02 R44). -/
def vOp (major minor : Nat) (v : VArgs) : Option Instr :=
  match major with
  | 0x04 =>
    match minor with
    | 0 => some (.vfma .fma v) | 1 => some (.vfma .fms v) | 2 => some (.vfma .fnma v)
    | _ => none
  | 0x10 =>
    match minor with
    | 0 => some (.vcmp .eq v) | 1 => some (.vcmp .ne v) | 2 => some (.vcmp .lt v) | 3 => some (.vcmp .le v)
    | 4 => some (.vcmp .gt v) | 5 => some (.vcmp .ge v)
    | _ => none
  | 0x12 => match vtyOf minor with
    | some src => some (.vcvt src v)
    | none => none
  | 0x18 =>
    match minor with
    | 0 => some (.vred .sum v) | 1 => some (.vred .max v) | 2 => some (.vred .min v)
    | _ => none
  | 0x01 => cand (minor == 0) (.vadd v)
  | 0x02 => cand (minor == 0) (.vsub v)
  | 0x03 => cand (minor == 0) (.vmul v)
  | 0x05 => cand (minor == 0) (.vmin v)
  | 0x06 => cand (minor == 0) (.vmax v)
  | 0x07 => cand (minor == 0) (.vabs v)
  | 0x08 => cand (minor == 0) (.vneg v)
  | 0x09 => cand (minor == 0) (.vand v)
  | 0x0A => cand (minor == 0) (.vor v)
  | 0x0B => cand (minor == 0) (.vxor v)
  | 0x0C => cand (minor == 0) (.vnot v)
  | 0x0D => cand (minor == 0) (.vshl v)
  | 0x0E => cand (minor == 0) (.vshr v)
  | 0x0F => cand (minor == 0) (.vsar v)
  | 0x11 => cand (minor == 0) (.vsel v)
  | 0x13 => cand (minor == 0) (.vexp2 v)
  | 0x14 => cand (minor == 0) (.vlog2 v)
  | 0x15 => cand (minor == 0) (.vrcp v)
  | 0x16 => cand (minor == 0) (.vrsq v)
  | 0x17 => cand (minor == 0) (.vtanh v)
  | 0x19 => cand (minor == 0) (.vperm v)
  | 0x1A => cand (minor == 0) (.vbcast v)
  | 0x1B => cand (minor == 0) (.vext v)
  | 0x1C => cand (minor == 0) (.vins v)
  | 0x1D => cand (minor == 0) (.vmov v)
  | 0x1E => cand (minor == 0) (.vquant v)
  | 0x1F => cand (minor == 0) (.vdeq v)
  | 0x20 => cand (minor == 0) (.vdot v)
  | 0x21 => cand (minor == 0) (.vsmx v)
  | 0x22 => cand (minor == 0) (.vpack v)
  | 0x23 => cand (minor == 0) (.vunpk v)
  | 0x24 => cand (minor == 0) (.pand v)
  | 0x25 => cand (minor == 0) (.por v)
  | 0x26 => cand (minor == 0) (.pxor v)
  | 0x27 => cand (minor == 0) (.pnot v)
  | 0x28 => cand (minor == 0) (.ppopc v)
  | 0x29 => cand (minor == 0) (.vrot v)
  | _ => none

/-- Slot V before the field-value checks (02 R42 to R44). -/
def rawV (w : BitVec 64) : Option Instr :=
  if w == 0 then some .nop
  else
    match vtyOf (w.extractLsb' 54 4).toNat with
    | some ty => vOp (w.extractLsb' 58 6).toNat (w.extractLsb' 0 4).toNat (vargsOf ty w)
    | none => none

/-- The decoder of slot V. -/
def decodeV (w : BitVec 64) : Option Instr := legal (rawV w)

/-- Engine codes of `mt.ld` (08 R197). -/
def engOf : Nat → Eng
  | 0 => .me | 1 => .pae | 2 => .dae
  | _ => .ce

/-- Timeline minors (02 R46). -/
def tlOf : Nat → Option Tl
  | 0 => some .me | 1 => some .ce | 2 => some .vp | 3 => some .at
  | _ => none

/-- Level minors (02 R46). -/
def levelOf : Nat → Option Level
  | 0 => some .clus | 1 => some .die | 2 => some .mod
  | _ => none

/-- Bank state codes of `bank` (05 R126). -/
def bankStOf : Nat → Option BankSt
  | 0 => some .full | 1 => some .ret | 2 => some .off
  | _ => none

/-- Buffer space codes of `bank` (05 R126). -/
def bufSpOf : Nat → Option BufSp
  | 0 => some .w | 1 => some .a | 2 => some .c | 3 => some .p
  | _ => none

/-- A patch word (02 R47). -/
def pwOf (w : BitVec 31) : PatchWord :=
  { eng := w.extractLsb' 28 3, tmpl := w.extractLsb' 22 6, field := w.extractLsb' 17 5, value := w.extractLsb' 1 16,
    issue := w.getLsbD 0 }

/-- The flags of a copy instruction (09 R223). -/
def cpFlagsOf (imm : BitVec 26) : CpFlags :=
  { ver := imm.getLsbD 0, whole := imm.getLsbD 1, ph := imm.getLsbD 2, dcb := imm.getLsbD 3, scb := imm.getLsbD 4 }

/-- Slot E before the field-value checks (02 R45, R46, and the encoding table of each instruction's chapter). -/
def rawE (w : BitVec 64) : Option Instr :=
  if w.extractLsb' 62 2 == 3 then some (.patchPair (pwOf (w.extractLsb' 31 31)) (pwOf (w.extractLsb' 0 31)))
  else
    let d : Reg := w.extractLsb' 48 6
    let a : Reg := w.extractLsb' 42 6
    let b : Reg := w.extractLsb' 36 6
    let c : Reg := w.extractLsb' 30 6
    let cb : BitVec 4 := w.extractLsb' 26 4
    let imm : BitVec 26 := w.extractLsb' 0 26
    let minor := (w.extractLsb' 54 4).toNat
    let m0 : Bool := minor == 0
    let iz (lo : Nat) : Bool := imm.toNat < 2 ^ lo
    match (w.extractLsb' 58 6).toNat with
    | 0x00 => cand (w == 0) .nop
    | 0x01 => cand (m0 && d == 0 && b == 0 && c == 0 && imm == 0) (.cbSet cb a)
    | 0x02 => cand (m0 && d == 0 && a == 0 && b == 0 && c == 0 && iz 9) (.cbPush cb (imm.extractLsb' 0 9))
    | 0x03 => cand (m0 && d == 0 && a == 0 && b == 0 && c == 0 && iz 9) (.cbPop cb (imm.extractLsb' 0 9))
    | 0x04 => cand (m0 && a == 0 && c == 0 && iz 10) (.cbWait d cb (imm.getLsbD 9) (imm.extractLsb' 0 9) b)
    | 0x05 => cand (m0 && a == 0 && b == 0 && c == 0 && iz 10) (.cbRd d cb (imm.extractLsb' 8 2) (imm.extractLsb' 0 8))
    | 0x06 => cand (m0 && d == 0 && a == 0 && b == 0 && c == 0 && cb == 0 && iz 16) (.cbRel (imm.extractLsb' 0 16))
    | 0x07 => cand (m0 && d == 0 && cb == 0 && iz 7) (.mm (imm.extractLsb' 0 6) (imm.getLsbD 6) a b c)
    | 0x08 =>
      cand (m0 && d == 0 && b == 0 && c == 0 && cb == 0 && iz 8)
        (.mtLd (engOf (imm.extractLsb' 6 2).toNat) (imm.extractLsb' 0 6) a)
    | 0x09 =>
      cand (m0 && d == 0 && b == 0 && c == 0 && cb == 0 && iz 10) (.ftLd (imm.extractLsb' 0 5) (imm.extractLsb' 5 5) a)
    | 0x0A =>
      cand (m0 && d == 0 && b == 0 && c == 0 && cb == 0 && iz 11) (.epLd (imm.extractLsb' 0 6) (imm.extractLsb' 6 5) a)
    | 0x0B => cand (m0 && iz 5) (.cp (cpFlagsOf imm) cb d a b c)
    | 0x0C =>
      cand (m0 && iz 22 && !imm.getLsbD 1 && !imm.getLsbD 3 && !imm.getLsbD 4 && imm.extractLsb' 5 1 == 0)
        (.cpM (imm.getLsbD 0) (imm.getLsbD 2) cb (imm.extractLsb' 6 16) d a b c)
    | 0x0D => cand (m0 && iz 11) (.cp2d (cpFlagsOf imm) (imm.extractLsb' 5 6) cb d a b c)
    | 0x0E => cand (m0 && iz 11) (.gat (cpFlagsOf imm) (imm.extractLsb' 5 6) cb d a b c)
    | 0x0F => cand (m0 && iz 11) (.sca (cpFlagsOf imm) (imm.extractLsb' 5 6) cb d a b c)
    | 0x10 =>
      cand (m0 && b == 0 && c == 0 && cb == 0 && iz 1) (if imm.getLsbD 0 then .cpResDrop d a else .cpRes d a)
    | 0x11 =>
      match tlOf minor with
      | some tl => cand (c == 0 && cb == 0 && imm == 0) (.tlWait tl d a b)
      | none => none
    | 0x12 =>
      match tlOf minor with
      | some tl => cand (a == 0 && b == 0 && c == 0 && cb == 0 && imm == 0) (.tlRd tl d)
      | none => none
    | 0x13 =>
      match tlOf minor with
      | some tl => cand (d == 0 && c == 0 && cb == 0 && imm == 0) (.tlPub tl a b)
      | none => none
    | 0x14 => cand (m0 && d == 0 && b == 0 && c == 0 && cb == 0 && iz 4) (.atMask (imm.extractLsb' 0 4) a)
    | 0x15 => cand (m0 && b == 0 && c == 0 && cb == 0 && iz 14) (.kvApp d a (imm.extractLsb' 0 6) (imm.extractLsb' 6 8))
    | 0x16 => cand (m0 && c == 0 && cb == 0 && iz 6) (.kvLk d a b (imm.extractLsb' 0 6))
    | 0x17 =>
      if imm.getLsbD 0 then cand (m0 && b == 0 && c == 0 && cb == 0 && iz 1) (.kvAllocFork d a)
      else cand (m0 && a == 0 && b == 0 && c == 0 && cb == 0 && iz 1) (.kvAlloc d)
    | 0x18 => cand (m0 && b == 0 && c == 0 && cb == 0 && imm == 0) (.kvRef d a)
    | 0x19 =>
      cand (m0 && b == 0 && c == 0 && cb == 0 && iz 1) (if imm.getLsbD 0 then .kvFreeSeq d a else .kvFree d a)
    | 0x1A =>
      cand (m0 && c == 0 && cb == 0 && iz 7)
        (if imm.getLsbD 6 then .kvCowSpill d a b (imm.extractLsb' 0 6) else .kvCow d a b (imm.extractLsb' 0 6))
    | 0x1B =>
      match minor with
      | 0 => cand (b == 0 && c == 0 && cb == 0 && imm == 0) (.kvLenCommit d a)
      | 1 => cand (b == 0 && c == 0 && cb == 0 && imm == 0) (.kvLenRestore d a)
      | _ => none
    | 0x1C => cand (m0 && c == 0 && cb == 0 && iz 12) (.pfxIns d a b (imm.extractLsb' 0 6) (imm.extractLsb' 6 6))
    | 0x1D =>
      if imm.getLsbD 12 then
        cand (m0 && a == 0 && c == 0 && cb == 0 && iz 13 && imm.extractLsb' 6 6 == 0) (.pfxFindDrop d b (imm.extractLsb' 0 6))
      else cand (m0 && c == 0 && cb == 0 && iz 12) (.pfxFind d a b (imm.extractLsb' 0 6) (imm.extractLsb' 6 6))
    | 0x1E => cand (m0 && a == 0 && c == 0 && cb == 0 && iz 2) (.arrWait d b (imm.extractLsb' 0 2))
    | 0x1F => cand (m0 && c == 0 && cb == 0 && imm == 0) (.segPin d a b)
    | 0x20 => cand (m0 && d == 0 && b == 0 && c == 0 && cb == 0 && imm == 0) (.segUnpin a)
    | 0x21 => cand (m0 && c == 0 && cb == 0 && iz 4) (.segHold d a b (imm.extractLsb' 0 4))
    | 0x22 => cand (m0 && b == 0 && c == 0 && cb == 0 && imm == 0) (.spawn d a)
    | 0x23 => cand (m0 && a == 0 && b == 0 && c == 0 && cb == 0 && iz 4) (.taskEnd d (imm.extractLsb' 0 4))
    | 0x24 =>
      cand (m0 && d == 0 && b == 0 && c == 0 && cb == 0 && iz 1) (if imm.getLsbD 0 then .feSetFull a else .feSetEmpty a)
    | 0x25 =>
      if m0 && c == 0 && cb == 0 && iz 3 then
        match (imm.extractLsb' 0 3).toNat with
        | 0 => some (.rqNextAdv d a b)
        | 1 => some (.rqNextDone d a b)
        | 2 => some (.rqNextSusp d a b)
        | 3 => some (.rqNextResume d a b)
        | 4 => some (.rqNextRelease d a b)
        | _ => none
      else none
    | 0x26 => cand (m0 && c == 0 && cb == 0 && imm == 0) (.cmpApp d a b)
    | 0x27 => cand (m0 && b == 0 && c == 0 && cb == 0 && imm == 0) (.cmpTake d a)
    | 0x28 =>
      match minor with
      | 0 => cand (a == 0 && b == 0 && c == 0 && cb == 0 && imm == 0) (.termOpen d)
      | 1 => cand (a == 0 && b == 0 && c == 0 && cb == 0 && imm == 0) (.termClose d)
      | 2 => cand (a == 0 && c == 0 && cb == 0 && imm == 0) (.termWait d b)
      | _ => none
    | 0x29 =>
      match levelOf minor with
      | some l => cand (a == 0 && c == 0 && cb == 0 && imm == 0) (.bar l d b)
      | none => none
    | 0x2A =>
      match levelOf minor with
      | some l => cand (d == 0 && b == 0 && c == 0 && cb == 0 && imm == 0) (.dmSet l a)
      | none => none
    | 0x2B =>
      match minor with
      | 0 => cand (c == 0 && cb == 0 && imm == 0) (.bltOpen d a b)
      | 1 => cand (c == 0 && cb == 0 && imm == 0) (.bltPost d a b)
      | 2 => cand (b == 0 && c == 0 && cb == 0 && iz 4) (.bltRead d a (imm.extractLsb' 0 4))
      | 3 => cand (b == 0 && c == 0 && cb == 0 && imm == 0) (.bltClose d a)
      | _ => none
    | 0x2C =>
      match minor with
      | 0 => cand (b == 0 && c == 0 && cb == 0 && imm == 0) (.govRes d a)
      | 1 => cand (a == 0 && b == 0 && c == 0 && cb == 0 && imm == 0) (.govRel d)
      | 2 => cand (b == 0 && c == 0 && cb == 0 && imm == 0) (.govBallast d a)
      | _ => none
    | 0x2D => cand (m0 && b == 0 && c == 0 && cb == 0 && imm == 0) (.opReq d a)
    | 0x2E =>
      match minor with
      | 0 => cand (a == 0 && b == 0 && c == 0 && cb == 0 && imm == 0) (.ctxSwap d)
      | 1 => cand (b == 0 && c == 0 && cb == 0 && imm == 0) (.ctxSpill d a)
      | 2 => cand (b == 0 && c == 0 && cb == 0 && imm == 0) (.ctxFill d a)
      | _ => none
    | 0x2F =>
      if d == 0 && a == 0 && b == 0 && c == 0 && cb == 0 then
        match bankStOf (imm.extractLsb' 16 2).toNat with
        | some st =>
          match minor with
          | 0 => cand (iz 18) (.bankVec st (imm.extractLsb' 0 16))
          | 1 =>
            match bufSpOf (imm.extractLsb' 20 2).toNat with
            | some sp => cand (iz 22 && imm.extractLsb' 18 2 == 0) (.bankBuf st sp (imm.extractLsb' 0 16))
            | none => none
          | _ => none
        | none => none
      else none
    | _ => none

/-- The decoder of slot E. -/
def decodeE (w : BitVec 64) : Option Instr := legal (rawE w)

/-- The four slots of a bundle. -/
inductive Slot where
  | b | m | v | e
  deriving DecidableEq, Repr, Inhabited

/-- The value of TRAP.CAUSE.PART for a slot (02 R33, 16 R383). -/
def Slot.part : Slot → Nat
  | .b => 1
  | .m => 2
  | .v => 3
  | .e => 4

/-- Bit of the slot in the header's Q and X fields (02 R30). -/
def Slot.ix : Slot → Nat
  | .b => 0
  | .m => 1
  | .v => 2
  | .e => 3

/-- Operations that may carry Q, given that they stand outside slot B (02 R33). -/
def squashable : Instr → Bool
  | .cbWait .. | .tlWait .. | .boWait .. | .arrWait .. | .termWait .. | .bar .. => false
  | _ => true

/-- The scalar destination an operation names (04 R83). -/
def scalarDest : Instr → Option Reg
  | .call _ | .callr _ => some 63
  | .csrr d _ => some d
  | .add d _ _ | .sub d _ _ | .mul d _ _ | .mulh d _ _ | .mulhn d _ _ | .div d _ _ | .divn d _ _ | .rem d _ _ | .remn d _ _
  | .and d _ _ | .or d _ _ | .xor d _ _ | .andn d _ _ | .shl d _ _ | .shr d _ _ | .sar d _ _ | .rol d _ _ | .min d _ _
  | .max d _ _ | .minn d _ _ | .maxn d _ _ | .seq d _ _ | .sne d _ _ | .slt d _ _ | .sltn d _ _ | .sle d _ _ | .slen d _ _ => some d
  | .clz d _ | .ctz d _ | .popc d _ | .bswap d _ | .mov d _ => some d
  | .addi d _ _ | .andi d _ _ | .ori d _ _ | .xori d _ _ | .slti d _ _ | .sltni d _ _ | .seqi d _ _ | .muli d _ _ => some d
  | .shli d _ _ | .shri d _ _ | .sari d _ _ => some d
  | .li d _ | .lih d _ => some d
  | .sel d .. => some d
  | .ld _ d .. => some d
  | .amo _ _ _ d .. => some d
  | .cas _ _ d .. => some d
  | .boArr d .. | .boWait d .. | .dldc d .. => some d
  | .cbWait d .. | .cbRd d .. => some d
  | .cp _ _ d .. | .cpM _ _ _ _ d .. => some d
  | .cp2d _ _ _ d .. | .gat _ _ _ d .. | .sca _ _ _ d .. => some d
  | .cpRes d _ | .cpResDrop d _ => some d
  | .tlWait _ d .. | .tlRd _ d => some d
  | .kvApp d .. | .kvLk d .. | .kvAlloc d | .kvAllocFork d _ | .kvRef d _ | .kvFree d _ | .kvFreeSeq d _ | .kvCow d ..
  | .kvCowSpill d .. | .kvLenCommit d _ | .kvLenRestore d _ | .pfxIns d .. | .pfxFind d .. | .pfxFindDrop d .. => some d
  | .arrWait d .. | .segPin d .. | .segHold d .. => some d
  | .spawn d _ | .taskEnd d _ => some d
  | .rqNextAdv d .. | .rqNextDone d .. | .rqNextSusp d .. | .rqNextResume d .. | .rqNextRelease d .. => some d
  | .cmpApp d .. | .cmpTake d _ | .termOpen d | .termClose d | .termWait d _ => some d
  | .bar _ d _ => some d
  | .bltOpen d .. | .bltPost d .. | .bltRead d .. | .bltClose d _ => some d
  | .govRes d _ | .govRel d | .govBallast d _ | .opReq d _ => some d
  | .ctxSwap d | .ctxSpill d _ | .ctxFill d _ => some d
  | _ => none

/-- The operation writes a scalar, vector or predicate register (02 R31, R33). -/
def writesRegister (i : Instr) : Bool :=
  (scalarDest i).isSome || (vUse i).isSome ||
    match i with
    | .vld _ | .vldVer _ => true
    | _ => false

/-- A bundle that passed the checks of R33. -/
structure Bundle where
  hdr : BitVec 32
  b : Instr
  m : Instr
  v : Instr
  e : Instr
  deriving DecidableEq, Repr

/-- Why a bundle is illegal: the part that TRAP.CAUSE.PART names (02 R33). -/
inductive DecodeError where
  | header | slotB | slotM | slotV | slotE | slotELow | sameDest (later : Slot)
  deriving DecidableEq, Repr

/-- The PART value of a decode error (16 R383). -/
def DecodeError.part : DecodeError → Nat
  | .header => 0
  | .slotB => 1
  | .slotM => 2
  | .slotV => 3
  | .slotE => 4
  | .slotELow => 5
  | .sameDest s => s.part

/-- The failing part of an E slot: the low patch word where the high word alone is legal. -/
def eFailure (w : BitVec 64) : DecodeError :=
  if w.extractLsb' 62 2 == 3 && pwWf (pwOf (w.extractLsb' 31 31)) then .slotELow else .slotE

/-- A header bit that is set for a slot where it is illegal (02 R31, R33). `zero` says that the slot holds a nop. -/
def hdrBitBad (hdr : BitVec 32) (k : Nat) (zero : Bool) (i : Option Instr) : Bool :=
  if zero then hdr.getLsbD k || hdr.getLsbD (4 + k)
  else
    match i with
    | none => false
    | some i => (hdr.getLsbD k && !squashable i) || (hdr.getLsbD (4 + k) && !writesRegister i)

/-- Two slots name one scalar destination other than s0 (04 R83). -/
def clash (x y : Instr) : Bool :=
  match scalarDest x, scalarDest y with
  | some p, some q => p == q && p != 0
  | _, _ => false

/-- The check of a bundle, given its 256 bits (02 R33). -/
def decodeBundleBits (w : BitVec 256) : Except DecodeError Bundle :=
  let hdr : BitVec 32 := w.extractLsb' 0 32
  let wb : BitVec 32 := w.extractLsb' 32 32
  let wm : BitVec 64 := w.extractLsb' 64 64
  let wv : BitVec 64 := w.extractLsb' 128 64
  let we : BitVec 64 := w.extractLsb' 192 64
  let ib := decodeB wb
  let im := decodeM wm
  let iv := decodeV wv
  let ie := decodeE we
  let hbad := hdr.extractLsb' 26 6 != 0 || hdr.extractLsb' 24 2 == 3 || hdr.getLsbD 0
    || hdrBitBad hdr 0 (wb == 0) ib || hdrBitBad hdr 1 (wm == 0) im || hdrBitBad hdr 2 (wv == 0) iv
    || hdrBitBad hdr 3 (we == 0) ie
  if hbad then .error .header
  else
    match ib, im, iv, ie with
    | none, _, _, _ => .error .slotB
    | _, none, _, _ => .error .slotM
    | _, _, none, _ => .error .slotV
    | _, _, _, none => .error (eFailure we)
    | some b, some m, some v, some e =>
      if clash m e || clash b e then .error (.sameDest .e)
      else if clash b m then .error (.sameDest .m)
      else .ok { hdr := hdr, b := b, m := m, v := v, e := e }

/-- Bytes at rising addresses, as a little-endian number (00 R2). -/
def leNat : List Byte → Nat
  | [] => 0
  | x :: xs => x.toNat + 256 * leNat xs

/-- The decoder of a bundle's 32 bytes; a list of another length is no bundle. -/
def decodeBundle (bytes : List Byte) : Except DecodeError Bundle :=
  if bytes.length = 32 then decodeBundleBits (BitVec.ofNat 256 (leNat bytes)) else .error .header

/-- The instruction of a table row's word (the host's question): a 32-bit word is slot B's; a 256-bit word is a bundle with
one operation. -/
def decodeTableWord (nbits w : Nat) : Option Instr :=
  if nbits ≤ 32 then decodeB (BitVec.ofNat 32 w)
  else if nbits = 256 then
    match decodeBundleBits (BitVec.ofNat 256 w) with
    | .ok bd =>
      match [bd.b, bd.m, bd.v, bd.e].filter (fun i => i != .nop) with
      | [] => some .nop
      | [i] => some i
      | _ => none
    | .error _ => none
  else none

/-! ### The encoder -/

/-- The word of one slot. -/
inductive SlotWord where
  | b (w : BitVec 32)
  | m (w : BitVec 64)
  | v (w : BitVec 64)
  | e (w : BitVec 64)
  deriving DecidableEq, Repr

/-- A one-bit vector. -/
def b1 (x : Bool) : BitVec 1 := BitVec.ofBool x

/-- A three-register ALU word (02 R38, RRR). -/
def encRRR (minor : BitVec 8) (d a b : Reg) : SlotWord := .m (1#6 ++ d ++ a ++ b ++ minor ++ 0#32)

/-- An immediate ALU word (02 R38, RI). -/
def encRI (minor : BitVec 6) (d a : Reg) (imm : BitVec 32) : SlotWord := .m (2#6 ++ d ++ a ++ minor ++ 0#8 ++ imm)

/-- A vector load or store word (02 R38, VM). -/
def encVM (major : BitVec 6) (m : VMem) : SlotWord :=
  .m (major ++ m.v ++ m.base ++ m.h ++ m.w ++ m.stride ++ m.off ++ m.handle)

/-- Code of an element type (02 R42). -/
def VTy.code : VTy → BitVec 4
  | .s8 => 0 | .n8 => 1 | .s16 => 2 | .n16 => 3 | .s32 => 4 | .n32 => 5 | .bf16 => 6 | .f32 => 7 | .m8 => 8

/-- Code of a rounding mode (02 R42). -/
def Rnd.code : Rnd → BitVec 2
  | .rne => 0 | .rtz => 1 | .rup => 2 | .rdn => 3

/-- Code of a scope (02 R39). -/
def Scope.code : Scope → BitVec 3
  | .core => 0 | .clus => 1 | .die => 2 | .mod => 3 | .sys => 4

/-- Code of an atomic operation (02 R39). -/
def AmoOp.code : AmoOp → BitVec 4
  | .add => 0 | .and => 1 | .or => 2 | .xor => 3 | .min => 4 | .max => 5 | .minn => 6 | .maxn => 7 | .swap => 8

/-- Code of a load size (02 R39). -/
def LdSize.code : LdSize → BitVec 3
  | .b => 0 | .bn => 1 | .h => 2 | .hn => 3 | .w => 4 | .wn => 5 | .d => 6

/-- Code of a store size (02 R39). -/
def StSize.code : StSize → BitVec 3
  | .b => 0 | .h => 2 | .w => 4 | .d => 6

/-- Minors of vfma, vcmp and vred (02 R44). -/
def FmaOp.code : FmaOp → BitVec 4
  | .fma => 0 | .fms => 1 | .fnma => 2
def CmpOp.code : CmpOp → BitVec 4
  | .eq => 0 | .ne => 1 | .lt => 2 | .le => 3 | .gt => 4 | .ge => 5
def RedOp.code : RedOp → BitVec 4
  | .sum => 0 | .max => 1 | .min => 2

/-- Codes of engines, timelines, levels, bank states and buffer spaces (02 R46, R47, 05 R126). -/
def Eng.code : Eng → BitVec 2
  | .me => 0 | .pae => 1 | .dae => 2 | .ce => 3
def Tl.code : Tl → BitVec 4
  | .me => 0 | .ce => 1 | .vp => 2 | .at => 3
def Level.code : Level → BitVec 4
  | .clus => 0 | .die => 1 | .mod => 2
def BankSt.code : BankSt → BitVec 2
  | .full => 0 | .ret => 1 | .off => 2
def BufSp.code : BufSp → BitVec 2
  | .w => 0 | .a => 1 | .c => 2 | .p => 3

/-- A slot V word (02 R42). -/
def encV (major : BitVec 6) (minor : BitVec 4) (v : VArgs) : SlotWord :=
  .v (major ++ v.ty.code ++ v.d ++ v.a ++ v.b ++ v.c ++ v.h ++ v.w ++ v.pred ++ v.rnd.code ++ b1 v.sat ++ b1 v.da ++ minor)

/-- A slot E word (02 R45). -/
def encE (major : BitVec 6) (minor : BitVec 4) (d a b c : Reg) (cb : BitVec 4) (imm : BitVec 26) : SlotWord :=
  .e (major ++ minor ++ d ++ a ++ b ++ c ++ cb ++ imm)

/-- The flag bits of a copy (09 R223). -/
def CpFlags.code (f : CpFlags) : BitVec 5 := b1 f.scb ++ b1 f.dcb ++ b1 f.ph ++ b1 f.whole ++ b1 f.ver

/-- The 31-bit patch word (02 R47). -/
def PatchWord.enc (p : PatchWord) : BitVec 31 := p.eng ++ p.tmpl ++ p.field ++ p.value ++ b1 p.issue

/-- The slot word of an instruction; `none` for the events, which have no encoding. The nop is the zero word of slot B. -/
def encode : Instr → Option SlotWord
  | .brZ s d => some (.b (1#6 ++ s ++ 0#1 ++ d))
  | .brNz s d => some (.b (1#6 ++ s ++ 1#1 ++ d))
  | .brpAny p w d => some (.b (2#6 ++ p ++ 0#2 ++ w ++ d))
  | .brpAll p w d => some (.b (2#6 ++ p ++ 1#2 ++ w ++ d))
  | .brpNone p w d => some (.b (2#6 ++ p ++ 2#2 ++ w ++ d))
  | .jmp d => some (.b (3#6 ++ d))
  | .call d => some (.b (5#6 ++ d))
  | .jmpr s => some (.b (4#6 ++ s ++ 0#20))
  | .callr s => some (.b (6#6 ++ s ++ 0#20))
  | .ret => some (.b (7#6 ++ 0#26))
  | .loopSet l s o => some (.b (8#6 ++ l ++ s ++ o))
  | .loopSeti l n o => some (.b (9#6 ++ l ++ n ++ o))
  | .loopEnd l => some (.b (10#6 ++ l ++ 0#24))
  | .tsbAny c m d => some (.b (11#6 ++ c ++ m ++ 0#1 ++ d))
  | .tsbNone c m d => some (.b (11#6 ++ c ++ m ++ 1#1 ++ d))
  | .ipf n d => some (.b (12#6 ++ n ++ d))
  | .phmark d => some (.b (13#6 ++ d))
  | .trap c => some (.b (14#6 ++ 0#10 ++ c))
  | .brk c => some (.b (15#6 ++ 0#10 ++ c))
  | .idle => some (.b (16#6 ++ 0#26))
  | .eret => some (.b (17#6 ++ 0#26))
  | .csrr d c => some (.b (18#6 ++ d ++ c ++ 0#8))
  | .csrw c a => some (.b (19#6 ++ a ++ c ++ 0#8))
  | .csrs c a => some (.b (20#6 ++ a ++ c ++ 0#8))
  | .csrc c a => some (.b (21#6 ++ a ++ c ++ 0#8))
  | .nop => some (.b 0)
  | .add d a b => some (encRRR 0x00 d a b)
  | .sub d a b => some (encRRR 0x01 d a b)
  | .mul d a b => some (encRRR 0x02 d a b)
  | .mulh d a b => some (encRRR 0x03 d a b)
  | .mulhn d a b => some (encRRR 0x04 d a b)
  | .div d a b => some (encRRR 0x05 d a b)
  | .divn d a b => some (encRRR 0x06 d a b)
  | .rem d a b => some (encRRR 0x07 d a b)
  | .remn d a b => some (encRRR 0x08 d a b)
  | .and d a b => some (encRRR 0x09 d a b)
  | .or d a b => some (encRRR 0x0A d a b)
  | .xor d a b => some (encRRR 0x0B d a b)
  | .andn d a b => some (encRRR 0x0C d a b)
  | .shl d a b => some (encRRR 0x0D d a b)
  | .shr d a b => some (encRRR 0x0E d a b)
  | .sar d a b => some (encRRR 0x0F d a b)
  | .rol d a b => some (encRRR 0x10 d a b)
  | .min d a b => some (encRRR 0x11 d a b)
  | .max d a b => some (encRRR 0x12 d a b)
  | .minn d a b => some (encRRR 0x13 d a b)
  | .maxn d a b => some (encRRR 0x14 d a b)
  | .seq d a b => some (encRRR 0x15 d a b)
  | .sne d a b => some (encRRR 0x16 d a b)
  | .slt d a b => some (encRRR 0x17 d a b)
  | .sltn d a b => some (encRRR 0x18 d a b)
  | .sle d a b => some (encRRR 0x19 d a b)
  | .slen d a b => some (encRRR 0x1A d a b)
  | .clz d a => some (encRRR 0x1B d a 0)
  | .ctz d a => some (encRRR 0x1C d a 0)
  | .popc d a => some (encRRR 0x1D d a 0)
  | .bswap d a => some (encRRR 0x1E d a 0)
  | .mov d a => some (encRRR 0x1F d a 0)
  | .addi d a i => some (encRI 0x00 d a i)
  | .andi d a i => some (encRI 0x01 d a i)
  | .ori d a i => some (encRI 0x02 d a i)
  | .xori d a i => some (encRI 0x03 d a i)
  | .shli d a n => some (encRI 0x04 d a (0#26 ++ n))
  | .shri d a n => some (encRI 0x05 d a (0#26 ++ n))
  | .sari d a n => some (encRI 0x06 d a (0#26 ++ n))
  | .slti d a i => some (encRI 0x07 d a i)
  | .sltni d a i => some (encRI 0x08 d a i)
  | .seqi d a i => some (encRI 0x09 d a i)
  | .muli d a i => some (encRI 0x0A d a i)
  | .li d i => some (.m (3#6 ++ d ++ 0#20 ++ i))
  | .lih d i => some (.m (4#6 ++ d ++ 0#20 ++ i))
  | .sel d a b p i => some (.m (5#6 ++ d ++ a ++ b ++ p ++ i ++ 0#28))
  | .ld sz d a h i => some (.m (6#6 ++ d ++ a ++ h ++ sz.code ++ 0#3 ++ i ++ 0#8))
  | .st sz d a h i => some (.m (7#6 ++ d ++ a ++ h ++ sz.code ++ 0#3 ++ i ++ 0#8))
  | .vld m => some (encVM 8 m)
  | .vst m => some (encVM 9 m)
  | .vldVer m => some (encVM 10 m)
  | .amo op sz sc d a b h i => some (.m (11#6 ++ d ++ a ++ b ++ h ++ op.code ++ b1 sz ++ sc.code ++ i))
  | .cas sz sc d a b c h i => some (.m (12#6 ++ d ++ a ++ b ++ c ++ h ++ b1 sz ++ sc.code ++ i))
  | .boArr d a b h i => some (.m (13#6 ++ d ++ a ++ b ++ h ++ i ++ 0#8))
  | .boWait d a b e h i => some (.m (14#6 ++ d ++ a ++ b ++ h ++ i ++ e ++ 0#2))
  | .fence sc => some (.m (15#6 ++ sc.code ++ 0#55))
  | .relRec => some (.m (16#6 ++ 0#58))
  | .hset a b => some (.m (17#6 ++ 0#6 ++ a ++ b ++ 0#40))
  | .hinv a => some (.m (18#6 ++ 0#6 ++ a ++ 0#46))
  | .dstc c a b h i => some (.m (19#6 ++ c ++ a ++ b ++ h ++ i ++ 0#8))
  | .dldc d a h i => some (.m (20#6 ++ d ++ a ++ 0#6 ++ h ++ i ++ 0#8))
  | .vfma op v => some (encV 4 op.code v)
  | .vcmp op v => some (encV 0x10 op.code v)
  | .vcvt src v => some (encV 0x12 src.code v)
  | .vred op v => some (encV 0x18 op.code v)
  | .vadd v => some (encV 0x01 0 v)
  | .vsub v => some (encV 0x02 0 v)
  | .vmul v => some (encV 0x03 0 v)
  | .vmin v => some (encV 0x05 0 v)
  | .vmax v => some (encV 0x06 0 v)
  | .vabs v => some (encV 0x07 0 v)
  | .vneg v => some (encV 0x08 0 v)
  | .vand v => some (encV 0x09 0 v)
  | .vor v => some (encV 0x0A 0 v)
  | .vxor v => some (encV 0x0B 0 v)
  | .vnot v => some (encV 0x0C 0 v)
  | .vshl v => some (encV 0x0D 0 v)
  | .vshr v => some (encV 0x0E 0 v)
  | .vsar v => some (encV 0x0F 0 v)
  | .vsel v => some (encV 0x11 0 v)
  | .vexp2 v => some (encV 0x13 0 v)
  | .vlog2 v => some (encV 0x14 0 v)
  | .vrcp v => some (encV 0x15 0 v)
  | .vrsq v => some (encV 0x16 0 v)
  | .vtanh v => some (encV 0x17 0 v)
  | .vperm v => some (encV 0x19 0 v)
  | .vbcast v => some (encV 0x1A 0 v)
  | .vext v => some (encV 0x1B 0 v)
  | .vins v => some (encV 0x1C 0 v)
  | .vmov v => some (encV 0x1D 0 v)
  | .vquant v => some (encV 0x1E 0 v)
  | .vdeq v => some (encV 0x1F 0 v)
  | .vdot v => some (encV 0x20 0 v)
  | .vsmx v => some (encV 0x21 0 v)
  | .vpack v => some (encV 0x22 0 v)
  | .vunpk v => some (encV 0x23 0 v)
  | .pand v => some (encV 0x24 0 v)
  | .por v => some (encV 0x25 0 v)
  | .pxor v => some (encV 0x26 0 v)
  | .pnot v => some (encV 0x27 0 v)
  | .ppopc v => some (encV 0x28 0 v)
  | .vrot v => some (encV 0x29 0 v)
  | .cbSet cb a => some (encE 0x01 0 0 a 0 0 cb 0)
  | .cbPush cb n => some (encE 0x02 0 0 0 0 0 cb (0#17 ++ n))
  | .cbPop cb n => some (encE 0x03 0 0 0 0 0 cb (0#17 ++ n))
  | .cbWait d cb r n b => some (encE 0x04 0 d 0 b 0 cb (0#16 ++ b1 r ++ n))
  | .cbRd d cb w k => some (encE 0x05 0 d 0 0 0 cb (0#16 ++ w ++ k))
  | .cbRel m => some (encE 0x06 0 0 0 0 0 0 (0#10 ++ m))
  | .mm t k a b c => some (encE 0x07 0 0 a b c 0 (0#19 ++ b1 k ++ t))
  | .mtLd g t a => some (encE 0x08 0 0 a 0 0 0 (0#18 ++ g.code ++ t))
  | .ftLd f n a => some (encE 0x09 0 0 a 0 0 0 (0#16 ++ n ++ f))
  | .epLd t n a => some (encE 0x0A 0 0 a 0 0 0 (0#15 ++ n ++ t))
  | .patchPair hi lo => some (.e (3#2 ++ hi.enc ++ lo.enc))
  | .cp f cb d a b c => some (encE 0x0B 0 d a b c cb (0#21 ++ f.code))
  | .cpM v p cb o d a b c => some (encE 0x0C 0 d a b c cb (0#4 ++ o ++ 0#3 ++ b1 p ++ 0#1 ++ b1 v))
  | .cp2d f t cb d a b c => some (encE 0x0D 0 d a b c cb (0#15 ++ t ++ f.code))
  | .gat f t cb d a b c => some (encE 0x0E 0 d a b c cb (0#15 ++ t ++ f.code))
  | .sca f t cb d a b c => some (encE 0x0F 0 d a b c cb (0#15 ++ t ++ f.code))
  | .cpRes d a => some (encE 0x10 0 d a 0 0 0 0)
  | .cpResDrop d a => some (encE 0x10 0 d a 0 0 0 1)
  | .tlWait t d a b => some (encE 0x11 t.code d a b 0 0 0)
  | .tlRd t d => some (encE 0x12 t.code d 0 0 0 0 0)
  | .tlPub t a b => some (encE 0x13 t.code 0 a b 0 0 0)
  | .atMask n a => some (encE 0x14 0 0 a 0 0 0 (0#22 ++ n))
  | .kvApp d a g n => some (encE 0x15 0 d a 0 0 0 (0#12 ++ n ++ g))
  | .kvLk d a b g => some (encE 0x16 0 d a b 0 0 (0#20 ++ g))
  | .kvAlloc d => some (encE 0x17 0 d 0 0 0 0 0)
  | .kvAllocFork d a => some (encE 0x17 0 d a 0 0 0 1)
  | .kvRef d a => some (encE 0x18 0 d a 0 0 0 0)
  | .kvFree d a => some (encE 0x19 0 d a 0 0 0 0)
  | .kvFreeSeq d a => some (encE 0x19 0 d a 0 0 0 1)
  | .kvCow d a b g => some (encE 0x1A 0 d a b 0 0 (0#20 ++ g))
  | .kvCowSpill d a b g => some (encE 0x1A 0 d a b 0 0 (0#19 ++ 1#1 ++ g))
  | .kvLenCommit d a => some (encE 0x1B 0 d a 0 0 0 0)
  | .kvLenRestore d a => some (encE 0x1B 1 d a 0 0 0 0)
  | .pfxIns d a b g k => some (encE 0x1C 0 d a b 0 0 (0#14 ++ k ++ g))
  | .pfxFind d a b g k => some (encE 0x1D 0 d a b 0 0 (0#14 ++ k ++ g))
  | .pfxFindDrop d b g => some (encE 0x1D 0 d 0 b 0 0 (0#13 ++ 1#1 ++ 0#6 ++ g))
  | .arrWait d b r => some (encE 0x1E 0 d 0 b 0 0 (0#24 ++ r))
  | .segPin d a b => some (encE 0x1F 0 d a b 0 0 0)
  | .segUnpin a => some (encE 0x20 0 0 a 0 0 0 0)
  | .segHold d a b k => some (encE 0x21 0 d a b 0 0 (0#22 ++ k))
  | .spawn d a => some (encE 0x22 0 d a 0 0 0 0)
  | .taskEnd d m => some (encE 0x23 0 d 0 0 0 0 (0#22 ++ m))
  | .feSetFull a => some (encE 0x24 0 0 a 0 0 0 1)
  | .feSetEmpty a => some (encE 0x24 0 0 a 0 0 0 0)
  | .rqNextAdv d a b => some (encE 0x25 0 d a b 0 0 0)
  | .rqNextDone d a b => some (encE 0x25 0 d a b 0 0 1)
  | .rqNextSusp d a b => some (encE 0x25 0 d a b 0 0 2)
  | .rqNextResume d a b => some (encE 0x25 0 d a b 0 0 3)
  | .rqNextRelease d a b => some (encE 0x25 0 d a b 0 0 4)
  | .cmpApp d a b => some (encE 0x26 0 d a b 0 0 0)
  | .cmpTake d a => some (encE 0x27 0 d a 0 0 0 0)
  | .termOpen d => some (encE 0x28 0 d 0 0 0 0 0)
  | .termClose d => some (encE 0x28 1 d 0 0 0 0 0)
  | .termWait d b => some (encE 0x28 2 d 0 b 0 0 0)
  | .bar l d b => some (encE 0x29 l.code d 0 b 0 0 0)
  | .dmSet l a => some (encE 0x2A l.code 0 a 0 0 0 0)
  | .bltOpen d a b => some (encE 0x2B 0 d a b 0 0 0)
  | .bltPost d a b => some (encE 0x2B 1 d a b 0 0 0)
  | .bltRead d a k => some (encE 0x2B 2 d a 0 0 0 (0#22 ++ k))
  | .bltClose d a => some (encE 0x2B 3 d a 0 0 0 0)
  | .govRes d a => some (encE 0x2C 0 d a 0 0 0 0)
  | .govRel d => some (encE 0x2C 1 d 0 0 0 0 0)
  | .govBallast d a => some (encE 0x2C 2 d a 0 0 0 0)
  | .opReq d a => some (encE 0x2D 0 d a 0 0 0 0)
  | .ctxSwap d => some (encE 0x2E 0 d 0 0 0 0 0)
  | .ctxSpill d a => some (encE 0x2E 1 d a 0 0 0 0)
  | .ctxFill d a => some (encE 0x2E 2 d a 0 0 0 0)
  | .bankVec s m => some (encE 0x2F 0 0 0 0 0 0 (0#8 ++ s.code ++ m))
  | .bankBuf s sp m => some (encE 0x2F 1 0 0 0 0 0 (0#4 ++ sp.code ++ 0#2 ++ s.code ++ m))
  | _ => none

/-- The decoder of a slot word. -/
def decodeSlot : SlotWord → Option Instr
  | .b w => decodeB w
  | .m w => decodeM w
  | .v w => decodeV w
  | .e w => decodeE w

/-- The instruction has an encoding. -/
def Instr.encodable (i : Instr) : Bool := (encode i).isSome

end Sys2Proof
end

