-- ==== Sys2Proof/Machine/Arith.lean ====
section
/-! DEFINITION. Number formats: exact values, the one rounding of each format, M8, FP32e (spec 03 R56 to R70) and the exactly rounded functions (06 R143). -/

namespace Sys2Proof.Machine

/-- An exact value: NaN, an infinity, or (-1)^neg * m * 2^e. Zero has m = 0 and keeps its sign (03 R59). -/
inductive Fl where
  | nan
  | inf (neg : Bool)
  | fin (neg : Bool) (m : Nat) (e : Int)
  deriving DecidableEq, Repr, Inhabited

/-- The flags that an engine drain records (03 R75). -/
structure Flags where
  inv : Bool := false
  ovf : Bool := false
  unf : Bool := false
  nanp : Bool := false
  scovf : Bool := false
  sat : Nat := 0
  deriving DecidableEq, Repr, Inhabited

/-- Events of two roundings together (03 R76). -/
def Flags.or (a b : Flags) : Flags :=
  { inv := a.inv || b.inv, ovf := a.ovf || b.ovf, unf := a.unf || b.unf, nanp := a.nanp || b.nanp,
    scovf := a.scovf || b.scovf, sat := a.sat + b.sat }

/-- One of the bits [4:0] of the status word is set. -/
def Flags.any (a : Flags) : Bool := a.inv || a.ovf || a.unf || a.nanp || a.scovf

def Fl.zero : Fl := .fin false 0 0
def Fl.one : Fl := .fin false 1 0
def Fl.ofNat (n : Nat) : Fl := .fin false n 0
def Fl.ofInt (i : Int) : Fl := .fin (decide (i < 0)) i.natAbs 0

def Fl.isNan : Fl → Bool
  | .nan => true
  | _ => false

def Fl.isInf : Fl → Bool
  | .inf _ => true
  | _ => false

def Fl.isZero : Fl → Bool
  | .fin _ 0 _ => true
  | _ => false

def Fl.isNeg : Fl → Bool
  | .nan => false
  | .inf n => n
  | .fin n _ _ => n

def Fl.neg : Fl → Fl
  | .nan => .nan
  | .inf n => .inf (!n)
  | .fin n m e => .fin (!n) m e

def Fl.abs : Fl → Fl
  | .nan => .nan
  | .inf _ => .inf false
  | .fin _ m e => .fin false m e

/-- 2^k for an integer k of either sign, as a factor of a numerator. -/
def pow2 (k : Int) : Nat := 2 ^ k.toNat

/-- The signed multiple of 2^e0 that a finite value is, for e0 not above its exponent. -/
def Fl.scaled (neg : Bool) (m : Nat) (e e0 : Int) : Int :=
  let v : Int := (m * pow2 (e - e0) : Nat)
  if neg then -v else v

/-- Exact sum. A zero sum of unlike signs has the sign of the rounding mode (IEEE 754-2019, 03 R59). -/
def Fl.add (rnd : Rnd) : Fl → Fl → Fl
  | .nan, _ => .nan
  | _, .nan => .nan
  | .inf a, .inf b => if a == b then .inf a else .nan
  | .inf a, .fin .. => .inf a
  | .fin .., .inf b => .inf b
  | .fin na ma ea, .fin nb mb eb =>
    let e0 := min ea eb
    let s := Fl.scaled na ma ea e0 + Fl.scaled nb mb eb e0
    if s = 0 then
      (if ma = 0 && mb = 0 && na == nb then .fin na 0 0 else .fin (rnd == .rdn) 0 0)
    else .fin (decide (s < 0)) s.natAbs e0

/-- Exact product (IEEE 754-2019). -/
def Fl.mul : Fl → Fl → Fl
  | .nan, _ => .nan
  | _, .nan => .nan
  | .inf a, .inf b => .inf (a != b)
  | .inf a, .fin b m _ => if m = 0 then .nan else .inf (a != b)
  | .fin a m _, .inf b => if m = 0 then .nan else .inf (a != b)
  | .fin a ma ea, .fin b mb eb => .fin (a != b) (ma * mb) (ea + eb)

/-- Multiplication by 2^k. -/
def Fl.scale (k : Int) : Fl → Fl
  | .nan => .nan
  | .inf n => .inf n
  | .fin n m e => .fin n m (e + k)

/-- Strict order; false on NaN; the zeros are equal (06 R140). -/
def Fl.lt : Fl → Fl → Bool
  | .nan, _ => false
  | _, .nan => false
  | .inf a, .inf b => a && !b
  | .inf a, .fin .. => a
  | .fin .., .inf b => !b
  | .fin na ma ea, .fin nb mb eb =>
    let e0 := min ea eb
    decide (Fl.scaled na ma ea e0 < Fl.scaled nb mb eb e0)

/-- Equality of values; false on NaN. -/
def Fl.eqv : Fl → Fl → Bool
  | .nan, _ => false
  | _, .nan => false
  | a, b => !Fl.lt a b && !Fl.lt b a

/-- Maximum of IEEE 754-2019: NaN where either is NaN, -0 below +0 (03 R60). -/
def Fl.max2 (a b : Fl) : Fl :=
  if a.isNan || b.isNan then .nan
  else if Fl.lt a b then b
  else if Fl.lt b a then a
  else if a.isNeg then b else a

/-- Minimum of IEEE 754-2019 (03 R60). -/
def Fl.min2 (a b : Fl) : Fl :=
  if a.isNan || b.isNan then .nan
  else if Fl.lt a b then a
  else if Fl.lt b a then b
  else if a.isNeg then a else b

/-! ### Rounding -/

/-- Whether the magnitude `q + r/d` rounds up to `q + 1` (03 R68). -/
def roundUp (rnd : Rnd) (neg : Bool) (q r d : Nat) : Bool :=
  match rnd with
  | .rne => decide (d < 2 * r) || (decide (2 * r = d) && q % 2 == 1)
  | .rtz => false
  | .rup => !neg && r != 0
  | .rdn => neg && r != 0

/-- floor(log2 (n/d)) of a positive quotient. -/
def ratLog2 (n d : Nat) : Int :=
  let k : Int := (Nat.log2 n : Int) - (Nat.log2 d : Int)
  if n * pow2 (-k) < d * pow2 k then k - 1 else k

/-- The positive quotient n/d as a multiple of 2^q, q the larger of `qmin` and the quantum of `p` significant bits: the
multiple, q, and whether the rounding was inexact. -/
def roundRat (p : Nat) (qmin : Int) (rnd : Rnd) (neg : Bool) (n d : Nat) : Nat × Int × Bool :=
  let q := max (ratLog2 n d - ((p : Int) - 1)) qmin
  let nn := n * pow2 (-q)
  let dd := d * pow2 q
  let m := nn / dd
  let r := nn % dd
  (if roundUp rnd neg m r dd then m + 1 else m, q, r != 0)

/-- A binary format with precision p, exponent field of 8 bits and bias 127 (03 R58). -/
structure Fmt where
  p : Nat
  deriving DecidableEq, Repr

def fp32 : Fmt := { p := 24 }
def bf16 : Fmt := { p := 8 }

/-- Quantum of the subnormals. -/
def Fmt.qmin (f : Fmt) : Int := -126 - ((f.p : Int) - 1)
/-- The sign bit. -/
def Fmt.signBit (f : Fmt) : Nat := 2 ^ (f.p + 7)
/-- The encoding of +infinity. -/
def Fmt.infBits (f : Fmt) : Nat := 255 * 2 ^ (f.p - 1)
/-- The largest finite magnitude (03 R70). -/
def Fmt.maxBits (f : Fmt) : Nat := f.infBits - 1
/-- The canonical NaN (03 R59). -/
def Fmt.nanBits (f : Fmt) : Nat := f.infBits + 2 ^ (f.p - 2)
/-- A sign applied to a magnitude. -/
def Fmt.withSign (f : Fmt) (neg : Bool) (mag : Nat) : Nat := if neg then f.signBit + mag else mag

/-- The value of an encoding. -/
def Fmt.dec (f : Fmt) (bits : Nat) : Fl :=
  let neg := bits / f.signBit % 2 == 1
  let mag := bits % f.signBit
  let ef : Nat := mag / 2 ^ (f.p - 1)
  let fr := mag % 2 ^ (f.p - 1)
  if ef = 255 then (if fr = 0 then .inf neg else .nan)
  else if ef = 0 then .fin neg fr f.qmin
  else .fin neg (fr + 2 ^ (f.p - 1)) (f.qmin + ((ef : Int) - 1))

/-- The infinite result, or the largest finite one where sat asks for it (03 R70). -/
def Fmt.infOrSat (f : Fmt) (sat neg : Bool) : Nat := f.withSign neg (if sat then f.maxBits else f.infBits)

/-- A positive quotient is tiny after rounding: rounded to the precision with an unbounded exponent it lies below the least normal
magnitude (03 R73). -/
def Fmt.tiny (f : Fmt) (rnd : Rnd) (neg : Bool) (n d : Nat) : Bool :=
  let r := roundRat f.p (ratLog2 n d - f.p) rnd neg n d
  decide ((Nat.log2 r.1 : Int) + r.2.1 < -126)

/-- A positive quotient with a sign, rounded once into the format (03 R68, R70, R73): the encoding and its flags. -/
def Fmt.encRat (f : Fmt) (rnd : Rnd) (sat neg : Bool) (n d : Nat) : Nat × Flags :=
  if n = 0 then (f.withSign neg 0, {})
  else
    let (m, q, inexact) := roundRat f.p f.qmin rnd neg n d
    let bits := (q - f.qmin).toNat * 2 ^ (f.p - 1) + m
    if f.infBits ≤ bits then
      let toInf := match rnd with
        | .rne => true
        | .rtz => false
        | .rup => !neg
        | .rdn => neg
      if toInf then (f.infOrSat sat neg, { ovf := true }) else (f.withSign neg f.maxBits, { ovf := true })
    else (f.withSign neg bits, { unf := inexact && f.tiny rnd neg n d })

/-- An exact value rounded once into the format. -/
def Fmt.enc (f : Fmt) (rnd : Rnd) (sat : Bool) : Fl → Nat × Flags
  | .nan => (f.nanBits, { nanp := true })
  | .inf neg => (f.infOrSat sat neg, {})
  | .fin neg m e => f.encRat rnd sat neg (m * pow2 e) (pow2 (-e))

/-- The encoding alone. -/
def Fmt.bits (f : Fmt) (rnd : Rnd) (sat : Bool) (x : Fl) : Nat := (f.enc rnd sat x).1

/-- The value after one rounding. -/
def Fmt.rnd (f : Fmt) (rnd : Rnd) (sat : Bool) (x : Fl) : Fl := f.dec (f.bits rnd sat x)

/-- `round_e` (03 R61): 24 significant bits under RNE, no subnormals; the flags are those of an event in FP32e. -/
def roundE : Fl → Fl × Flags
  | .nan => (.nan, {})
  | .inf n => (.inf n, {})
  | .fin neg m e =>
    if m = 0 then (.fin neg 0 0, {})
    else
      let (m', q, _) := roundRat 24 (-100000) .rne neg (m * pow2 e) (pow2 (-e))
      let top := (Nat.log2 m' : Int) + q
      if top < -1022 then (.fin neg 0 0, { unf := true })
      else if 1023 < top then (.inf neg, { ovf := true })
      else (.fin neg m' q, {})

/-- The FP32e container of a value that FP32e represents (03 R61). -/
def fp32eBits : Fl → Nat
  | .nan => 0x7FF8000000000000
  | .inf n => (if n then 2 ^ 63 else 0) + 2047 * 2 ^ 52
  | .fin n m e =>
    let s := if n then 2 ^ 63 else 0
    if m = 0 then s
    else
      let k := Nat.log2 m
      s + ((k : Int) + e + 1023).toNat * 2 ^ 52 + (m * 2 ^ 52 / 2 ^ k - 2 ^ 52) / 2 ^ 29 * 2 ^ 29

/-- The value of an FP32e container; the reserved bits are ignored (03 R61). -/
def fp32eVal (bits : Nat) : Fl :=
  let neg := bits / 2 ^ 63 % 2 == 1
  let ef : Nat := bits / 2 ^ 52 % 2048
  let fr := bits / 2 ^ 29 % 2 ^ 23
  if ef = 0 then .fin neg 0 0
  else if ef = 2047 then (if fr = 0 then .inf neg else .nan)
  else .fin neg (2 ^ 23 + fr) ((ef : Int) - 1023 - 23)

/-! ### M8 -/

/-- Codes of the positive finite magnitudes in ascending order, zero first (03 R63). -/
def m8Codes : List Nat :=
  [0x00, 0x02, 0x04, 0x05] ++ (List.range 2).map (0x08 + ·) ++ (List.range 2).map (0x0A + ·)
    ++ (List.range 8).map (0x10 + ·) ++ (List.range 16).map (0x20 + ·) ++ (List.range 32).map (0x40 + ·)
    ++ (List.range 32).map (0x60 + ·) ++ (List.range 16).map (0x30 + ·) ++ (List.range 8).map (0x18 + ·)
    ++ (List.range 4).map (0x0C + ·) ++ [0x06, 0x07, 0x03]

/-- The magnitude of a finite code in units of 2^-11 (03 R62). -/
def m8Mag (m : Nat) : Nat :=
  if m = 0 || m = 1 then 0
  else if m = 2 then 1
  else if m = 3 then 2 ^ 21
  else
    let k := 6 - Nat.log2 m              -- zeros above the highest 1
    let fb := 4 - k                      -- fraction bits
    let sel := m / 2 ^ fb % 4
    let f := m % 2 ^ fb
    let e : Int := match sel with
      | 0 => -2 * (k : Int) - 2
      | 1 => -2 * (k : Int) - 1
      | 2 => 2 * (k : Int)
      | _ => 2 * (k : Int) + 1
    (2 ^ fb + f) * pow2 (e + 11) / 2 ^ fb

/-- The value of an M8 byte (03 R62). -/
def m8Dec (b : Nat) : Fl :=
  let neg := b / 128 % 2 == 1
  let m := b % 128
  if m = 0 then (if neg then .nan else Fl.zero)
  else if m = 1 then .inf neg
  else .fin neg (m8Mag m) (-11)

/-- The byte of a magnitude code with a sign; a zero magnitude is 0x00 (03 R64). -/
def m8WithSign (neg : Bool) (code : Nat) : Nat := if code = 0 then 0 else if neg then 128 + code else code

/-- The codes that enclose n/d, in units of 2^-11, in the ascending list; the last code where there is no upper one. -/
def m8Enclose (n d : Nat) : List Nat → Nat × Option Nat
  | [] => (0, none)
  | [c] => (c, none)
  | c :: c' :: rest => if n < m8Mag c' * d then (c, some c') else m8Enclose n d (c' :: rest)

/-- A positive quotient with a sign, rounded to M8 (03 R64). -/
def m8EncRat (rnd : Rnd) (sat neg : Bool) (n d : Nat) : Nat × Flags :=
  let n11 := n * 2 ^ 11
  if 2 ^ 21 * d < n11 then
    if sat then (m8WithSign neg 3, { ovf := false, sat := 1 })
    else
      let toInf := match rnd with
        | .rne => true
        | .rtz => false
        | .rup => !neg
        | .rdn => neg
      if toInf then (m8WithSign neg 1, { ovf := true }) else (m8WithSign neg 3, {})
  else
    match m8Enclose n11 d m8Codes with
    | (c, none) => (m8WithSign neg c, {})
    | (c, some c') =>
      let lo := n11 - m8Mag c * d
      let hi := m8Mag c' * d - n11
      let up := if lo = 0 then false else match rnd with
        | .rne => if hi < lo then true else if lo < hi then false else c % 2 == 1 && c' % 2 == 0
        | .rtz => false
        | .rup => !neg
        | .rdn => neg
      (m8WithSign neg (if up then c' else c), { unf := lo != 0 && decide (n11 < d) })

/-- An exact value rounded to M8 (03 R64). -/
def m8Enc (rnd : Rnd) (sat : Bool) : Fl → Nat × Flags
  | .nan => (0x80, { nanp := true })
  | .inf neg => if sat then (m8WithSign neg 3, { sat := 1 }) else (m8WithSign neg 1, {})
  | .fin neg m e => if m = 0 then (0, {}) else m8EncRat rnd sat neg (m * pow2 e) (pow2 (-e))

/-! ### Integers -/

/-- The least and greatest value of an integer type of `w` bits. -/
def intMin (w : Nat) (signed : Bool) : Int := if signed then -(2 ^ (w - 1) : Nat) else 0
def intMax (w : Nat) (signed : Bool) : Int := if signed then (2 ^ (w - 1) : Nat) - 1 else (2 ^ w : Nat) - 1

/-- An integer into a type: saturated or wrapped (03 R57). -/
def intEnc (w : Nat) (signed sat : Bool) (x : Int) : Nat :=
  let y := if sat then max (intMin w signed) (min (intMax w signed) x) else x
  (y % ((2 ^ w : Nat) : Int)).toNat

/-- The value of the low `w` bits. -/
def intDec (w : Nat) (signed : Bool) (bits : Nat) : Int := if signed then sextInt bits w else Int.ofNat (bits % 2 ^ w)

/-- A value rounded to an integer by mode (03 R69); NaN gives 0, infinities a value beyond every range. -/
def Fl.toIntRnd (rnd : Rnd) : Fl → Int
  | .nan => 0
  | .inf neg => if neg then -(2 ^ 200 : Nat) else (2 ^ 200 : Nat)
  | .fin neg m e =>
    let n := m * pow2 e
    let d := pow2 (-e)
    let q := n / d
    let q' := if roundUp rnd neg q (n % d) d then q + 1 else q
    if neg then -(q' : Int) else q'

/-! ### Exactly rounded functions (06 R143)

The results that are exact are computed exactly first. Any other value is irrational: it is computed to more than 400 bits, far
beyond where a value of a 24-bit operand can come near a rounding boundary, and that value is rounded once. -/

/-- Working precision of the bracketed functions. -/
def prec : Nat := 640

/-- The fixed-point product. -/
def fxMul (a b : Nat) : Nat := a * b / 2 ^ prec

/-- Sum of the series x^(2k+1)/(2k+1), k from `k`, given the current power. -/
def atanhSeries (x2 pw : Nat) (k : Nat) : Nat → Nat
  | 0 => 0
  | f + 1 => pw / (2 * k + 1) + atanhSeries x2 (fxMul pw x2) (k + 1) f

/-- atanh of a fixed-point number of at most 1/3. -/
def fxAtanh (x : Nat) : Nat := atanhSeries (fxMul x x) x 0 210

/-- ln 2 = 2 atanh (1/3). -/
def fxLn2 : Nat := 2 * fxAtanh (2 ^ prec / 3)

/-- Sum of y^k/k! given the current term. -/
def expSeries (y term : Nat) (k : Nat) : Nat → Nat
  | 0 => 0
  | f + 1 => term + expSeries y (fxMul term y / (k + 1)) (k + 1) f

/-- e^y for a fixed-point y below 1. -/
def fxExp (y : Nat) : Nat := expSeries y (2 ^ prec) 0 135

/-- The series above fall short of the exact value by less than 2^guard units. -/
def guard : Nat := 16

/-- 2^x for finite x that is not an integer, |x| below 2^12: the significand over 2^prec, and the exponent. -/
def exp2Parts (neg : Bool) (m : Nat) (e : Int) : Nat × Int :=
  let v : Int := (if neg then -(m : Int) else m) * (pow2 (e + prec) : Nat) / (pow2 (-(e + prec)) : Nat)
  let i := v / (2 ^ prec : Nat)
  let f := (v % (2 ^ prec : Nat)).toNat
  (fxExp (fxMul f fxLn2) + 2 ^ (guard - 1), i)

/-- 2^x rounded into the format (06 R143). -/
def Fmt.exp2 (f : Fmt) (rnd : Rnd) (sat : Bool) : Fl → Nat
  | .nan => f.nanBits
  | .inf neg => if neg then 0 else f.infOrSat sat false
  | .fin neg m e =>
    if m = 0 then f.bits rnd sat Fl.one
    else if 2 ^ 12 * pow2 (-e) ≤ m * pow2 e then
      -- beyond every exponent of the format: overflow, or a value below every subnormal
      (if neg then (f.encRat rnd sat false 1 (2 ^ 4096)).1 else (f.encRat rnd sat false (2 ^ 4096) 1).1)
    else if m * pow2 e % pow2 (-e) = 0 then
      let k : Int := m * pow2 e / pow2 (-e)
      let k := if neg then -k else k
      (f.encRat rnd sat false (pow2 k) (pow2 (-k))).1
    else
      let (y, i) := exp2Parts neg m e
      (f.encRat rnd sat false (y * pow2 i) (2 ^ prec * pow2 (-i))).1

/-- log2 rounded into the format (06 R143). -/
def Fmt.log2 (f : Fmt) (rnd : Rnd) (sat : Bool) : Fl → Nat
  | .nan => f.nanBits
  | .inf neg => if neg then f.nanBits else f.infOrSat sat false
  | .fin neg m e =>
    if m = 0 then f.infOrSat sat true
    else if neg then f.nanBits
    else
      let k := Nat.log2 m
      let ex : Int := (k : Int) + e
      if m = 2 ^ k then f.bits rnd sat (Fl.ofInt ex)
      else
        let z := (m - 2 ^ k) * 2 ^ prec / (m + 2 ^ k)
        let l := 2 * fxAtanh z * 2 ^ prec / fxLn2 + 2 ^ (guard - 1)
        let v : Int := ex * (2 ^ prec : Nat) + l
        (f.encRat rnd sat (decide (v < 0)) v.natAbs (2 ^ prec)).1

/-- 1/x rounded into the format (06 R143). -/
def Fmt.rcp (f : Fmt) (rnd : Rnd) (sat : Bool) : Fl → Nat
  | .nan => f.nanBits
  | .inf neg => f.withSign neg 0
  | .fin neg m e => if m = 0 then f.infOrSat sat neg else (f.encRat rnd sat neg (pow2 (-e)) (m * pow2 e)).1

/-- Integer square root, one bit at a time from bit `k` down. -/
def isqrtFrom (n r : Nat) : Nat → Nat
  | 0 => r
  | k + 1 =>
    let c := r + 2 ^ k
    isqrtFrom n (if c * c ≤ n then c else r) k

def isqrt (n : Nat) : Nat := isqrtFrom n 0 (Nat.log2 n / 2 + 1)

/-- 1/sqrt x rounded into the format (06 R143). -/
def Fmt.rsq (f : Fmt) (rnd : Rnd) (sat : Bool) : Fl → Nat
  | .nan => f.nanBits
  | .inf neg => if neg then f.nanBits else 0
  | .fin neg m e =>
    if m = 0 then f.infOrSat sat neg
    else if neg then f.nanBits
    else
      -- x = m' * 4^h, so the result is 2^-h / sqrt m'
      let m' := if e % 2 = 0 then m else 2 * m
      let h := e / 2
      let s := isqrt m'
      if s * s = m' then (f.encRat rnd sat false (pow2 (-h)) (s * pow2 h)).1
      else
        let r := isqrt (2 ^ (4 * prec) / m')
        (f.encRat rnd sat false ((2 * r + 1) * pow2 (-h)) (2 ^ (2 * prec + 1) * pow2 h)).1

/-- tanh rounded into the format (06 R143). -/
def Fmt.tanh (f : Fmt) (rnd : Rnd) (sat : Bool) : Fl → Nat
  | .nan => f.nanBits
  | .inf neg => f.bits rnd sat (if neg then Fl.one.neg else Fl.one)
  | .fin neg m e =>
    if m = 0 then f.withSign neg 0
    else
      let n := m * pow2 e
      let d := pow2 (-e)
      if n * 2 ^ 40 < d then (f.encRat rnd sat neg (n * (2 ^ 72 - 1)) (d * 2 ^ 72)).1
      else if 64 * d ≤ n then (f.encRat rnd sat neg (2 ^ 150 - 1) (2 ^ 150)).1
      else
        -- tanh x = (E - 1)/(E + 1) with E = e^(2x) = 2^i * e^y
        let t := 2 * n * 2 ^ prec / d
        let i := t / fxLn2
        let y := t % fxLn2
        let ee := fxExp y * 2 ^ i + 2 ^ (guard + i)
        (f.encRat rnd sat neg (ee - 2 ^ prec) (ee + 2 ^ prec)).1

/-- The alternating series of arctan (1/n): sum of (-1)^k / ((2k+1) n^(2k+1)), from the current power. -/
def atanSeries (n pw : Nat) (k : Nat) : Nat → Int
  | 0 => 0
  | f + 1 => (pw / (2 * k + 1) : Nat) - atanSeries n (pw / (n * n)) (k + 1) f

/-- pi, by Machin's formula. -/
def fxPi : Nat :=
  (16 * atanSeries 5 (2 ^ prec / 5) 0 140 - 4 * atanSeries 239 (2 ^ prec / 239) 0 45).toNat

/-- e^t for a fixed-point t, as a fixed-point number. -/
def fxExpBig (t : Nat) : Nat := fxExp (t % fxLn2) * 2 ^ (t / fxLn2)

/-- Sum of x^(2k)/(1*3*...*(2k+1)) from the current term. -/
def phiSeries (x2 term : Nat) (k : Nat) : Nat → Nat
  | 0 => 0
  | f + 1 => term + phiSeries x2 (fxMul term x2 / (2 * k + 3)) (k + 1) f

/-- Phi(x) - 1/2 of the normal distribution for a fixed-point x from 0 to 20. -/
def fxPhiHalf (x : Nat) : Nat :=
  let x2 := fxMul x x
  let s := fxMul x (phiSeries x2 (2 ^ prec) 0 900)
  let root := isqrt (2 * fxPi * 2 ^ prec)
  s * 2 ^ prec / root * 2 ^ prec / fxExpBig (x2 / 2)

/-- x times Phi(x), rounded once to FP32 under RNE (08 R192 gelu). -/
def geluBits : Fl → Nat × Flags
  | .nan => (fp32.nanBits, {})
  | .inf neg => if neg then (fp32.withSign true 0, {}) else (fp32.infBits, {})
  | .fin neg m e =>
    let n := m * pow2 e
    let d := pow2 (-e)
    if m = 0 then (fp32.withSign neg 0, {})
    else if 20 * d < n then
      (if neg then fp32.encRat .rne false true 1 (2 ^ 4096) else fp32.encRat .rne false false (n * (2 ^ 200 - 1)) (d * 2 ^ 200))
    else
      let h := fxPhiHalf (n * 2 ^ prec / d)
      let phi := if neg then 2 ^ (prec - 1) - h else 2 ^ (prec - 1) + h
      fp32.encRat .rne false neg (n * phi) (d * 2 ^ prec)

/-- x / (1 + e^-x), rounded once to FP32 under RNE (08 R192 silu). -/
def siluBits : Fl → Nat × Flags
  | .nan => (fp32.nanBits, {})
  | .inf neg => if neg then (fp32.withSign true 0, {}) else (fp32.infBits, {})
  | .fin neg m e =>
    let n := m * pow2 e
    let d := pow2 (-e)
    if m = 0 then (fp32.withSign neg 0, {})
    else if 400 * d < n then
      (if neg then fp32.encRat .rne false true 1 (2 ^ 4096) else fp32.encRat .rne false false (n * (2 ^ 200 - 1)) (d * 2 ^ 200))
    else
      let x := fxExpBig (n * 2 ^ prec / d)
      if neg then fp32.encRat .rne false true (n * 2 ^ prec) (d * (2 ^ prec + x))
      else fp32.encRat .rne false false (n * x) (d * (2 ^ prec + x))

end Sys2Proof.Machine
end

