-- ==== Sys2Proof/Machine/Lanes.lean ====
section
/-! DEFINITION. What the operations of slot V compute from the values of their operands (spec 06 R128 to R151). -/

namespace Sys2Proof.Machine

/-- Lanes of a register (03 R56). -/
def lanesOf (ty : VTy) : Nat := 512 / ty.width

/-- Signed integer type. -/
def signedTy : VTy → Bool
  | .s8 | .s16 | .s32 => true
  | _ => false

/-- The float format of a float type. -/
def fmtOf : VTy → Fmt
  | .bf16 => bf16
  | _ => fp32

/-- Element `i` of a register, in lanes of `w` bits (03 R56). -/
def elem (w : Nat) (v : Vec) (i : Nat) : Nat := fld v (w * i) w

/-- The elements of a register. -/
def elems (w : Nat) (v : Vec) : List Nat := (List.range (512 / w)).map (elem w v)

/-- Packs elements from bit 0 up. -/
def packNat (w : Nat) : List Nat → Nat
  | [] => 0
  | x :: xs => x % 2 ^ w + 2 ^ w * packNat w xs

/-- A register from its elements. -/
def ofElems (w : Nat) (l : List Nat) : Vec := BitVec.ofNat 512 (packNat w l)

/-- The bits of the lanes whose predicate bit is 1 (06 R130). -/
def laneMask (w : Nat) (p : Word) : Vec :=
  ofElems w ((List.range (512 / w)).map (fun i => if p.getLsbD i then 2 ^ w - 1 else 0))

/-- The value an element has as a number of its type: integers exactly, floats and M8 by 03 R58, R62. -/
def elemVal (ty : VTy) (x : Nat) : Fl :=
  match ty with
  | .bf16 => bf16.dec x
  | .f32 => fp32.dec x
  | .m8 => m8Dec x
  | ty => Fl.ofInt (intDec ty.width (signedTy ty) x)

/-- The operand values of an operation of slot V: rows of registers for the vector operands, and the scalars and
predicates that fields name. -/
structure VIn where
  a : List (List Vec) := []
  b : List (List Vec) := []
  c : List (List Vec) := []
  pred : Word := BitVec.allOnes 64
  sa : Word := 0
  sb : Word := 0
  sc : Word := 0
  pa : Word := 0
  pb : Word := 0
  pc : Word := 0
  deriving DecidableEq, Repr, Inhabited

/-- A result of slot V: rows of registers with the mask of the bits written, at field d or (for the scales of vquant) c, or
predicates from field d on. -/
structure VOut where
  d : List (List Vec) := []
  mask : Vec := BitVec.allOnes 512
  c : List (List Vec) := []
  p : List Word := []
  deriving DecidableEq, Repr, Inhabited

/-- Elements of a row, numbered across its registers (06 R129). -/
def rowElems (w : Nat) (row : List Vec) : List Nat := (row.map (elems w)).flatten

/-- Cuts a list into pieces of `n`, `k` of them. -/
def chunks (n : Nat) (l : List Nat) : Nat → List (List Nat)
  | 0 => []
  | k + 1 => l.take n :: chunks n (l.drop n) k

/-- A row of `k` registers from its elements. -/
def ofRow (w k : Nat) (l : List Nat) : List Vec := (chunks (512 / w) l k).map (ofElems w)

/-- Element by element over one block. -/
def map1 (w : Nat) (f : Nat → Nat) (a : List (List Vec)) : List (List Vec) :=
  a.map (·.map (fun v => ofElems w ((elems w v).map f)))

/-- Element by element over two blocks. -/
def map2 (w : Nat) (f : Nat → Nat → Nat) (a b : List (List Vec)) : List (List Vec) :=
  List.zipWith (List.zipWith (fun x y => ofElems w (List.zipWith f (elems w x) (elems w y)))) a b

/-- Element by element over three blocks. -/
def map3 (w : Nat) (f : Nat → Nat → Nat → Nat) (a b c : List (List Vec)) : List (List Vec) :=
  List.zipWith (List.zipWith (fun (x : Vec × Vec) z =>
    ofElems w (List.zipWith (fun (p : Nat × Nat) r => f p.1 p.2 r) (List.zip (elems w x.1) (elems w x.2)) (elems w z))))
    (List.zipWith List.zip a b) c

/-- Arithmetic on two elements: integers exactly then wrapped or saturated, floats rounded once (06 R138). -/
def arith2 (ty : VTy) (rnd : Rnd) (sat : Bool) (fi : Int → Int → Int) (ff : Fl → Fl → Fl) (x y : Nat) : Nat :=
  if ty.isF then (fmtOf ty).bits rnd sat (ff ((fmtOf ty).dec x) ((fmtOf ty).dec y))
  else intEnc ty.width (signedTy ty) sat (fi (intDec ty.width (signedTy ty) x) (intDec ty.width (signedTy ty) y))

/-- Arithmetic on one element. -/
def arith1 (ty : VTy) (sat : Bool) (fi : Int → Int) (ff : Fl → Fl) (x : Nat) : Nat :=
  if ty.isF then (fmtOf ty).bits .rne false (ff ((fmtOf ty).dec x))
  else intEnc ty.width (signedTy ty) sat (fi (intDec ty.width (signedTy ty) x))

/-- A uniform result under the predicate. -/
def masked (v : VArgs) (i : VIn) (d : List (List Vec)) : VOut := { d := d, mask := laneMask v.ty.width i.pred }

def laneAdd (v : VArgs) (i : VIn) : VOut :=
  masked v i (map2 v.ty.width (arith2 v.ty v.rnd v.sat (· + ·) (Fl.add v.rnd)) i.a i.b)

def laneSub (v : VArgs) (i : VIn) : VOut :=
  masked v i (map2 v.ty.width (arith2 v.ty v.rnd v.sat (· - ·) (fun x y => Fl.add v.rnd x y.neg)) i.a i.b)

def laneMul (v : VArgs) (i : VIn) : VOut :=
  masked v i (map2 v.ty.width (arith2 v.ty v.rnd v.sat (· * ·) Fl.mul) i.a i.b)

/-- The exact value that vfma rounds (06 R138). -/
def fmaVal (op : FmaOp) (rnd : Rnd) (a b c : Fl) : Fl :=
  match op with
  | .fma => Fl.add rnd (Fl.mul a b) c
  | .fms => Fl.add rnd (Fl.mul a b) c.neg
  | .fnma => Fl.add rnd (Fl.mul a b).neg c

def laneFma (op : FmaOp) (v : VArgs) (i : VIn) : VOut :=
  let f := fmtOf v.ty
  masked v i (map3 v.ty.width (fun x y z => f.bits v.rnd v.sat (fmaVal op v.rnd (f.dec x) (f.dec y) (f.dec z))) i.a i.b i.c)

def laneMin (v : VArgs) (i : VIn) : VOut :=
  masked v i (map2 v.ty.width (arith2 v.ty .rne false min Fl.min2) i.a i.b)

def laneMax (v : VArgs) (i : VIn) : VOut :=
  masked v i (map2 v.ty.width (arith2 v.ty .rne false max Fl.max2) i.a i.b)

def laneAbs (v : VArgs) (i : VIn) : VOut :=
  masked v i (map1 v.ty.width (arith1 v.ty v.sat (fun x => Int.ofNat x.natAbs) Fl.abs) i.a)

def laneNeg (v : VArgs) (i : VIn) : VOut :=
  masked v i (map1 v.ty.width (arith1 v.ty v.sat (fun x => -x) Fl.neg) i.a)

/-- Bitwise operations act on whole registers; the type sets the lanes of the predicate (06 R139). -/
def laneBits (v : VArgs) (i : VIn) (f : Vec → Vec → Vec) : VOut := masked v i (List.zipWith (List.zipWith f) i.a i.b)

def laneNot (v : VArgs) (i : VIn) : VOut := masked v i (i.a.map (·.map (fun x => ~~~x)))

/-- Shift of one element; a count of the width or more (06 R139). -/
def shlElem (w x n : Nat) : Nat := if w ≤ n then 0 else x * 2 ^ n % 2 ^ w
def shrElem (w x n : Nat) : Nat := if w ≤ n then 0 else x / 2 ^ n
def sarElem (w x n : Nat) : Nat := intEnc w true false (sextInt x w / (2 ^ (min n w) : Nat))

def laneShl (v : VArgs) (i : VIn) : VOut := masked v i (map2 v.ty.width (shlElem v.ty.width) i.a i.b)
def laneShr (v : VArgs) (i : VIn) : VOut := masked v i (map2 v.ty.width (shrElem v.ty.width) i.a i.b)
def laneSar (v : VArgs) (i : VIn) : VOut := masked v i (map2 v.ty.width (sarElem v.ty.width) i.a i.b)

/-- Comparison of two elements (06 R140). -/
def cmpElem (op : CmpOp) (ty : VTy) (x y : Nat) : Bool :=
  let a := elemVal ty x
  let b := elemVal ty y
  match op with
  | .eq => Fl.eqv a b
  | .ne => !Fl.eqv a b
  | .lt => Fl.lt a b
  | .le => Fl.lt a b || Fl.eqv a b
  | .gt => Fl.lt b a
  | .ge => Fl.lt b a || Fl.eqv a b

/-- One predicate of vcmp: masked elements and bits beyond the lanes are 0 (06 R130, R140). -/
def cmpReg (op : CmpOp) (ty : VTy) (p : Word) (x y : Vec) : Word :=
  BitVec.ofNat 64 (packNat 1 ((List.range (lanesOf ty)).map (fun k =>
    bit (p.getLsbD k && cmpElem op ty (elem ty.width x k) (elem ty.width y k)))))

def laneCmp (op : CmpOp) (v : VArgs) (i : VIn) : VOut :=
  { p := (List.zipWith (List.zipWith (cmpReg op v.ty i.pred)) i.a i.b).flatten }

/-- vsel: the selector is a predicate (06 R141). -/
def laneSel (v : VArgs) (i : VIn) : VOut :=
  let m := laneMask v.ty.width i.pc
  laneBits v i (fun x y => (x &&& m) ||| (y &&& ~~~m))

def laneMov (v : VArgs) (i : VIn) : VOut := masked v i i.a

/-- One element converted (03 R69): an integer to a wider type by extension, whatever sat says; to a type as wide or narrower under R57. -/
def cvtElem (dst src : VTy) (rnd : Rnd) (sat : Bool) (x : Nat) : Nat :=
  let y := elemVal src x
  match dst with
  | .bf16 => bf16.bits rnd sat y
  | .f32 => fp32.bits rnd sat y
  | .m8 => (m8Enc rnd sat y).1
  | ty =>
    if src.isI then intEnc ty.width (signedTy ty) (sat && decide (ty.width ≤ src.width)) (intDec src.width (signedTy src) x)
    else intEnc ty.width (signedTy ty) true (y.toIntRnd rnd)

/-- vcvt: element g of a row to element g of the row of d (06 R129, R142). -/
def laneCvt (src : VTy) (v : VArgs) (i : VIn) : VOut :=
  let k := if v.ty.width ≤ src.width then v.wN else v.wN * VTy.ratio v.ty src
  masked v i (i.a.map (fun row => ofRow v.ty.width k ((rowElems src.width row).map (cvtElem v.ty src v.rnd v.sat))))

/-- The functions of 06 R143. -/
def laneFun (f : Fmt → Rnd → Bool → Fl → Nat) (v : VArgs) (i : VIn) : VOut :=
  masked v i (map1 v.ty.width (fun x => f (fmtOf v.ty) v.rnd v.sat ((fmtOf v.ty).dec x)) i.a)

/-- The element that a masked place of a reduction holds (06 R144). -/
def redIdent (op : RedOp) (ty : VTy) (rnd : Rnd) : Nat :=
  let w := ty.width
  if ty.isF then
    match op with
    | .sum => (fmtOf ty).withSign (rnd != .rdn) 0
    | .max => (fmtOf ty).withSign true (fmtOf ty).infBits
    | .min => (fmtOf ty).infBits
  else
    match op with
    | .sum => 0
    | .max => intEnc w (signedTy ty) false (intMin w (signedTy ty))
    | .min => intEnc w (signedTy ty) false (intMax w (signedTy ty))

/-- One step of the tree (06 R144). -/
def redStep (op : RedOp) (ty : VTy) (rnd : Rnd) (sat : Bool) (x y : Nat) : Nat :=
  match op with
  | .sum => arith2 ty rnd sat (· + ·) (Fl.add rnd) x y
  | .max => arith2 ty .rne false max Fl.max2 x y
  | .min => arith2 ty .rne false min Fl.min2 x y

/-- One level of the tree: neighbours joined. -/
def pairUp (f : Nat → Nat → Nat) : List Nat → List Nat
  | x :: y :: rest => f x y :: pairUp f rest
  | l => l

/-- The tree over a list whose length is a power of two at most 2^k (06 R144). -/
def tree (f : Nat → Nat → Nat) (l : List Nat) : Nat → Nat
  | 0 => l.headD 0
  | k + 1 => tree f (pairUp f l) k

/-- The number of levels for `n` elements. -/
def treeLevels (n : Nat) : Nat := if n ≤ 1 then 0 else Nat.log2 (n - 1) + 1

/-- Row elements with the masked places filled, up to a power of two (06 R144). -/
def redFill (w : Nat) (p : Word) (ident : Nat) (row : List Vec) : List Nat :=
  let l := (row.map (fun v => (List.range (512 / w)).map (fun k => if p.getLsbD k then elem w v k else ident))).flatten
  l ++ List.replicate (2 ^ treeLevels l.length - l.length) ident

/-- The reduction of one row. -/
def redRow (op : RedOp) (ty : VTy) (rnd : Rnd) (sat : Bool) (p : Word) (row : List Vec) : Nat :=
  let l := redFill ty.width p (redIdent op ty rnd) row
  tree (redStep op ty rnd sat) l (treeLevels l.length)

def laneRed (op : RedOp) (v : VArgs) (i : VIn) : VOut :=
  { d := i.a.map (fun row => [ofElems v.ty.width [redRow op v.ty v.rnd v.sat i.pred row]]) }

/-- Permutation of one register (06 R145). -/
def lanePerm (v : VArgs) (i : VIn) : VOut :=
  let w := v.ty.width
  masked v i (List.zipWith (List.zipWith (fun x y => ofElems w ((elems w y).map (fun k => elem w x (k % lanesOf v.ty))))) i.a i.b)

def laneBcast (v : VArgs) (i : VIn) : VOut :=
  let w := v.ty.width
  let r := ofElems w (List.replicate (512 / w) i.sa.toNat)
  masked v i (List.replicate v.hN (List.replicate v.wN r))

def laneExt (v : VArgs) (i : VIn) : VOut :=
  let w := v.ty.width
  let k := i.sc.toNat % lanesOf v.ty
  masked v i (List.zipWith (List.zipWith (fun x y => ofElems w (((elems w x ++ elems w y).drop k).take (512 / w)))) i.a i.b)

def laneIns (v : VArgs) (i : VIn) : VOut :=
  let w := v.ty.width
  let k := i.sc.toNat % lanesOf v.ty
  masked v i (i.a.map (·.map (fun x => ofElems w ((elems w x).set k i.sb.toNat))))

def laneRot (v : VArgs) (i : VIn) : VOut :=
  let w := v.ty.width
  let n := v.wN * lanesOf v.ty
  let k := i.sb.toNat % n
  masked v i (i.a.map (fun row => ofRow w v.wN ((rowElems w row).drop k ++ (rowElems w row).take k)))

/-- Narrowing of one register pair (06 R146). -/
def lanePack (v : VArgs) (i : VIn) : VOut :=
  let w := v.ty.width
  let f := fun x => intEnc (w / 2) (signedTy v.ty) v.sat (intDec w (signedTy v.ty) x)
  { d := List.zipWith (List.zipWith (fun x y => ofElems (w / 2) ((elems w x ++ elems w y).map f))) i.a i.b }

/-- Widening of one half of a register (06 R146). -/
def laneUnpk (v : VArgs) (i : VIn) : VOut :=
  let w := v.ty.width
  let h0 := i.sb.toNat % 2
  masked v i (i.a.map (·.map (fun x =>
    ofElems w ((List.range (512 / w)).map (fun k =>
      intEnc w (signedTy v.ty) false (intDec (w / 2) (signedTy v.ty) (elem (w / 2) x (k + h0 * (512 / w)))))))))

/-- The largest magnitude of a list of values that holds no NaN. -/
def maxMag (l : List Fl) : Fl := l.foldl (fun m x => if Fl.lt m x.abs then x.abs else m) Fl.zero

/-- floor (log2 x) of a positive finite value. -/
def floorLog2 : Fl → Int
  | .fin _ m e => (Nat.log2 m : Int) + e
  | _ => 0

/-- The scale byte of a block (06 R147). -/
def quantScale (xs : List Fl) : Nat :=
  if xs.any Fl.isNan then 255
  else if xs.any Fl.isInf then 254
  else
    let m := maxMag xs
    if m.isZero then 127 else (min 254 (max 0 (127 + floorLog2 m - 9))).toNat

/-- The codes of a block under its scale (06 R147). -/
def quantBlock (xs : List Fl) : List Nat :=
  let e := quantScale xs
  xs.map (fun x => if e = 255 then 0x80 else (m8Enc .rne true (x.scale (127 - (e : Int)))).1)

/-- Values in blocks of 32, `k` of them. -/
def blocks32 (l : List Fl) : Nat → List (List Fl)
  | 0 => []
  | k + 1 => l.take 32 :: blocks32 (l.drop 32) k

/-- One row of vquant: the codes and the scale bytes (06 R147). -/
def quantRow (v : VArgs) (p : Word) (row : List Vec) : List Nat × List Nat :=
  let w := v.ty.width
  let xs := (row.map (fun r => (List.range (512 / w)).map (fun k =>
    if p.getLsbD k then (fmtOf v.ty).dec (elem w r k) else Fl.zero))).flatten
  let bs := blocks32 xs (2 * v.wN)
  ((bs.map quantBlock).flatten, bs.map quantScale)

def laneQuant (v : VArgs) (i : VIn) : VOut :=
  { d := i.a.map (fun row => ofRow 8 v.wN (quantRow v i.pred row).1)
    c := i.a.map (fun row => [ofElems 8 (quantRow v i.pred row).2]) }

/-- M8 elements with their scale bytes (03 R65, R69). -/
def m8Scaled (e x : Nat) : Fl := if e = 255 then .nan else (m8Dec x).scale ((e : Int) - 127)

def laneDeq (v : VArgs) (i : VIn) : VOut :=
  let f := fmtOf v.ty
  masked v i (List.zipWith (fun row sc =>
    let s := sc.headD 0
    ofRow v.ty.width (v.wN * (v.ty.width / 8))
      ((rowElems 8 row).mapIdx (fun g x => f.bits v.rnd v.sat (m8Scaled (elem 8 s (g / 32)) x)))) i.a i.c)

/-- One 32-bit lane of vdot: an exact sum and one rounding (06 R149). -/
def dotLane (v : VArgs) (xs ys : List Nat) (c : Nat) : Nat :=
  match v.ty with
  | .bf16 =>
    let s := (List.zip xs ys).foldl (fun s p => Fl.add v.rnd s (Fl.mul (bf16.dec p.1) (bf16.dec p.2))) (fp32.dec c)
    fp32.bits v.rnd v.sat s
  | ty =>
    let g := signedTy ty
    let s := (List.zip xs ys).foldl (fun (s : Int) p => s + intDec ty.width g p.1 * intDec ty.width g p.2) (intDec 32 g c)
    intEnc 32 g v.sat s

/-- vdot on one register. -/
def dotReg (v : VArgs) (x y c : Vec) : Vec :=
  let w := v.ty.width
  let n := 32 / w
  ofElems 32 ((List.range 16).map (fun i =>
    dotLane v ((List.range n).map (fun k => elem w x (n * i + k))) ((List.range n).map (fun k => elem w y (n * i + k)))
      (elem 32 c i)))

def laneDot (v : VArgs) (i : VIn) : VOut :=
  { d := List.zipWith (List.zipWith (fun (x : Vec × Vec) z => dotReg v x.1 x.2 z)) (List.zipWith List.zip i.a i.b) i.c
    mask := laneMask 32 i.pred }

/-- One row of vsmx (06 R150): elements 0, 1, 2 of the result. -/
def smxRow (p : Word) (row : List Vec) (c : Vec) : List Nat :=
  let f := fp32
  let mo := f.dec (elem 32 c 0)
  let lo := f.dec (elem 32 c 1)
  let mx := f.dec (redRow .max .f32 .rne false p row)
  let mn := Fl.max2 mo mx
  let (al, s) :=
    if mn = .inf true then (Fl.one, Fl.zero)
    else
      let term := fun (x : Nat) => f.exp2 .rne false (f.rnd .rne false (Fl.add .rne (f.dec x) mn.neg))
      let row' := row.map (fun r => ofElems 32 ((elems 32 r).map term))
      (f.dec (f.exp2 .rne false (f.rnd .rne false (Fl.add .rne mo mn.neg))), f.dec (redRow .sum .f32 .rne false p row'))
  let ln := Fl.add .rne (Fl.mul lo al) s
  [f.bits .rne false mn, f.bits .rne false ln, f.bits .rne false al]

def laneSmx (_v : VArgs) (i : VIn) : VOut :=
  { d := List.zipWith (fun row c => [ofElems 32 (smxRow i.pred row (c.headD 0))]) i.a i.c }

/-- ppopc (06 R151). -/
def popNat (x : Word) : Nat := ((List.range 64).filter (fun k => x.getLsbD k)).length

def lanePopc (v : VArgs) (i : VIn) : VOut :=
  let r := ofElems v.ty.width (List.replicate (lanesOf v.ty) (popNat i.pa))
  masked v i (List.replicate v.hN (List.replicate v.wN r))

end Sys2Proof.Machine
end

