-- ==== Sys2Proof/Machine/MeMath.lean ====
section
/-! DEFINITION. The order of matrix sums, and the epilogue programs (spec 03 R71 to R73, R75; 08 R191 to R196). -/

namespace Sys2Proof.Machine

/-- The exact product of two finite M8 bytes in units of 2^-22 (03 R71). -/
def m8Prod (x y : Nat) : Int :=
  let v : Int := (m8Mag (x % 128) * m8Mag (y % 128) : Nat)
  if (x / 128 % 2 == 1) != (y / 128 % 2 == 1) then -v else v

/-- What a block sum has met so far (03 R71). -/
structure BlockSum where
  fx : Int := 0
  nan : Bool := false
  inv : Bool := false
  pinf : Bool := false
  ninf : Bool := false
  deriving DecidableEq, Repr

/-- One pair of elements of a block (03 R71). -/
def BlockSum.step (s : BlockSum) (x y : Nat) : BlockSum :=
  let a := m8Dec x
  let b := m8Dec y
  if a.isNan || b.isNan then { s with nan := true }
  else if a.isInf || b.isInf then
    if a.isZero || b.isZero then { s with inv := true }
    else if a.isNeg == b.isNeg then { s with pinf := true } else { s with ninf := true }
  else { s with fx := s.fx + m8Prod x y }

/-- The value of a block sum under its two scale bytes: at most one rounding (03 R71). -/
def BlockSum.value (s : BlockSum) (ea eb : Nat) : Fl × Flags :=
  let inv := s.inv || (s.pinf && s.ninf)
  if inv || s.nan || ea = 255 || eb = 255 then (.nan, { inv := inv, scovf := ea = 255 || eb = 255 })
  else if s.pinf then (.inf false, {})
  else if s.ninf then (.inf true, {})
  else if s.fx = 0 then (Fl.zero, {})
  else roundE (.fin (decide (s.fx < 0)) s.fx.natAbs ((ea : Int) + eb - 254 - 22))

/-- An addition into the accumulator (03 R71). -/
def accAdd (acc t : Fl) : Fl × Flags :=
  let s := Fl.add .rne acc t
  let (r, f) := roundE s
  (r, { f with inv := s.isNan && !acc.isNan && !t.isNan })

/-- One block of 32 elements with its scales added to the accumulator (03 R71). -/
def m8Accumulate (acc : Fl × Flags) (xs ys : List Nat) (ea eb : Nat) : Fl × Flags :=
  let s := (List.zip xs ys).foldl (fun s p => s.step p.1 p.2) ({} : BlockSum)
  let (t, f) := s.value ea eb
  let (r, g) := accAdd acc.1 t
  (r, (acc.2.or f).or g)

/-- One BF16 product added to the accumulator (03 R72). -/
def bf16Accumulate (acc : Fl × Flags) (x y : Nat) : Fl × Flags :=
  let a := bf16.dec x
  let b := bf16.dec y
  let p := Fl.mul a b
  let (r, g) := accAdd acc.1 p
  (r, (acc.2.or { inv := p.isNan && !a.isNan && !b.isNan }).or g)

/-! ### The epilogue program -/

/-- An EP word (08 R192). -/
abbrev EpWord := BitVec 16

def epOp (w : EpWord) : Nat := w.toNat / 4096
def epArg (w : EpWord) : Nat := w.toNat % 4096

/-- The operand bits of a word are defined (08 R192). -/
def epWordOk (w : EpWord) : Bool :=
  if epOp w = 1 || epOp w = 8 || epOp w = 13 then epArg w ≤ 1 else epArg w == 0

/-- Number of words with an opcode that passes a test. -/
def epCount (p : List EpWord) (f : Nat → Bool) : Nat := (p.filter (fun w => f (epOp w))).length

/-- The words up to the first `st`, and those after it. -/
def epBefore (p : List EpWord) (op : Nat) : List EpWord := p.takeWhile (fun w => epOp w != op)
def epAfter (p : List EpWord) (op : Nat) : List EpWord := (p.dropWhile (fun w => epOp w != op)).drop 1

/-- The rules that a program must meet (08 R192, R193). -/
def epOk (p : List EpWord) : Bool :=
  p.all epWordOk
    && epCount p (· == 15) == 1 && (match p.getLast? with | some w => epOp w == 15 | none => false)
    && epCount p (· == 12) == 1
    && epCount p (· == 1) ≤ 1
    && (epCount p (· == 2) == 0 || (epCount p (· == 1) == 1 && epCount (epBefore p 1) (· == 2) == 0))
    && epCount p (fun o => o == 9 || o == 10 || o == 11) ≤ 1
    && epCount (epAfter p 12) (fun o => o == 9 || o == 10 || o == 11) == 0
    && epCount p (· == 13) ≤ 1
    && (epAfter p 12).all (fun w => epOp w == 0 || epOp w == 14 || epOp w == 13 || epOp w == 15)

/-- The program reads the bias row, the residual tile, quantises, keeps a statistic. -/
def epHas (p : List EpWord) (op : Nat) : Bool := decide (0 < epCount p (· == op))

/-- The operand bit of the first word with an opcode: the element type of bias and residual, the kind of statistic. -/
def epBit (p : List EpWord) (op : Nat) : Nat := ((p.filter (fun w => epOp w == op)).map epArg).headD 0

/-- Element sizes of the residual tile: one for each operand that an `add.res` of the program has (08 R192). -/
def epResSizes (p : List EpWord) : List Nat := ((p.filter (fun w => epOp w == 8)).map (fun w => if epArg w = 0 then 4 else 2)).eraseDups

/-- Words up to and including `end` (08 R188). -/
def epLen (p : List EpWord) : Nat := (epBefore p 15).length + 1

/-- The type that `st` writes (08 R191, R192). -/
def epStoreTy (p : List EpWord) (dt : VTy) : VTy :=
  (epBefore p 12).foldl (fun t w => match epOp w with
    | 9 => .bf16
    | 10 => .m8
    | 11 => .f32
    | _ => t) dt

/-- One element of a row in the EP: x, its flags, and the code stored. -/
structure EpElem where
  x : Fl := Fl.zero
  fl : Flags := {}
  out : Nat := 0
  deriving DecidableEq, Repr, Inhabited

/-- A row in the EP (08 R191). -/
structure EpRow where
  es : List EpElem := []
  ty : VTy := .f32
  scales : List Nat := []
  stat : Fl := Fl.zero
  deriving DecidableEq, Repr, Inhabited

/-- A rounding of an exact value into a format, with INV judged against its operands (08 R196). -/
def epRound (f : Fmt) (ops : List Fl) (s : Fl) : Fl × Flags :=
  let (b, g) := f.enc .rne false s
  (f.dec b, { g with nanp := false, inv := s.isNan && ops.all (fun o => !o.isNan) })

/-- An element with a new x and its flags. -/
def EpElem.upd (e : EpElem) (r : Fl × Flags) : EpElem := { e with x := r.1, fl := e.fl.or r.2 }

/-- Values in blocks of 32 along a row of 128. -/
def epBlocks (es : List EpElem) : List (List EpElem) :=
  [es.take 32, (es.drop 32).take 32, (es.drop 64).take 32, (es.drop 96).take 32]

/-- `cvt.m8` on one block (08 R194): the scale and the elements. -/
def epQuant (es : List EpElem) : Nat × List EpElem :=
  let xs := es.map (·.x)
  let e := quantScale xs
  let free : Int := if xs.any Fl.isNan || xs.any Fl.isInf || (maxMag xs).isZero then 127 else 127 + floorLog2 (maxMag xs) - 9
  let clamped := !(xs.any Fl.isNan) && (decide (free < 0) || decide (254 < free))
  (e, es.map (fun el =>
    if e = 255 then { el with x := .nan, fl := el.fl.or { inv := false } }
    else
      let (c, g) := m8Enc .rne true (el.x.scale (127 - (e : Int)))
      { el with x := m8Scaled e c, fl := el.fl.or { g with nanp := false, scovf := clamped } }))

/-- The code that `st` writes for x, with its flags (08 R192, R194). -/
def epStore (ty : VTy) (e : Nat) (x : Fl) : Nat × Flags :=
  match ty with
  | .bf16 => let (b, g) := bf16.enc .rne false x; (b, { g with inv := false })
  | .m8 =>
    if e = 255 || x.isNan then (0x80, { nanp := true })
    else m8Enc .rne false (x.scale (127 - (e : Int)))
  | _ => let (b, g) := fp32.enc .rne false x; (b, { g with inv := false })

/-- One word on a whole row; elements are independent but for the blocks of `cvt.m8` and the row's statistic, so the order by
words gives every result of the sequential order (08 R191). `bias` and `res` are the row's operands, the residual by the operand of its
word (08 R192). -/
def epStep (scl clo chi : Fl) (bias : List Fl) (res : Nat → List Fl) (r : EpRow) (w : EpWord) : EpRow :=
  let map (f : EpElem → Fl × Flags) : EpRow := { r with es := r.es.map (fun e => e.upd (f e)) }
  let zip (l : List Fl) (f : EpElem → Fl → Fl × Flags) : EpRow := { r with es := List.zipWith (fun e o => e.upd (f e o)) r.es l }
  match epOp w with
  | 2 => zip bias (fun e b => epRound fp32 [e.x, b] (Fl.add .rne e.x b))
  | 3 => map (fun e => epRound fp32 [e.x, scl] (Fl.mul e.x scl))
  | 4 => map (fun e => (Fl.max2 e.x Fl.zero, {}))
  | 5 => map (fun e => let (b, g) := geluBits e.x; (fp32.dec b, g))
  | 6 => map (fun e => let (b, g) := siluBits e.x; (fp32.dec b, g))
  | 7 => map (fun e => (Fl.min2 (Fl.max2 e.x clo) chi, {}))
  | 8 => zip (res (epArg w)) (fun e o => epRound fp32 [e.x, o] (Fl.add .rne e.x o))
  | 9 => { map (fun e => epRound bf16 [e.x] e.x) with ty := .bf16 }
  | 10 =>
    let bs := (epBlocks r.es).map epQuant
    { r with es := (bs.map (·.2)).flatten, scales := bs.map (·.1), ty := .m8 }
  | 11 => { r with ty := .f32 }
  | 12 =>
    { r with es := r.es.mapIdx (fun j e =>
        let (c, g) := epStore r.ty (r.scales.getD (j / 32) 127) e.x
        { e with out := c, fl := e.fl.or g }) }
  | 13 =>
    let f := fun (acc : Fl × List EpElem) (e : EpElem) =>
      let (s, g) := if epArg w = 0 then epRound fp32 [acc.1, e.x] (Fl.add .rne acc.1 e.x) else (Fl.max2 acc.1 e.x.abs, {})
      (s, acc.2 ++ [{ e with fl := e.fl.or g }])
    let (s, es) := r.es.foldl f (Fl.zero, [])
    { r with es := es, stat := s }
  | 14 => map (fun e => epRound fp32 [e.x] (Fl.mul e.x e.x))
  | _ => r

/-- The epilogue of one row: the accumulator values rounded to the drain type, then the program (03 R73, 08 R191). -/
def epRow (p : List EpWord) (dt : VTy) (scl clo chi : Fl) (bias : List Fl) (res : Nat → List Fl) (acc : List Fl) : EpRow :=
  let start : EpRow :=
    { es := acc.map (fun a =>
        let (b, g) := (fmtOf dt).enc .rne false a
        { x := (fmtOf dt).dec b, fl := { g with nanp := false } })
      ty := dt }
  (epBefore p 15).foldl (epStep scl clo chi bias res) start

end Sys2Proof.Machine
end

