-- ==== Sys2Proof/Machine/Flags.lean ====
section
/-! DEFINITION. The exception flags of a drained tile and its status word (spec 03 R75). -/

namespace Sys2Proof.Machine

/-- Exceptions of a tile: the flags together, and the index of the first element that set one of them (03 R75). -/
structure TileFlags where
  fl : Flags := {}
  first : Option Nat := none
  deriving DecidableEq, Repr, Inhabited

/-- Adds the flags of element `k`. -/
def TileFlags.add (t : TileFlags) (k : Nat) (f : Flags) : TileFlags :=
  { fl := t.fl.or f
    first := match t.first with
      | some i => some (if f.any then min i k else i)
      | none => if f.any then some k else none }

/-- The code of a result type in the status word (02 R42). -/
def tyCode (t : VTy) : Nat := t.code.toNat

/-- The tile status word, 64 bytes as a number (03 R75). -/
def statusWord (t : TileFlags) (src fmt opseq : Nat) : Nat :=
  put (bit t.fl.inv) 0 + put (bit t.fl.ovf) 1 + put (bit t.fl.unf) 2 + put (bit t.fl.nanp) 3 + put (bit t.fl.scovf) 4
    + put (bit (t.fl.sat != 0)) 5 + put src 16 + put fmt 24 + put (min t.fl.sat 0xFFFFFFFF) 32
    + put (t.first.getD 0 % 2 ^ 16) 64 + put (bit t.first.isSome) 80 + put (opseq % 2 ^ 64) 128

end Sys2Proof.Machine
end

