-- ==== Sys2Proof/Machine/State.lean ====
section
/-! DEFINITION. The state of the module: every piece of state the spec names, as plain data, and its value after reset. -/

namespace Sys2Proof.Machine

/-! ### Registers and results in flight (spec 04, 05) -/

/-- A register file that results land in (04 R81). -/
inductive RFile where
  | s | v | p
  deriving DecidableEq, Repr, Inhabited

/-- A destination register, physical for vectors and predicates (04 R82). -/
structure Dst where
  file : RFile
  reg : Nat
  deriving DecidableEq, Repr, Inhabited

/-- What an access of the control core meets (09 R205): a fault, a translation that is missing, or the entry of its handle and its byte
keys. -/
inductive Access where
  | fault (c : Nat)
  | miss (va : Nat) (space : Nat)
  | ok (ent : BitVec 256) (keys : List Nat)
  deriving DecidableEq, Repr

/-- One access that an instruction makes (10 R242). -/
structure MemReq where
  ha : Nat
  n : Nat
  align : Nat
  rd : Bool
  wr : Bool
  spaces : List Nat
  deriving DecidableEq, Repr

/-- A result in flight (04 R81 to R87): `mask` holds the bits it writes, `alts` the whole register as overlapping earlier writes left it
(R84), `clean` that another write to the register has landed since a transient one issued (R85), `unit` the serial number of the command or access that is still to deliver the value, `rdy` the core-clock cycle by which
the vector pipe has it (`none`: its intake has not begun, 06 R133), `vpn` the number on tl.vp of an operation of slot V, `store` that
it is the old value of an atomic (04 R90). -/
structure Pend where
  dst : Dst
  val : Vec
  mask : Vec
  iat : Nat
  due : Nat
  slot : Slot
  q : Bool
  x : Bool
  alts : List Vec
  clean : Bool := false
  unit : Option Nat
  rdy : Option Nat := some 0
  vpn : Nat := 0
  store : Bool := false
  deriving DecidableEq, Repr

/-- A transient result after its due cycle (04 R85); `poison` holds until the next other write to the register lands. -/
structure Trans where
  dst : Dst
  val : Vec
  iat : Nat
  due : Nat
  poison : Bool
  deriving DecidableEq, Repr

/-- An operation with Q whose effect takes place at `due` (04 R86), with its operands, loop counters and accesses as found at issue
(R82; 09 R206), the serial number that keeps its place among the accesses and commands of its core (10 R228), the core-clock cycle of its
issue (R242), the registers it writes, and what landed in them since it issued (R84, R85). -/
structure Defer where
  ins : Instr
  caps : List Word
  acc : List (MemReq × Access)
  serial : Nat
  vdata : List Vec
  iat : Nat
  due : Nat
  pc : Nat
  x : Bool
  bundle : Nat
  phase : Nat
  rotlo : Nat
  rotb : Nat
  clk : Nat := 0
  dests : List Dst := []
  landed : List (Dst × Vec) := []
  deriving DecidableEq, Repr

/-- An operation of slot V whose number on tl.vp is not complete (06 R136). -/
structure VpOut where
  num : Nat
  iat : Nat
  due : Nat
  q : Bool
  deriving DecidableEq, Repr

/-- Live bits that an operation with da and Q clears at its due cycle (05 R113). -/
structure DaClear where
  iat : Nat
  due : Nat
  regs : List Nat
  deriving DecidableEq, Repr

/-- State of a vector or buffer bank (05 R111, R112): a waking bank is FULL from core-clock cycle `until` on. -/
inductive Bank where
  | full
  | ret
  | off
  | waking (till : Nat)
  deriving DecidableEq, Repr, Inhabited

/-- What is in flight in a stream. -/
structure Flight where
  pend : List Pend := []
  trans : List Trans := []
  defer : List Defer := []
  vp : List VpOut := []
  das : List DaClear := []
  lately : List (Pend × Bank) := []  -- vector results landed at their due cycle, the present one, with the state their bank had (05 R114)
  deriving DecidableEq, Repr, Inhabited

/-- One level of the stack of held writes (16 R379), with the issue cycle at which it was held and a zero-count loop's target
that was still to be taken. -/
structure Held where
  fl : Flight
  icyc : Nat
  skip : Option Nat
  deriving DecidableEq, Repr

/-- The register files (05 R105) with live bits (R113) and bank states (R111). -/
structure Regs where
  s : Tab Word := []
  l : Tab (BitVec 32) := []
  v : Tab Vec := []
  p : Tab Word := []
  live : Tab Bool := []
  bank : Tab Bank := []
  deriving DecidableEq, Repr, Inhabited

/-- Fetch, rotation and privilege registers of a context (04 R92, R96; 05 R109, R118; 16 R383). -/
structure Flow where
  pc : Nat := 0
  codeh : BitVec 12 := 0
  level : Nat := 1
  part : Nat := 0
  rotlo : Nat := 16
  rotb : Nat := 0
  ls : Tab Nat := []
  phpc : Nat := 0
  tvec : Word := 0
  act : Bool := false
  step : Bool := false
  brken : Bool := false
  highPc : Nat := 0          -- bits [63:48] of a register-held target, reported when it would issue (04 R98)
  skip : Option Nat := none  -- target of a zero-count loop, taken after the block's last bundle (04 R100)
  idle : Bool := false       -- `idle` has issued (16 R399)
  deriving DecidableEq, Repr, Inhabited

/-! ### Circular buffers (spec 07) -/

/-- A circular-buffer descriptor (07 R158); `seen` says that a slot has become visible since `cb.set` (04 R99). -/
structure CbDesc where
  handle : Nat := 0
  base : Nat := 0
  slotsz : Nat := 0
  nslot : Nat := 0
  trl : Nat := 0
  prod : Nat := 0
  cons : Nat := 0
  vrel : Bool := false
  pptr : Nat := 0
  vptr : Nat := 0
  cptr : Nat := 0
  fptr : Nat := 0
  kptr : Nat := 0
  ph : Bool := false
  valid : Bool := false
  npend : Nat := 0
  seen : Bool := false
  deriving DecidableEq, Repr, Inhabited

/-- A commit record (07 R163): what later operations have already produced and taken of its buffers, so that the targets are
the pointers less those counts; the bundle of its `cb.rel` and the core-clock cycle of its issue (R165). -/
structure Commit where
  phase : Nat
  mask : Nat
  lateP : Tab Nat
  lateC : Tab Nat
  bundle : Nat
  clk : Nat := 0
  deriving DecidableEq, Repr

/-- The registers a phase snapshot holds (16 R388). -/
structure Snap where
  s : Tab Word
  l : Tab (BitVec 32)
  p : Tab Word
  ls : Tab Nat
  rotlo : Nat
  rotb : Nat
  deriving DecidableEq, Repr

/-- An uncommitted phase (16 R388): its restart point, the issue cycle of that bundle, the bundle count at which the check core has
compared it, and its snapshot. -/
structure Phase where
  idx : Nat
  restart : Option Nat := none
  cyc : Nat := 0
  confirmAt : Nat := 0
  snap : Option Snap := none
  replayed : Bool := false
  deriving DecidableEq, Repr, Inhabited

/-! ### Commands and engines (spec 08, 09, 10, 13) -/

/-- The front that applies a command (08 R184; 09 R216; 13 R332), or the unit of the die or cluster, each with its own order (12 R305;
13 R331; 14 R357). -/
inductive Front where
  | me | ce | pae | dae
  | unit (n : Nat)
  deriving DecidableEq, Repr, Inhabited

/-- A slot E command or other compared operation on its way to its unit (08 R184, 16 R386): `caps` holds the operand values
a, b, c (and the loop counters after them), `nums` the timeline numbers it took, `front` when it reached its front. -/
structure Cmd where
  ins : Instr
  caps : List Word
  serial : Nat
  bundle : Nat
  phase : Nat
  nums : List Nat
  sent : Option Nat
  pc : Nat
  keys : List Nat := []        -- byte keys of the image of a load command
  rq : Option (Nat × Nat) := none -- the request of the tile task it belongs to: its index, its admission (14 R359)
  ready : Nat := 0             -- cycle after the application of the command before it at its front
  qiat : Option Nat := none    -- issue cycle of an `hset` or `hinv` with Q, which its own bundle may cancel (09 R208)
  ent : List (Nat × BitVec 256) := []
  old : Option CbDesc := none  -- what a `cb.set` has replaced: others see it until the command is compared (07 R165)
  clk : Nat := 0               -- core-clock cycle of its issue: it is not at its front before five cycles have passed (10 R242; 16 R386)
  deriving DecidableEq, Repr

/-- An access that has issued and is not performed (10 R228, R242): the byte keys it touches, the core-clock cycle of its issue, that it
is an access to a buffer (07 R174), the number that gives its place in issue order, and the space and handle address that a read reports with
its phase and its context (16 R393). -/
structure Lease where
  ins : Instr
  caps : List Word
  vdata : List Vec
  keys : List Nat
  serial : Nat
  bundle : Nat
  durable : Bool
  clk : Nat := 0
  buf : Bool := false
  ord : Nat := 0
  space : Nat := 0
  ha : Nat := 0
  phase : Nat := 0
  own : Nat := 0
  deriving DecidableEq, Repr

/-- A publication (10 R255): `low` is where its range begins. -/
structure Pub where
  key : Nat
  val : Word
  low : Nat
  phase : Nat
  bundle : Nat
  durable : Bool
  deriving DecidableEq, Repr

/-- A timeline (10 R237): the last number issued, the numbers that are done beyond the first gap, and the value. -/
structure Timeline where
  issued : Nat := 0
  value : Nat := 0
  done : List Nat := []
  bad : List Nat := []       -- numbers abandoned or discarded, for R255
  pubs : List Pub := []
  lastPub : Nat := 0
  deriving DecidableEq, Repr, Inhabited

/-- An issued ME operation: its snapshot (08 R181). -/
structure MeOp where
  num : Nat
  phase : Nat
  tmpl : BitVec 512
  fmt : BitVec 256
  ep : List (BitVec 16)
  lost : Bool                -- a continuing operation after a phase marker (08 R178)
  ent : List (Nat × BitVec 256) := []
  rq : Option (Nat × Nat) := none -- the request of the tile task that issued it: its index, its admission (14 R359)
  deriving DecidableEq, Repr

/-- What a fired ME operation is doing (08 R188). -/
inductive MeStage where
  | mac (till : Nat)
  | await
  | drain (till : Nat)
  deriving DecidableEq, Repr

/-- A fired ME operation: slot addresses as byte keys, bank groups owned, and the array handed to the EP. -/
structure MeFired where
  op : MeOp
  owner : Nat
  aKey : Nat
  bKey : Nat
  rKey : Nat
  dKey : Nat
  scaKey : Nat
  scbKey : Nat
  biasKey : Nat
  resKey : Nat
  groups : List Nat
  fired : Nat
  stage : MeStage
  arr : Tab Word
  arrFlags : List (Nat × Nat)   -- elements that raised INV (bit 0) or SCOVF (bit 4) in the sums
  bad : Bool                     -- a residue mismatch or uncorrectable operand (08 R190)
  deriving DecidableEq, Repr

/-- A queue stopped at its head by its own fault (16 R381). -/
structure Stop where
  code : Nat
  load : Bool
  detail : Nat
  deriving DecidableEq, Repr

/-- An issued PAE or DAE operation (13 R332). -/
structure AtOp where
  num : Nat
  phase : Nat
  cmd : Nat                     -- serial number of the command that issued it
  dae : Bool
  tmpl : BitVec 512
  mask : List Byte := []        -- the mask slot at issue, empty where it holds none
  ent : List (Nat × BitVec 256) := []
  deriving DecidableEq, Repr

/-- A fired attention operation (13 R336, R339, R342): its slots as byte keys, the bank groups it owns, the cycle at which it may
complete, and what it snapshots: APP and WIN of its group, and the pages of the chain with their first positions. -/
structure AtRun where
  op : AtOp
  owner : Nat
  qKey : Nat
  oKey : Nat
  part : Nat
  groups : List Nat
  till : Nat
  bad : Bool := false
  app : Nat
  win : Nat
  recLen : Nat
  toks : Nat
  pages : List (Nat × Nat)      -- first position and body key
  deriving DecidableEq, Repr

/-- The kinds of copy (09 R223, R226). -/
inductive CpKind where
  | lin | multi | two | gather | scatter
  deriving DecidableEq, Repr, Inhabited

/-- The parameters of a copy, taken at its front (09 R206, R223 to R226). -/
structure CpParm where
  kind : CpKind
  ver : Bool
  whole : Bool
  ph : Bool
  dcb : Bool
  scb : Bool
  cb : Nat
  src : Nat
  dst : Nat
  len : Nat
  nrow : Nat
  sstep : Nat
  dstep : Nat
  idx : Nat
  off : Nat
  mask : Nat
  tmplOk : Bool
  deriving DecidableEq, Repr

/-- Where a copy stands (09 R219, R223; 10 R238): it waits for its slot; reads the version word of its source; makes that of its
destination odd; moves its chunks; reads the version word again; makes that of its destination even. -/
inductive CpStage where
  | slot | srcHdr | dstHdr | body | srcEnd | dstEnd
  deriving DecidableEq, Repr, Inhabited

/-- A slot of a circular buffer that a copy fills or pops: the core of the buffer, the ring position, its turn among the copies of that
buffer, and that the pointer has passed it (09 R217, R225). -/
structure CpSlot where
  core : Nat
  slot : Nat
  turn : Nat := 0
  done : Bool := false
  deriving DecidableEq, Repr

/-- A request at a port of the hub for a chunk or a header of a copy: the port and the address of the peer, its station and partition, the
remote handle address, the bytes asked for, and what a write carries (18 R424, R428). -/
structure XReq where
  port : Nat
  mac : Nat
  station : Nat
  part : Nat
  ha : Nat
  n : Nat
  data : Option (List Byte) := none
  deriving DecidableEq, Repr

/-- What the hub answered a peer: the bytes of a read, an acknowledgement, a refusal (18 R428). -/
inductive XReply where
  | data (bs : List Byte)
  | ack
  | refused
  deriving DecidableEq, Repr

/-- A copy in flight or parked (09 R216 to R222). `pos` is the resume offset; `park` the parking code and the handle address;
`old` what it has overwritten of its own source (09 R224). -/
structure Copy where
  num : Nat                   -- 0 where it has no timeline number
  owner : Nat
  phase : Nat
  bundle : Nat := 0           -- the bundle that issued it (10 R239)
  parm : CpParm
  pos : Nat := 0
  stage : CpStage := .slot
  park : Option (Nat × Nat) := none
  ver : Nat := 0              -- the version that a `.ver` pass took
  status : Nat := 0           -- STATUS of the source's header (12 R295)
  odd : Nat := 0              -- the odd version of a `.whole` destination
  old : Tab (Option Byte) := []
  slots : List CpSlot := []
  n : Nat := 0                -- bytes of the chunk in hand, the index of its row, and the cycle at which it has moved (09 R218)
  ix : Nat := 0
  till : Option Nat := none
  sent : Option XReq := none  -- its request that is with the hub's port (18 R428)
  data : Option (List Byte) := none   -- bytes of the chunk in hand that a port has returned
  re : Bool := false          -- it rewrites a stage from its refetch record, under no number (16 R392)
  ent : List (Nat × BitVec 256) := []
  deriving DecidableEq, Repr

/-- A copy has taken its slots. -/
def Copy.begun (k : Copy) : Bool := k.stage != .slot

/-- The refetch record of a DCB slot (16 R392). -/
structure Refetch where
  owner : Nat
  cb : Nat
  slot : Nat
  parm : CpParm
  busy : Bool := false
  deriving DecidableEq, Repr

/-- A `rq.next` operation held until its commit (12 R317). -/
structure HeldRq where
  ins : Instr
  caps : List Word
  phase : Nat
  serial : Nat
  deriving DecidableEq, Repr

/-- The task a context runs (12 R299 to R302, R312, R313; 11 R285): the number of its arrival task or tile task, the register of the
wait that took it, its requested frequency, that steps 1 to 3 of its `task.end` are done, and that it ends without a `task.end`. -/
structure Task where
  arr : Option Nat := none
  tile : Option Nat := none
  launch : Bool := false
  entry : Nat := 0
  rq : Option Nat := none
  uid : Nat := 0                -- the admission of that request (14 R359)
  missed : Bool := false
  addr : Nat := 0               -- bus address of the record of a launch context
  dreg : Nat := 0
  freq : Nat := 0
  ended : Bool := false
  ending : Bool := false
  deriving DecidableEq, Repr, Inhabited

/-- The CSRs of state words 32 to 51 of a context image and the masks (16 R394; 11 R283; 12 R313; 17 R411). The cluster and die masks
are kept without the core's own bit, which both always hold (12 R307, R321). -/
structure CtxCsr where
  dmbClus : Nat := 0
  dmbDie : Nat := 0
  dmbMod : Nat := 0
  segEv : Nat := 0
  arrInfo : Word := 0
  arrBatch : Word := 0
  arrDep : Word := 0
  arrRot : Word := 0
  taskInfo : Word := 0
  taskRec : Word := 0
  taskArg : Word := 0
  taskJoin : Word := 0
  rqSel : Word := 0
  cpSel : Word := 0
  rpRq : Word := 0
  rpLen : Word := 0
  rpRot : Word := 0
  rpTag : Word := 0
  rpSamp : Tab Word := []
  rpHash : Word := 0
  rpCtl : Word := 0
  deriving DecidableEq, Repr, Inhabited

/-- A pin: a pond slot and the segment that was resident in it (11 R271). -/
structure Pin where
  slot : Nat
  sid : Nat
  deriving DecidableEq, Repr

/-- A bundle wait (07 R169 and the other waits): cycles passed, the bound read when it began, and whether the bound or a
deciding event has ended it; `boundM` is the bound of slot M where two slots of the bundle wait. `kind` is 1 for `arr.wait`, which names `races`, and 2 for the wait of `task.end` for its next task;
`stores` says that a `bo.wait`, `fence` or `rel.rec` waits, for which the core's own stores are performed (10 R249 to R251). -/
structure Wait where
  elapsed : Nat := 0
  bound : Nat := 0
  boundM : Nat := 0
  expired : Bool := false
  kind : Nat := 0
  races : Nat := 0
  stores : Bool := false
  deriving DecidableEq, Repr, Inhabited

/-- Mirror work of a commit, or of a freed sequence (17 R407): the core that issued it, the pages, the leaf and policy images as
they stood at the commit; `num` tells the works of a partition apart, `stage` is 1 once the images of steps 1 and 2 are on their way and
2 once the sequence word is. -/
structure MirWork where
  station : Nat
  part : Nat
  core : Nat
  seq : Nat
  free : Bool
  len : Nat
  pages : List Nat
  leaf : List (Nat × Nat)
  pol : List Byte
  num : Nat := 0
  stage : Nat := 0
  deriving DecidableEq, Repr

/-- A recovery-point write in progress (17 R412): the record, where it goes, its request's key in the recovery directory, the
mirror work that must be done first, and the bundle that the check core compares first, with the cycle of its issue. -/
structure RpWrite where
  bytes : List Byte
  keys : List Nat             -- where its bytes go
  dir : Nat
  seq : Nat := 0              -- the sequence whose commits come first
  mir : List Nat
  bundle : Nat := 0
  clk : Nat := 0
  deriving DecidableEq, Repr

/-- A cause as TRAP.CAUSE, TRAP.DETAIL and TRAP.ADDR will show it (16 R383). -/
structure TrapInfo where
  code : Nat
  part : Nat := 7
  queue : Nat := 0
  defer : Bool := false
  detail : Nat := 0
  addr : Nat := 0
  deriving DecidableEq, Repr, Inhabited

/-- The power words of a context (15 R373). -/
structure GovCtx where
  pool : Nat := 0
  ptgt : Nat := 0
  bfloor : Nat := 0
  opfloor : Nat := 0
  deriving DecidableEq, Repr, Inhabited

/-- A reservation: draw units held, the context whose pool they come from, a request in the governor's FIFO, the cycle since
which its holder is idle (15 R368, R369). -/
structure Resv where
  held : Nat := 0
  pool : Option Nat := none
  asked : Bool := false
  idle : Nat := 0
  deriving DecidableEq, Repr, Inhabited

/-- A post that a context has made (14 R361): its phase, its request, that the phase was cancelled. -/
structure Post where
  phase : Nat
  rq : Nat
  again : Bool
  deriving DecidableEq, Repr

/-- A context: what an instruction stream sees that no other core shares (16, R394). -/
structure Ctx where
  cid : Nat := 0
  r : Regs := {}
  f : Flow := {}
  fl : Flight := {}
  held : List Held := []
  cb : Tab CbDesc := []
  commits : List Commit := []
  phase : Nat := 0
  phases : List Phase := []
  tmpl : Tab (BitVec 512) := []        -- key 64 * engine + template
  fmt : Tab (BitVec 256) := []
  ep : Tab (List (BitVec 16)) := []
  mask : Tab (List Byte) := []
  acc : Tab Word := []
  accFree : Option Nat := none          -- the array is undefined (08 R189)
  meCut : Bool := false                 -- a phase marker stands since the last starting operation (08 R178)
  meq : List MeOp := []
  meStop : Option Stop := none
  ceStop : Option Stop := none
  paeStop : Option Stop := none
  daeStop : Option Stop := none
  atq : List AtOp := []
  mpc : Nat := 0
  paeLast : Nat := 0                    -- the last number issued to each attention queue (16 R382)
  daeLast : Nat := 0
  paeMpc : Nat := 0
  daeMpc : Nat := 0
  cmds : List Cmd := []
  tlMe : Timeline := {}
  tlCe : Timeline := {}
  tlVp : Timeline := {}
  tlAt : Timeline := {}
  rqs : List HeldRq := []
  pins : Tab (Option Pin) := []
  csr : CtxCsr := {}
  gov : GovCtx := {}
  cut : BitVec 2048 := 0
  task : Task := {}
  pending : List TrapInfo := []         -- boundary causes not yet taken (16 R377)
  stepArmed : Bool := false
  stepAt : Option Nat := none           -- issue cycle of a stepped bundle whose unit answers are to land before cause 0x22 (16 R384)
  rp : Option RpWrite := none
  posts : List Post := []
  deriving DecidableEq, Repr, Inhabited

/-- The trap CSRs that are not part of a context (16 R383, R393). -/
structure TrapCsr where
  cause : Word := 0xE00
  detail : Word := 0
  addr : Word := 0
  pc : Word := 0
  cutsel : Word := 0
  rot : Word := 16
  qctl : Word := 0
  scr : Tab Word := []
  errInfo : Word := 0
  errAddr : Word := 0
  deriving DecidableEq, Repr, Inhabited

/-- The counters of a core (04 R91, 16 R383). -/
structure Counters where
  frzN : Word := 0
  frzCyc : Word := 0
  slipN : Word := 0
  portN : Word := 0
  wakeN : Word := 0
  sqN : Word := 0
  issN : Word := 0
  tknN : Word := 0
  sdeN : Word := 0
  resN : Word := 0
  ueN : Word := 0
  cerrN : Word := 0
  replayN : Word := 0
  uncontN : Word := 0
  trapsN : Word := 0
  rpwN : Word := 0
  mirwN : Word := 0
  deriving DecidableEq, Repr, Inhabited

/-- States of the shadow bank (16 R395). -/
inductive BankSh where
  | empty | full | filling | spilling
  deriving DecidableEq, Repr, Inhabited

/-- The shadow bank, the shadow-storage slot and the channels of the context engine (16 R395, R401). The slot's image lies in memory, in a
region of its own, with its check bits (R393). -/
structure Shadow where
  st : BankSh := .empty
  bank : Option Ctx := none
  slotv : Bool := false
  fres : Nat := 0
  spillTo : Option (Option Nat) := none    -- outbound channel: the slot, or a byte key of D
  spillAt : Nat := 0                       -- cycle in which it has moved the whole image
  spillEnds : Bool := false                -- a `ctx.spill`, which leaves the bank EMPTY
  fillFrom : Option (Option Nat) := none   -- inbound channel
  fillAt : Nat := 0
  images : Tab (Option (Ctx × Bool)) := [] -- what the opaque areas of this core's images in D and in the slot stand for; false once filled again
  deriving DecidableEq, Repr, Inhabited

/-- Why a core would be contained (16 R387, R390, R393): kind, space code, handle address, syndrome and parity, the phase of
the failing bundle or operation, the key of the data, and the context. -/
structure ErrCause where
  kind : Nat
  space : Nat := 0
  ha : Nat := 0
  syn : Nat := 0
  par : Bool := false
  phase : Nat := 0
  key : Nat := 0
  owner : Nat := 0
  deriving DecidableEq, Repr, Inhabited

/-- The classes of a freeze (04 R89). -/
inductive FrzClass where
  | late | port | wake | fetch | wait
  deriving DecidableEq, Repr, Inhabited

/-- The freeze line (04 R88 to R90): asserted, the consecutive cycles of causes other than Wait, the class that held it, and the
address of a bundle that missed. -/
structure Freeze where
  line : Bool := false
  run : Nat := 0
  cls : FrzClass := .late
  own : Counters := {}        -- what the freezes of the next bundle have counted (05 R119)
  ports : Nat := 0            -- port cycles still owed by the next bundle
  portPaid : Bool := false    -- the next bundle has paid its port freeze
  await : Option (Slot × Option Dst) := none   -- an access of the next bundle that misses its translation: its slot and its register (04 R90)
  deriving DecidableEq, Repr, Inhabited

/-- The header bits of the bundle being issued, latched for the meanings of its slots: Q and X bits, that the checks of the
bundle are done, and the operands captured where an operation runs later than at its issue. -/
structure Iss where
  q : BitVec 4 := 0
  x : BitVec 4 := 0
  checked : Bool := false
  bundle : Bool := false
  cap : Option (List Word) := none
  capV : List Vec := []
  acc : List (MemReq × Access) := []
  ser : Nat := 0               -- the serial number of an operation whose effect is at c+L
  ctr : Option Counters := none  -- the counters that the bundle's CSR reads see (05 R119)
  now : Bool := false          -- results land at once (an effect at c+L)
  bun : Nat := 0               -- the bundle of an operation whose effect is at c+L
  clk : Nat := 0               -- and the core-clock cycle of its issue,
  landed : List (Dst × Vec) := []  -- and what landed in its registers since (04 R84, R85)
  taken : Option Nat := none   -- a taken transfer of this bundle: issue cycles to its target, which is in PC
  late : Bool := false
  deriving DecidableEq, Repr, Inhabited

/-- An operation that waits for the intake of the vector pipe (06 R133, R134): its context and its number on tl.vp, B, Lb, and that it needs the
reservation. -/
structure VpEnt where
  cid : Nat
  num : Nat
  b : Nat
  lb : Nat
  need : Bool
  deriving DecidableEq, Repr

/-- A block asked for ahead whose translation is not known yet (04 R104; 09 R213): the line it would fill, the page whose walk it waits for. -/
structure Ahead where
  block : Nat
  key : Nat
  asked : Option Nat := none
  deriving DecidableEq, Repr, Inhabited

/-- A control core with its check core, engines and context engine. -/
structure Core where
  ctx : Ctx := {}
  iss : Iss := {}
  icyc : Nat := 0
  ccyc : Nat := 0
  bundles : Nat := 0           -- bundles issued, which the check core follows four behind (16 R385)
  checkLag : Nat := 0          -- bundles the check core lags (0 to 4)
  gap : Nat := 0               -- core-clock cycles to pass before the next bundle issues: branch bubbles, trap entry, swap
  gapIss : Bool := false       -- those cycles are issue cycles (04 R94)
  frz : Freeze := {}
  wait : Option Wait := none
  offer : Option Nat := none   -- the task offered to the waiting core (12 R299)
  halted : Bool := false
  trap : TrapCsr := {}
  ctr : Counters := {}
  bbs : Tab Bank := []         -- key 16 * space + bank
  me : List MeFired := []
  meR : Resv := {}
  vpR : Resv := {}
  ceR : Resv := {}
  vpFree : Nat := 0            -- end of the last intake of the vector pipe (06 R133)
  vpLast : Nat := 0            -- cycle by which every operation of the pipe has left it
  vpWait : List VpEnt := []    -- operations of any context that wait for intake, in issue order (06 R133, R134)
  ceFree : Nat := 0            -- cycle by which the copy engine has moved the chunks in hand (09 R218)
  copies : List Copy := []
  refetch : List Refetch := []
  leases : List Lease := []
  serial : Nat := 0
  nextCid : Nat := 1
  shadow : Shadow := {}
  launchCtx : List Ctx := []   -- the context a launch context interrupted (12 R312)
  endedCtx : List Ctx := []        -- launch contexts that have ended: their engine work runs on (12 R302)
  err : Option ErrCause := none
  errq : List ErrCause := []       -- errors met while another is to be contained
  atRun : List AtRun := []         -- attention operations of this core that have fired
  bar : Option (Nat × Nat) := none -- the barrier the core waits in: level, and the number of its command (12 R308)
  swap : Option Nat := none        -- a shadow swap takes place at the next boundary: the number of its result, held until then (16 R401)
  pswap : Option (Nat × Nat × Nat) := none -- a partition swap that management asked for: partition, images in and out (16 R396)
  ahead : List Ahead := []     -- blocks asked for ahead
  holdCmd : Option Nat := none -- serial number of the `hset`, `hinv` or `bar` command whose effect the core awaits (04 R88)
  deriving DecidableEq, Repr, Inhabited

/-! ### Cluster, die, module -/

/-- The violation log (01 R25, 18 R422): entries by sequence number modulo 4096; `since` is the first of the present ring cycle (R27). -/
structure Log where
  ents : Tab (BitVec 256) := []
  head : Nat := 0
  since : Nat := 0
  tail : Nat := 0
  ovf : Nat := 0
  deriving DecidableEq, Repr, Inhabited

/-- A cached translation (09 R212): partition, first virtual address, size in bytes, the leaf, and the core whose L1 TLB holds
it (`none`: the L2 TLB of the station). -/
structure TlbEnt where
  part : Nat
  va : Nat
  size : Nat
  leaf : BitVec 64
  core : Option Nat
  station : Nat
  deriving DecidableEq, Repr

/-- A miss that waits for a page walk (09 R213, R214): of the control core, or of a copy, by number and owner (R219). -/
structure Walk where
  core : Nat
  part : Nat
  va : Nat
  rd : Bool
  wr : Bool
  space : Nat
  copy : Option (Nat × Nat) := none
  ahead : Bool := false        -- it serves a block brought in ahead, which waits for nothing (04 R104)
  deriving DecidableEq, Repr

/-- A request in a governor's FIFO (15 R371): who asks (0 PAE, 1 DAE, 2 + 4 * core + 0 ME, 1 vector pipe, 2 copy engine, 3 pool),
its size, the size it replaces in an exchange, when it arrived, and the context. -/
structure GReq where
  who : Nat
  size : Nat
  old : Nat
  time : Nat
  cid : Nat
  deriving DecidableEq, Repr

/-- What reaches a governor and acts at its next boundary (15 R371, R375): du released, a ballast floor posted, or the unused du that a
core's pool has beyond its target returned, with the pool's request withdrawn by `gov.rel`. -/
inductive GAct where
  | release (du : Nat)
  | floor (key du : Nat)
  | pool (core cid : Nat) (withdraw : Bool)
  deriving DecidableEq, Repr

/-- Governor, voltage and clock of a cluster (15 R363 to R373). -/
structure Power where
  lvl : Nat := 0
  held : Nat := 0
  flr : Nat := 0
  fifo : List GReq := []
  bnd : Option Nat := none               -- next step boundary; none at rest
  acts : List (Nat × GAct) := []
  floors : Tab Nat := []                 -- ballast floors that have acted, by core and context
  opfl : Tab Nat := []                   -- frequency floors, by core and context
  fcur : Nat := 400
  vcur : Nat := 550
  ftgt : Nat := 400
  ramp : Bool := false
  pend : Option Nat := none
  tgt : Nat := 400                       -- the target of R366
  fceil : Nat := 1600
  demand : Nat := 400                    -- fantail demand (12 R301)
  capw : Nat := 0
  avgw : Nat := 0
  samples : List Nat := []               -- L * VCUR of the last 1000 samples
  grantN : Word := 0
  gwaitCyc : Word := 0
  balDuc : Word := 0
  opchgN : Word := 0
  droopN : Word := 0
  capstepN : Word := 0
  deriving DecidableEq, Repr, Inhabited

/-- A cluster (01 R18, 04 R95). -/
structure Cluster where
  owner : Nat := 0                       -- partitions that own it, bit p (01 R18)
  lines : Tab (Option (BitVec 512)) := []  -- instruction-cache lines by partition, handle and block (04 R95)
  flush : Option Nat := none             -- a flush in progress: partitions, bit p (04 R96)
  clk : Nat := 0
  pow : Power := {}
  paeR : Resv := {}
  daeR : Resv := {}
  paeNext : Nat := 0                     -- core at which the round of an engine goes on (13 R332)
  daeNext : Nat := 0
  deriving DecidableEq, Repr, Inhabited

/-- A group's policy (13 R324): tokens per page, block length, spilling, window. -/
structure Policy where
  t : Nat := 0
  blen : Nat := 0
  spill : Bool := false
  win : Nat := 0
  deriving DecidableEq, Repr, Inhabited

/-- A sequence (13 R325): committed length, appended lengths by group, leaf entries by 64 * group + block. -/
structure SeqSt where
  clen : Nat := 0
  app : Tab Nat := []
  leaf : Tab (Option Nat) := []
  shape : Tab Policy := []        -- the policy under which a group took its pages (R324)
  loose : Tab (List Nat) := []    -- pages of a group whose policy has changed since: its translations are undefined (R324)
  deriving DecidableEq, Repr, Inhabited

/-- A page header that was never written: SUCC names no page (13 R323). -/
def hdr0 : BitVec 512 := 0xFFFFFF

/-- The KV state of a partition on a die (13 R322 to R328, R343): pages released but still read wait in `limbo` for attention
operations, named by core, context and number. -/
structure KvPart where
  npage : Nat := 0
  nspill : Nat := 0
  nseq : Nat := 0
  hdr : Tab (BitVec 512) := []
  limbo : List (Nat × List (Nat × Nat × Nat)) := []
  seqs : Tab (Option SeqSt) := []
  kvpolb : Word := 0
  kvmirb : Word := 0
  mirErr : Bool := false
  mirNum : Nat := 0
  mirLast : Tab Nat := []     -- the last work of a sequence whose sequence word is in the domain
  kvcowN : Word := 0
  pfxwinN : Word := 0
  pfxloseN : Word := 0
  kvfailN : Word := 0
  deriving DecidableEq, Repr, Inhabited

/-- An entry of the prefix index (13 R330). -/
structure PfxEnt where
  part : Nat
  group : Nat
  key : Word
  page : Nat
  t : Nat := 0
  blen : Nat := 0
  deriving DecidableEq, Repr

/-- A segment (11 R263); its body lies under its own number `sid`. -/
structure Seg where
  sid : Nat
  tag : Nat
  part : Nat
  kind : Nat
  race : Nat
  cidx : Nat
  late : Nat
  rot : Nat
  gen : Nat
  user : Nat
  again : Bool := false        -- the origin has moved under it: it departs the new one in rotation `rot` (11 R280)
  deriving DecidableEq, Repr, Inhabited

/-- A segment in a pond (11 R260, R266, R270, R272, R277): the stroke from whose start it is usable, strokes held here, the stroke at
which its staging ends, the mark of an unload, and hold targets by core. -/
structure PondSeg where
  seg : Seg
  since : Nat
  held : Nat := 0
  staging : Option Nat := none
  drop : Bool := false
  targets : Tab Nat := []
  deriving DecidableEq, Repr, Inhabited

/-- A segment of a loaded image (11 R276): its cadence slot and the keep address of its header. -/
structure SegImg where
  part : Nat
  race : Nat
  cidx : Nat
  addr : Nat
  gen : Nat
  tag : Nat
  deriving DecidableEq, Repr

/-- The millrace (11 R257 to R262, R276 to R281; 18 R422): `fenced` and `bridged` are stations by bit, those that management has fenced and
those that the sluice passes over; `images` are loaded, `todo` wait for their injection with their KIND. -/
structure Ring where
  running : Bool := false
  stopped : Bool := false
  pe : Nat := 0
  pw : Nat := 0
  s0e : Nat := 0
  s0w : Nat := 0
  rotE : Nat := 0
  rotW : Nat := 0
  transE : Bool := false
  transW : Bool := false
  fenced : Nat := 0
  bridged : Nat := 0
  nextSid : Nat := 0
  images : List SegImg := []
  todo : List (SegImg × Nat) := []
  deriving DecidableEq, Repr, Inhabited

/-! ### The die scheduler and the ballot (spec 12, 14) -/

/-- A request-table entry (12 R287, R289), with an advance and a done recorded while it is BUSY, and its member counters (14 R359). -/
structure Req where
  state : Nat := 0
  part : Nat := 0
  tag : Nat := 0
  cls : Nat := 0
  missed : Nat := 0
  admitted : Nat := 0
  sibg : Nat := 0xFF
  kvroot : Nat := 0
  rpha : Nat := 0
  hseq : Nat := 0
  adv : Option Nat := none
  done : Bool := false
  cTok : Nat := 0
  cSeg : Nat := 0
  cMe : Nat := 0
  uid : Nat := 0                 -- its admission among those of the die: work that outlasts it is told apart by this (14 R359)
  deriving DecidableEq, Repr, Inhabited

/-- An entry of a batch (12 R291). -/
structure BatchEnt where
  rq : Nat
  src : Bool
  cls : Nat
  missed : Nat
  item : Nat
  uid : Nat := 0
  deriving DecidableEq, Repr

/-- An arrival task, formed and not ended (11 R266 to R275; 12 R289 to R291): `taker` is its core, `join` its join stroke. -/
structure ArrTask where
  id : Nat
  part : Nat
  race : Nat
  tag : Nat
  entry : Nat
  gap : Bool
  trans : Bool
  tset : Nat
  ftb : Nat
  bcls : Nat
  slot : Nat
  sid : Nat
  late : Nat
  dep : Nat
  rot : Nat
  ents : List BatchEnt
  join : Nat
  taker : Option Nat := none
  missed : Bool := false
  deriving DecidableEq, Repr

/-- A tile task, queued or running (12 R293 to R299): tiles as the byte keys of their headers. -/
structure TileTask where
  id : Nat
  part : Nat
  entry : Nat
  eng : Nat
  ins : List Nat
  outs : List Nat
  deadline : Option Nat
  rq : Option Nat
  uid : Nat := 0
  est : Nat
  arg : Nat
  recHa : Nat
  join : Option Nat
  taker : Option Nat := none
  deriving DecidableEq, Repr

/-- A compaction list with its tag (12 R303). -/
structure CmpList where
  part : Nat
  tag : Nat
  items : List Nat
  deriving DecidableEq, Repr

/-- A sibling group (14 R354 to R360): its candidate slots are hashes with counts. -/
structure Group where
  n : Nat := 0
  q : Nat := 0
  state : Nat := 0
  part : Nat := 0
  win : Nat := 0
  untrk : Nat := 0
  stroke : Nat := 0
  slots : List (Word × Nat) := []
  posted : List Nat := []
  tok : Nat := 0
  seg : Nat := 0
  me : Nat := 0
  pages : Nat := 0
  canc : List Nat := []          -- admissions of cancelled members that have been released: their work still ends (R359)
  deriving DecidableEq, Repr, Inhabited

/-- What a die shares among its partitions (12, 14): requests, arrival tasks in batch order, tile tasks in order of acceptance, the
full/empty directory by header key (FULL, CLAIM), compaction lists, the core served last, groups. -/
structure Die where
  reqs : Tab Req := []
  arrs : List ArrTask := []
  tiles : List TileTask := []
  dir : Tab (Option (Bool × Bool)) := []
  lists : List CmpList := []
  rr : Nat := 47
  nextId : Nat := 1
  nextUid : Nat := 1             -- admissions of requests
  groups : Tab Group := []
  deriving DecidableEq, Repr, Inhabited

/-- What a die keeps for a partition (11 R283; 12 R305, R313). -/
structure DiePart where
  avtb : Word := 0
  schb : Word := 0
  cmpb : Word := 0
  segmissN : Word := 0
  holdN : Word := 0
  segskipN : Word := 0
  arrlateN : Word := 0
  arrnoentN : Word := 0
  spawnN : Word := 0
  cmpdropN : Word := 0
  fantN : Word := 0
  open_ : Nat := 0
  qepoch : Nat := 0
  deriving DecidableEq, Repr, Inhabited

/-- A core at a barrier level (12 R307, R308): its last arrival registered, whether it is pending, and the
context and the bundle of its `bar`. -/
structure BarSt where
  count : Nat := 0
  pend : Bool := false
  cid : Nat := 0
  bundle : Nat := 0
  deriving DecidableEq, Repr, Inhabited

/-! ### The hub (spec 17, 18) -/

/-- An accepted launch record that occupies its launch core (12 R310 to R312; 18 R421). -/
structure Launch where
  part : Nat
  station : Nat
  addr : Nat
  admitted : Bool
  entry : Nat
  arg : Nat
  rqix : Nat
  started : Bool := false
  deriving DecidableEq, Repr

/-- The recovery directory of a partition and station (17 R414). -/
structure RecPart where
  kvmirb : Nat := 0
  npage : Nat := 0
  nspill : Nat := 0
  nseq : Nat := 0
  deriving DecidableEq, Repr, Inhabited

/-- A request's entry in the recovery directory. -/
structure RecEnt where
  rpha : Nat := 0
  valid : Bool := false
  lost : Bool := false             -- its request is to be restored (R415)
  deriving DecidableEq, Repr, Inhabited

/-- A restore that has entered REST on its target (17 R415, R416): where the request lived, its record. -/
structure Restore where
  station : Nat
  rq : Nat
  home : Nat
  homeRq : Nat
  part : Nat
  image : Nat
  deriving DecidableEq, Repr

/-- A write to a durable handle that is on its way to the checkpoint domain (17 R404, R405). -/
structure DurWrite where
  core : Nat
  bytes : List (Nat × Byte)
  deriving DecidableEq, Repr

/-- A whole-module checkpoint in progress (17 R413): what it still waits for. -/
structure Ckpt where
  dur : List DurWrite
  mir : List (Nat × Nat)
  recs : List (Nat × Nat)
  deriving DecidableEq, Repr

/-- What the endpoint answers a read of the host: data, or Completer Abort status (01 R24). -/
inductive Reply where
  | data (bs : List Byte)
  | abort
  deriving DecidableEq, Repr

/-- The hub: bring-up, window M, mailbox, launches, recovery (17 R413 to R416; 18 R422 to R429). -/
structure Hub where
  phase : Nat := 1
  fail : Nat := 0
  kapbase : Word := 0
  cmd : Nat := 0
  arg0 : Word := 0
  arg1 : Word := 0
  busy : Bool := false
  ended : Option Nat := none             -- RESULT of a command that has done its work and has not completed
  result : Nat := 0
  refcnt : Nat := 0
  done : Nat := 0
  rcv : List (Nat × Nat × Nat) := []     -- station, partition, request
  meas : List (BitVec 512) := []
  evid : Tab Byte := []
  launches : List Launch := []
  lost : Nat := 0                        -- stations whose requests are still to be restored, bit n
  warm : Bool := false                   -- a warm reset has taken place since the last restart
  ckptEp : Nat := 0
  ckpt : Option Ckpt := none
  restores : List Restore := []
  reply : Option Reply := none           -- the completion of the last read of the host
  aer : Option Nat := none               -- the address in the request header that Advanced Error Reporting has logged last
  deriving DecidableEq, Repr, Inhabited

/-- An action of the outside world or a step the model takes next. -/
inductive Action where
  | event (i : Instr)
  | focus (core : Nat)
  | upset (core : Nat) (kind : Nat) (back : Nat)   -- `back`: how many bundles before the last one the failing bundle issued
  | flip (key : Nat) (bit : Nat)
  | warm                                           -- management resets the module (17 R403; 18 R429)
  deriving DecidableEq, Repr

/-- The module. -/
structure State where
  core : Core
  cix : Nat
  others : Tab Core
  clusters : Tab Cluster
  mem : List Host.Cell
  chk : Tab (Option Byte)                -- raw check bytes that differ from what the code gives (16 R393)
  handles : Tab (BitVec 256)             -- key (4 * station + partition) * 4096 + handle (09 R203)
  ptroot : Tab Word
  tlb : List TlbEnt
  walks : List Walk
  walkFault : List (Walk × Nat)          -- walks that ended in a fault, with its cause, until their access has raised it
  tlbflVa : Tab Word                     -- TLBFL.VA and TLBFL.ALL by core (09 R215)
  tlbflAll : Tab Bool
  tlbinv : List (Nat × Option Nat)       -- invalidations under way: partition, and the page unless all
  log : Log
  dom : List Host.Cell                   -- contents of the checkpoint domain, by the keys of the keep tier (17 R404)
  past : Tab (List Byte) := []           -- keep tier: values of a byte before writes that nothing has promised to have reached it (17 R403)
  durq : List DurWrite
  kv : Tab KvPart                        -- key 4 * station + partition
  mirq : List MirWork                    -- mirror work in KV order (17 R407)
  pfx : Tab (List PfxEnt)                -- key 8192 * station + set (13 R330)
  ring : Ring
  pond : Tab (Option PondSeg)            -- key 640 * station + slot (11 R260)
  xlast : Option XReply := none          -- the answer to the last request of a peer (18 R428)
  peers : Tab (BitVec 128)               -- peer table: ARG0 and ARG1 of the command that set an entry (18 R424, R427)
  dies : Tab Die
  dparts : Tab DiePart                   -- key 4 * station + partition
  bars : Tab BarSt                       -- key 3 * core + level (0 clus, 1 die, 2 mod)
  hub : Hub
  recdir : Tab RecPart                   -- key 4 * station + partition
  rdir : Tab RecEnt                      -- key 256 * (4 * station + partition) + request
  stroke : Nat
  free : Nat
  agenda : List (Nat × Action)             -- what the outside world does, each entry with the steps that pass before it
  deriving DecidableEq, Repr, Inhabited

/-- Why the machine stops. -/
inductive Fault where
  /-- Raised by an event of the outside world that names a core, a station, a segment or an address that does not exist; the
  model stops where no such event can happen: safe. -/
  | noSuchPlace
  deriving DecidableEq, Repr

/-- Why a step has no meaning. -/
inductive Refusal where
  /-- Raised by the dispatch of an instruction that has no meaning yet: safe. -/
  | notModelled (mnemonic : String)
  deriving DecidableEq, Repr

/-- The machine right after a module warm reset (17 R403), with the focus on core 0 of station 0. Registers and memory without a
reset value of the spec are 0 (log 1, 2, 3, 4). -/
def State.reset : State :=
  { core := {}, cix := 0, others := [], clusters := [(0, { owner := 1 })], mem := [], chk := [], handles := [], ptroot := [], tlb := []
    walks := [], walkFault := [], tlbflVa := [], tlbflAll := [], tlbinv := [], log := {}, dom := [], durq := [], kv := [], mirq := []
    pfx := [], ring := {}, pond := [], peers := [], dies := [], dparts := [], bars := [], hub := {}, recdir := [], rdir := []
    stroke := 0, free := 0, agenda := [] }

end Sys2Proof.Machine
end

