-- ==== Sys2Proof/Machine/Ops.lean ====
section
/-! DEFINITION. Named operations over the cores, time, memory and the log of the module. -/

namespace Sys2Proof.Machine

/-! ### Cores and places -/

/-- A core by its number, station * 48 + cluster * 8 + core. -/
def State.getCore (s : State) (k : Nat) : Core := if k = s.cix then s.core else Tab.get {} s.others k

/-- Replaces a core. -/
def State.setCore (s : State) (k : Nat) (c : Core) : State :=
  if k = s.cix then { s with core := c } else { s with others := Tab.set {} s.others k c }

def State.updCore (s : State) (k : Nat) (f : Core → Core) : State := s.setCore k (f (s.getCore k))

/-- Changes the core in focus, its context, its registers, its counters. -/
def State.mapCore (s : State) (f : Core → Core) : State := { s with core := f s.core }
def State.mapCtx (s : State) (f : Ctx → Ctx) : State := s.mapCore (fun c => { c with ctx := f c.ctx })
def State.mapFlow (s : State) (f : Flow → Flow) : State := s.mapCtx (fun c => { c with f := f c.f })
def State.mapRegs (s : State) (f : Regs → Regs) : State := s.mapCtx (fun c => { c with r := f c.r })
def State.mapFl (s : State) (f : Flight → Flight) : State := s.mapCtx (fun c => { c with fl := f c.fl })
def State.mapCsr (s : State) (f : CtxCsr → CtxCsr) : State := s.mapCtx (fun c => { c with csr := f c.csr })
def State.mapCtr (s : State) (f : Counters → Counters) : State := s.mapCore (fun c => { c with ctr := f c.ctr })
def State.mapTrap (s : State) (f : TrapCsr → TrapCsr) : State := s.mapCore (fun c => { c with trap := f c.trap })

/-- The focus moves to another core. -/
def State.focus (s : State) (k : Nat) : State :=
  if k = s.cix then s
  else { s with others := Tab.set {} (Tab.erase s.others k) s.cix s.core, core := Tab.get {} s.others k, cix := k }

/-- Runs an operation with the focus on another core. -/
def State.onCore (s : State) (k : Nat) (f : State → State) : State := (f (s.focus k)).focus s.cix

/-- Station, cluster within the die, core within the cluster, cluster within the module. -/
def stationOf (k : Nat) : Nat := k / 48
def clusOf (k : Nat) : Nat := k / 8 % 6
def coreOf (k : Nat) : Nat := k % 8
def clusterOf (k : Nat) : Nat := k / 8

def State.station (s : State) : Nat := stationOf s.cix
def State.cl (s : State) : Nat := clusterOf s.cix
def State.ctx (s : State) : Ctx := s.core.ctx
def State.part (s : State) : Nat := s.core.ctx.f.part

def State.cluster (s : State) : Cluster := Tab.get {} s.clusters s.cl
def State.updCluster (s : State) (k : Nat) (f : Cluster → Cluster) : State :=
  { s with clusters := Tab.upd {} s.clusters k f }

/-- A function on each context that a core keeps: the running one, those of the shadow bank, those that a launch context
interrupted, launch contexts that have ended, those in images in D and in the shadow slot that were not filled again (16 R394, R395). -/
def Core.eachCtx (c : Core) (f : Ctx → Ctx) : Core :=
  { c with
    ctx := f c.ctx
    launchCtx := c.launchCtx.map f
    endedCtx := c.endedCtx.map f
    shadow := { c.shadow with
      bank := c.shadow.bank.map f
      images := c.shadow.images.map (fun p => (p.1, p.2.map (fun q => if q.2 then (f q.1, true) else q))) } }

/-- What is in flight in a context: in its running stream, and held at each level (16 R379). -/
def Ctx.flights (x : Ctx) : List Flight := x.fl :: x.held.map (·.fl)

/-- Its operations with Q that have not come to their due cycle. -/
def Ctx.defers (x : Ctx) : List Defer := (x.flights.map (·.defer)).flatten

/-- Those contexts, each once. -/
def Core.contexts (c : Core) : List Ctx :=
  let all := c.ctx :: (c.launchCtx ++ c.endedCtx ++ c.shadow.bank.toList
    ++ c.shadow.images.filterMap (fun p => p.2.bind (fun q => if q.2 then some q.1 else none)))
  all.foldl (fun l x => if l.any (fun y => y.cid == x.cid) then l else l ++ [x]) []

/-- A function on the context that engine work belongs to. -/
def Core.onOwner (c : Core) (own : Nat) (f : Ctx → Ctx) : Core :=
  if c.ctx.cid = own then { c with ctx := f c.ctx } else c.eachCtx (fun x => if x.cid = own then f x else x)

/-- The context of an owner, as `onOwner` finds it. -/
def Core.ownerCtx (c : Core) (own : Nat) : Ctx :=
  if c.ctx.cid = own then c.ctx else (c.contexts.find? (fun x => x.cid == own)).getD {}

/-! ### Time and the freeze line (04 R80, R88 to R91) -/

/-- Draw of the engines of a core that run (15 R370): an ME operation fired, a vector operation in the pipe, a copy moving. -/
def Core.draw (c : Core) : Nat :=
  (if c.me.isEmpty then 0 else c.meR.held) + (if c.ccyc < c.vpLast then c.vpR.held else 0)
    + (if c.copies.any (fun k => k.begun && k.park.isNone) then c.ceR.held else 0)

/-- Draw of the engines of a cluster that run. -/
def State.draw (s : State) (cl : Nat) : Nat :=
  let cs := (List.range 8).map (fun k => s.getCore (8 * cl + k))
  let k := Tab.get {} s.clusters cl
  (cs.map Core.draw).foldl (· + ·) 0 + (if cs.any (fun c => c.atRun.any (fun a => !a.op.dae)) then k.paeR.held else 0)
    + (if cs.any (fun c => c.atRun.any (fun a => a.op.dae)) then k.daeR.held else 0)

/-- Core-clock cycles pass. The clock of the cluster follows the core that is furthest; ballast and waiting requests are counted in
the cycles by which it moves (15 R370, R371). -/
def State.tick (s : State) (n : Nat) : State :=
  let s1 := { s with core := { s.core with ccyc := s.core.ccyc + n } }
  let d := s1.core.ccyc - (Tab.get {} s.clusters s.cl).clk
  { s1 with log := { s1.log with since := s1.log.head }, clusters := Tab.upd {} s.clusters s.cl (fun c =>
      { c with clk := c.clk + d
               pow := { c.pow with gwaitCyc := c.pow.gwaitCyc + BitVec.ofNat 64 (d * c.pow.fifo.length)
                                   balDuc := c.pow.balDuc + BitVec.ofNat 64 (d * (c.pow.lvl - s.draw s.cl)) } }) }

/-- One cycle in which the freeze line is asserted for a cause of class `cls` (04 R88 to R91). -/
def State.freeze (s : State) (cls : FrzClass) : State :=
  let z := s.core.frz
  let s1 := s.mapCore (fun c =>
    { c with frz := { z with line := true, run := if cls = .wait then 0 else z.run + 1, cls := cls, await := none }
             ctr := { c.ctr with frzN := if z.line then c.ctr.frzN else c.ctr.frzN + 1, frzCyc := c.ctr.frzCyc + 1 } })
  s1.tick 1

/-- What counters have grown by. -/
def Counters.less (a b : Counters) : Counters :=
  { frzN := a.frzN - b.frzN, frzCyc := a.frzCyc - b.frzCyc, slipN := a.slipN - b.slipN, portN := a.portN - b.portN, wakeN := a.wakeN - b.wakeN
    sqN := a.sqN - b.sqN, issN := a.issN - b.issN, tknN := a.tknN - b.tknN, sdeN := a.sdeN - b.sdeN, resN := a.resN - b.resN
    ueN := a.ueN - b.ueN, cerrN := a.cerrN - b.cerrN, replayN := a.replayN - b.replayN, uncontN := a.uncontN - b.uncontN
    trapsN := a.trapsN - b.trapsN, rpwN := a.rpwN - b.rpwN, mirwN := a.mirwN - b.mirwN }

/-- A frozen cycle of the next bundle: what it has counted is that bundle's own (05 R119). -/
def State.ownCounts (t s : State) : State :=
  t.mapCore (fun c => { c with frz := { c.frz with own := s.core.frz.own.less (s.core.ctr.less c.ctr) } })

/-- The line drops. -/
def State.thaw (s : State) : State :=
  s.mapCore (fun c => { c with frz := { line := false }, wait := none })

/-- Another free value of the next steps. -/
def State.fresh (s : State) : State := { s with free := s.free + 1 }

/-! ### The violation log (01 R25, R26) -/

/-- What an entry says. -/
structure Violation where
  cause : Nat
  addr : Nat
  plane : Nat := 0
  part : Option Nat := none
  site : Nat := 32
  core : Option Nat := none
  detail : Nat := 0
  deriving DecidableEq, Repr, Inhabited

/-- The 32 bytes of an entry (01 R25). -/
def Violation.bits (v : Violation) (seq stroke : Nat) : BitVec 256 :=
  BitVec.ofNat 256 (v.addr % 2 ^ 64 + put v.cause 64 + put v.plane 72 + put (v.part.getD 0 % 4) 74 + put (bit v.part.isSome) 76
    + put v.site 77 + put (match v.core with | some k => clusOf k | none => 7) 83
    + put (match v.core with | some k => coreOf k | none => 0) 86 + put (bit v.core.isSome) 89
    + put (seq % 2 ^ 32) 96 + put (stroke % 2 ^ 64) 128 + put (v.detail % 2 ^ 64) 192)

/-- Where an entry stands among those of one ring cycle: the hub first, then stations, then clusters and cores (01 R27). -/
def entryPlace (b : BitVec 256) : Nat :=
  let site := fld b 77 6
  if site = 32 then 0 else 64 * (site + 1) + (if b.getLsbD 89 then 1 + 8 * fld b 83 3 + fld b 86 3 else 0)

/-- An entry with another sequence number. -/
def restamp (b : BitVec 256) (seq : Nat) : BitVec 256 := (b &&& ~~~(0xFFFFFFFF#256 <<< 96)) ||| BitVec.ofNat 256 (put (seq % 2 ^ 32) 96)

/-- An entry takes its place among those of the same ring cycle, whose numbers are consecutive (01 R27). -/
def Log.put (l : Log) (v : Violation) (stroke : Nat) : Log :=
  let ent := fun (i : Nat) => Tab.get 0 l.ents (i % 4096)
  let new := v.bits l.head stroke
  let later := ((List.range (l.head - l.since)).map (l.since + ·)).filter (fun i => decide (entryPlace new < entryPlace (ent i)))
  let n := l.head - later.length
  let moved := later.map (fun i => ((i + 1) % 4096, restamp (ent i) (i + 1)))
  { l with head := l.head + 1, ents := (moved ++ [(n % 4096, restamp new n)]).foldl (fun t e => Tab.set 0 t e.1 e.2) l.ents }

/-- An entry is written, or counted where all 4096 are unread (01 R25). -/
def State.logV (s : State) (v : Violation) : State :=
  if s.log.head - s.log.tail ≥ 4096 then { s with log := { s.log with ovf := s.log.ovf + 1 } }
  else { s with log := s.log.put v s.stroke }

/-! ### Memory -/

/-- Width of the offset part of a byte key: a key is region * 2^56 + offset. -/
def regionSize : Nat := 2 ^ 56

/-- Regions: the four buffers of each core, D, K and S of each station, G, H, the page headers of each station. -/
def rBuf (core sp : Nat) : Nat := (4 * core + sp) * regionSize
def rD (station : Nat) : Nat := (8192 + station) * regionSize
def rK (station : Nat) : Nat := (8224 + station) * regionSize
def rS (station : Nat) : Nat := (8256 + station) * regionSize
def rG : Nat := 8288 * regionSize
def rH : Nat := 8289 * regionSize

/-- The body of a segment. -/
def rSeg (sid : Nat) : Nat := (16384 + sid) * regionSize

/-- The shadow storage of a core: its slot (16 R395). -/
def rSh (core : Nat) : Nat := (12288 + core) * regionSize

/-- What a byte that nothing has written reads as: 0 (log 1). -/
def unlisted : Byte := 0

/-- The canonical form of memory: addresses strictly rising, and no entry equal to what an unlisted address reads as. -/
def Memory.wf (m : List Host.Cell) : Bool := Tab.wf unlisted m

/-- One byte of memory. -/
def State.rd1 (s : State) (k : Nat) : Byte := Tab.get unlisted s.mem k

/-- The bytes at keys. -/
def State.rdKeys (s : State) (ks : List Nat) : List Byte := ks.map s.rd1

/-- `n` consecutive keys. -/
def keysFrom (k n : Nat) : List Nat := (List.range n).map (k + ·)

/-- The `n` bytes from a key. -/
def State.rdN (s : State) (k n : Nat) : List Byte := s.rdKeys (keysFrom k n)

/-- A little-endian number of `n` bytes. -/
def State.rdLE (s : State) (k n : Nat) : Nat := leNat (s.rdN k n)

/-- A key of the keep tier. -/
def inKeep (k : Nat) : Bool := decide (rG ≤ k) && decide (k < rG + regionSize)

/-- One byte written; the check bits of its word are computed afresh (16 R402). Of a byte of the keep tier it is remembered what it held, since
a reset may find that again (17 R403). -/
def State.wr1 (s : State) (k : Nat) (b : Byte) : State :=
  { s with mem := Tab.set unlisted s.mem k b, chk := Tab.erase s.chk (k / 8)
           past := if inKeep k then Tab.upd [] s.past k (s.rd1 k :: ·) else s.past }

/-- Bytes written at keys, in order. -/
def State.wrKeys (s : State) : List (Nat × Byte) → State
  | [] => s
  | (k, b) :: t => (s.wr1 k b).wrKeys t

/-- The little-endian bytes of a number. -/
def leBytes (v : Nat) : Nat → List Byte
  | 0 => []
  | n + 1 => BitVec.ofNat 8 v :: leBytes (v / 256) n

/-- Consecutive bytes written. -/
def State.wrN (s : State) (k : Nat) (bs : List Byte) : State := s.wrKeys (List.zip (keysFrom k bs.length) bs)

/-- A number written in `n` bytes. -/
def State.wrLE (s : State) (k n v : Nat) : State := s.wrN k (leBytes v n)

/-! ### Check bits (16 R393) -/

/-- Positions 1 to 71 that hold data bits, in ascending order. -/
def eccPos : List Nat := (List.range 72).filter (fun p => p != 0 && p != 1 && p != 2 && p != 4 && p != 8 && p != 16 && p != 32 && p != 64)

/-- XOR of the positions of the data bits that are set. -/
def eccSyn (d : Nat) : Nat :=
  (eccPos.mapIdx (fun i p => if tbit d i then p else 0)).foldl Nat.xor 0

/-- Parity of the low `n` bits. -/
def parity (v n : Nat) : Bool := ((List.range n).filter (fun i => tbit v i)).length % 2 == 1

/-- The check byte of 8 data bytes: c0 to c6, and c7 the parity of all 71 positions (16 R393). -/
def eccByte (d : Nat) : Nat :=
  let c := eccSyn d
  c + put (bit (parity d 64 != parity c 7)) 7

/-- The check byte a word holds. -/
def State.chkOf (s : State) (w : Nat) : Nat :=
  match Tab.get none s.chk w with
  | some b => b.toNat
  | none => eccByte (s.rdLE (8 * w) 8)

/-- The outcome of reading a word (16 R393). -/
inductive Ecc where
  | clean
  | fixCheck                       -- c7 or another check bit in error: corrected
  | fixData (i : Nat)              -- data bit i corrected
  | bad (syn : Nat) (par : Bool)   -- uncorrectable
  deriving DecidableEq, Repr

/-- The test of one word. -/
def eccTest (d c : Nat) : Ecc :=
  let s := Nat.xor (eccSyn d) (c % 128)
  let e := parity d 64 != parity c 8
  if s = 0 && !e then .clean
  else if s = 0 && e then .fixCheck
  else if e && s ≤ 71 then
    match eccPos.findIdx? (· == s) with
    | some i => .fixData i
    | none => .fixCheck
  else .bad s e

def State.eccWord (s : State) (w : Nat) : Ecc :=
  match Tab.get none s.chk w with
  | none => .clean
  | some c => eccTest (s.rdLE (8 * w) 8) c.toNat

/-- Bits flipped in a number. -/
def flipBit (v i : Nat) : Nat := if tbit v i then v - 2 ^ i else v + 2 ^ i

/-- The words of which some byte is touched. -/
def wordsOf (ks : List Nat) : List Nat := (ks.map (· / 8)).eraseDups

/-- Reading words corrects what can be corrected in place; the first uncorrectable word is reported (16 R393). -/
def State.scrub (s : State) : List Nat → State × Option (Nat × Nat × Bool)
  | [] => (s, none)
  | w :: ws =>
    match s.eccWord w with
    | .clean => s.scrub ws
    | .fixCheck =>
      State.scrub ({ s with chk := Tab.erase s.chk w }.mapCtr (fun c => { c with cerrN := c.cerrN + 1 })) ws
    | .fixData i =>
      State.scrub ((s.wrLE (8 * w) 8 (flipBit (s.rdLE (8 * w) 8) i)).mapCtr (fun c => { c with cerrN := c.cerrN + 1 })) ws
    | .bad y e => (s.mapCtr (fun c => { c with ueN := c.ueN + 1 }), some (w, y, e))

/-- An error among those that are to be contained: of one context the earliest phase counts, whose containment cancels the later ones;
errors of several contexts are contained in turn (16 R390). -/
def joinErr (e : ErrCause) (l : List ErrCause) : List ErrCause :=
  if l.any (fun f => f.owner == e.owner) then l.map (fun f => if f.owner = e.owner ∧ e.phase < f.phase then e else f) else l ++ [e]

/-- An error of a core is to be contained (16 R387, R390, R393). -/
def Core.noteErr (c : Core) (e : ErrCause) : Core :=
  let l := joinErr e (c.err.toList ++ c.errq)
  { c with err := l.head?, errq := l.tail }

/-- The error in hand is done with: the next one comes up. -/
def Core.nextErr (c : Core) : Core := { c with err := c.errq.head?, errq := c.errq.tail }

def State.raiseErr (s : State) (e : ErrCause) : State := s.mapCore (fun c => c.noteErr e)

/-- A read of bytes by an agent of the core in focus for a context: corrections made, an uncorrectable word reported with its phase and its
handle address. -/
def State.consumeFor (s : State) (own : Nat) (ks : List Nat) (space ha phase : Nat) : State :=
  if s.chk.isEmpty then s
  else
  match s.scrub (wordsOf ks) with
  | (s1, none) => s1
  | (s1, some (w, y, e)) =>
    let off := 8 * w - (ks.headD 0) / 8 * 8
    s1.raiseErr { kind := 4, space := space, ha := ha / 8 * 8 + off, syn := y, par := e, phase := phase, key := 8 * w, owner := own }

/-- A read for the running stream. -/
def State.consume (s : State) (ks : List Nat) (space ha phase : Nat) : State := s.consumeFor s.core.ctx.cid ks space ha phase

/-- The first uncorrectable word that a read meets, as the key of its bytes. -/
def State.badWord (s : State) (ks : List Nat) : Option Nat := if s.chk.isEmpty then none else (s.scrub (wordsOf ks)).2.map (fun x => 8 * x.1)

/-- A read has met an uncorrectable word, which UE.N counts (16 R393). -/
def State.fails (s t : State) : Bool := s.core.ctr.ueN != t.core.ctr.ueN

/-! ### Timelines (10 R237) -/

/-- The numbers done beyond the value join it while they follow on. -/
def Timeline.settle (t : Timeline) : Nat → Timeline
  | 0 => t
  | f + 1 =>
    if t.done.contains (t.value + 1) then Timeline.settle { t with value := t.value + 1, done := t.done.erase (t.value + 1) } f else t

/-- A number completes; `bad` where it was abandoned or discarded (10 R255). -/
def Timeline.finish (t : Timeline) (n : Nat) (bad : Bool) : Timeline :=
  if n ≤ t.value then t
  else
    let t1 := { t with done := n :: t.done, bad := if bad then n :: t.bad else t.bad }
    t1.settle t1.done.length

/-- The range of a publication includes a number that was abandoned or discarded (10 R255). -/
def Timeline.discards (t : Timeline) (p : Pub) : Bool := t.bad.any (fun n => decide (p.low < n) && decide (n ≤ p.val.toNat))

/-- The publications that are not discarded. -/
def Timeline.livePubs (t : Timeline) : List Pub := t.pubs.filter (fun p => !t.discards p)

/-- The next number (10 R237). -/
def Timeline.take (t : Timeline) : Timeline := { t with issued := t.issued + 1 }

/-! ### Dies and partitions (spec 12, 14) -/

def State.die (s : State) (st : Nat) : Die := Tab.get {} s.dies st
def State.updDie (s : State) (st : Nat) (f : Die → Die) : State := { s with dies := Tab.upd {} s.dies st f }
def State.dpart (s : State) (st part : Nat) : DiePart := Tab.get {} s.dparts (4 * st + part)
def State.updDpart (s : State) (st part : Nat) (f : DiePart → DiePart) : State :=
  { s with dparts := Tab.upd {} s.dparts (4 * st + part) f }

/-- A request-table entry. -/
def Die.req (d : Die) (r : Nat) : Req := Tab.get {} d.reqs r
def Die.updReq (d : Die) (r : Nat) (f : Req → Req) : Die := { d with reqs := Tab.upd {} d.reqs r f }

/-- A group, where a partition owns it. -/
def Die.group (d : Die) (g : Nat) : Group := Tab.get {} d.groups g
def Die.updGroup (d : Die) (g : Nat) (f : Group → Group) : Die := { d with groups := Tab.upd {} d.groups g f }

/-- The group a request is a member of (14 R354): one that its partition has opened. -/
def Die.groupOf (d : Die) (r : Nat) : Option Nat :=
  let e := d.req r
  if e.state ≠ 0 && decide (e.sibg < 64) && (d.group e.sibg).state != 0 && (d.group e.sibg).part == e.part then some e.sibg else none

/-- Work of a member, told by its index and its admission: kept with it while its group is OPEN, added to the group's counters once it is
cancelled, also where its entry has been released or taken anew since (14 R359). -/
def Die.work (d : Die) (r uid : Nat) (mem : Req → Req) (grp : Group → Group) : Die :=
  match if (d.req r).uid = uid then d.groupOf r else none with
  | some g =>
    if (d.group g).state = 1 then d.updReq r mem
    else if (d.group g).state = 2 && (d.req r).state = 5 then d.updGroup g grp
    else d
  | none =>
    match (List.range 64).find? (fun g => (d.group g).canc.contains uid) with
    | some g => d.updGroup g grp
    | none => d

/-- An entry is FREE again; a member that was cancelled is remembered by its group. -/
def Die.releaseReq (d : Die) (r : Nat) : Die :=
  let d1 := match d.groupOf r with
    | some g => if (d.req r).state = 5 then d.updGroup g (fun x => { x with canc := (d.req r).uid :: x.canc }) else d
    | none => d
  d1.updReq r (fun e => { e with state := 0 })

/-- An entry is taken anew, by another admission. -/
def Die.takeReq (d : Die) (r : Nat) (e : Req) : Die := { d with nextUid := d.nextUid + 1 }.updReq r (fun _ => { e with uid := d.nextUid })

/-- Cycles of an ME operation that a tile task issued for a request. -/
def State.countMe (s : State) (st : Nat) (rq : Option (Nat × Nat)) (n : Nat) : State :=
  match rq with
  | some (r, uid) => s.updDie st (fun d => d.work r uid (fun e => { e with cMe := e.cMe + n }) (fun g => { g with me := g.me + n }))
  | none => s

/-! ### The check core (16 R385, R386) -/

/-- Bundles the check core has executed. -/
def Core.checked (c : Core) : Nat := c.bundles - c.checkLag

/-- Compared commands leave for their fronts, which they reach in the next cycle (08 R184). -/
def Core.release (c : Core) : Core :=
  { c with ctx := { c.ctx with cmds := c.ctx.cmds.map (fun m =>
      if m.sent.isNone && decide (m.bundle ≤ c.checked) then { m with sent := some c.ccyc } else m) } }

/-- The check core executes every bundle it lags (16 R385). -/
def State.catchUp (s : State) : State := s.mapCore (fun c => Core.release { c with checkLag := 0 })

/-! ### Taking a trap and returning from it (16 R376 to R384) -/

/-- TRAP.CAUSE (16 R383). -/
def TrapInfo.causeWord (t : TrapInfo) (ppriv : Nat) : Word :=
  BitVec.ofNat 64 (t.code + put (ppriv % 2) 8 + put t.part 9 + put t.queue 12 + put (bit t.defer) 14)

/-- Fault code of a queue's stop. -/
def stopCode (o : Option Stop) : Nat := match o with
  | some s => s.code
  | none => 0

/-- The 256 bits of a queue in the cut (16 R382): `last` is the last number issued to it. -/
def cutQueue (t : Timeline) (last mpc : Nat) (stop : Option Stop) (nq : Nat) : Nat :=
  last % 2 ^ 64 + put (t.value % 2 ^ 64) 64 + put mpc 128 + put (bit stop.isSome) 192 + put (stopCode stop) 200
    + put (nq % 256) 208

/-- The cut record (16 R382), from the trap CSRs as they stand and the lag of the check core at step 1. -/
def cutOf (c : Core) (trap : TrapCsr) (pc stroke lag ncmd : Nat) : BitVec 2048 :=
  let x := c.ctx
  let own := c.copies.filter (fun k => k.owner == x.cid && !k.begun && k.park.isNone)
  BitVec.ofNat 2048 (pc % 2 ^ 64 + put trap.cause.toNat 64 + put trap.detail.toNat 128 + put trap.addr.toNat 192
    + put (stroke % 2 ^ 64) 256 + put c.ctr.issN.toNat 320
    + put (cutQueue x.tlMe x.tlMe.issued x.mpc x.meStop x.meq.length) 512
    + put (cutQueue x.tlCe x.tlCe.issued 0 x.ceStop own.length) 768
    + put (cutQueue x.tlAt x.paeLast x.paeMpc x.paeStop ((x.atq.filter (fun a => !a.dae)).length)) 1024
    + put (cutQueue x.tlAt x.daeLast x.daeMpc x.daeStop ((x.atq.filter (fun a => a.dae)).length)) 1280
    + put lag 1536 + put (ncmd % 16) 1540)

/-- Commands between the check core and the fronts. -/
def Ctx.waiting (x : Ctx) : Nat := (x.cmds.filter (fun m => m.sent.isSome)).length

/-- The walks of the core in focus, and the faults that its walks found, are done with: its next access walks afresh (09 R212). -/
def State.endWalks (s : State) : State :=
  let mine := fun (w : Walk) => w.core == s.cix && w.copy.isNone && !w.ahead
  { s with walks := s.walks.filter (fun w => !mine w), walkFault := s.walkFault.filter (fun w => !mine w.1) }

/-- Taking a trap (16 R378 to R380): the check core catches up, results in flight are held, the cut and the trap CSRs are
written, the rotation is put aside, and the handler at TVEC starts at privilege S 24 cycles later. A trap in a handler, or one
that needs a fifth level of held writes, writes its cut and halts the core. -/
def State.takeTrap (s : State) (t : TrapInfo) : State :=
  let c := s.core
  let f := c.ctx.f
  let lag := c.checkLag
  let ncmd := min 8 c.ctx.waiting
  let s1 := s.catchUp.endWalks
  let csr := { c.trap with
    cause := t.causeWord f.level, detail := BitVec.ofNat 64 t.detail, addr := BitVec.ofNat 64 t.addr
    pc := BitVec.ofNat 64 (f.pc % 2 ^ 48 + put f.codeh.toNat 48), rot := BitVec.ofNat 64 (f.rotlo + put f.rotb 8) }
  let cut := cutOf c csr f.pc s.stroke lag ncmd
  if f.act || 4 ≤ c.ctx.held.length then
    s1.mapCore (fun c =>
      { c with trap := csr, halted := true, wait := none, offer := none, frz := {},
               ctx := { c.ctx with cut := cut, mpc := 0 }, ctr := { c.ctr with trapsN := c.ctr.trapsN + 1 } })
  else
    let s2 := s1.mapCore (fun c =>
      { c with
        trap := csr
        wait := none
        offer := none
        frz := {}
        ctr := { c.ctr with trapsN := c.ctr.trapsN + 1 }
        ctx := { c.ctx with
          cut := cut
          mpc := 0
          stepArmed := false
          stepAt := none
          held := { fl := c.ctx.fl, icyc := c.icyc, skip := f.skip } :: c.ctx.held
          fl := {}
          f := { f with rotlo := 16, rotb := 0, codeh := f.tvec.extractLsb' 48 12, level := 1, act := true, pc := fld f.tvec 0 48,
                        highPc := 0, skip := none, idle := false } } })
    s2.mapCore (fun c => { c with gap := 24, gapIss := false })

/-- Cycles by which what was held moves on. -/
def Flight.shift (f : Flight) (from_ till : Nat) : Flight :=
  let m := fun (t : Nat) => t + till - from_
  { pend := f.pend.map (fun p => { p with iat := m p.iat, due := m p.due })
    trans := f.trans.map (fun p => { p with iat := m p.iat, due := m p.due })
    defer := f.defer.map (fun p => { p with iat := m p.iat, due := m p.due })
    vp := f.vp.map (fun p => { p with iat := m p.iat, due := m p.due })
    das := f.das.map (fun p => { p with iat := m p.iat, due := m p.due }) }

/-- Two flights together. -/
def Flight.join (f g : Flight) : Flight :=
  { pend := f.pend ++ g.pend, trans := f.trans ++ g.trans, defer := f.defer ++ g.defer, vp := f.vp ++ g.vp, das := f.das ++ g.das,
    lately := f.lately }

/-- The return of `eret` (16 R400, steps 1, 2, 4 and 5; R379): rotation, code handle, privilege and pc are restored, the handler
ends, and the writes held by its trap run on from the cycle of the resumed bundle, three issue cycles after `eret`. -/
def State.trapReturn (s : State) : State :=
  let c := s.core
  let f := c.ctx.f
  let at_ := c.icyc + 3
  let (fl, skip, rest) := match c.ctx.held with
    | [] => (c.ctx.fl, none, [])
    | h :: hs =>
      (c.ctx.fl.join (h.fl.shift h.icyc at_), h.skip, hs)
  let lo := min 16 (fld c.trap.rot 0 5)
  s.mapCtx (fun x =>
    { x with held := rest, fl := fl, stepArmed := f.step
             f := { f with rotlo := lo, rotb := if lo = 16 then 0 else fld c.trap.rot 8 4 % (16 - lo), codeh := c.trap.pc.extractLsb' 48 12,
                           level := if c.trap.cause.getLsbD 8 then 1 else 0, act := false, pc := fld c.trap.pc 0 48 / 32 * 32,
                           skip := skip } })

/-- Priority class of a pending boundary cause (16 R377). -/
def TrapInfo.rank (t : TrapInfo) : Nat :=
  if t.code = 0x1B then 0
  else if t.defer then 1
  else if t.code = 0x1C || t.code = 0x1D then 2
  else if t.code = 0x20 then 3 + t.queue
  else if t.code = 0x21 then 7
  else if t.code = 0x22 then 8
  else 0

/-- The pending cause that the next boundary takes: causes 5 to 7 of R377 wait while a handler runs (16 R380). -/
def Ctx.topCause (x : Ctx) : Option TrapInfo :=
  let ok := x.pending.filter (fun t => !x.f.act || decide (t.rank < 3))
  ok.foldl (fun b t => match b with
    | none => some t
    | some u => if t.rank < u.rank then some t else b) none

/-- A boundary cause becomes pending. -/
def State.pend (s : State) (t : TrapInfo) : State := s.mapCtx (fun x => { x with pending := x.pending ++ [t] })

/-- The pending cause with the highest priority is taken, if there is one. -/
def State.boundary (s : State) : State :=
  match s.core.ctx.topCause with
  | none => s
  | some t => (s.mapCtx (fun x => { x with pending := x.pending.erase t })).takeTrap t

end Sys2Proof.Machine
end

