-- ==== Sys2Proof/Machine/Operands.lean ====
section
/-! DEFINITION. Operands: register reads and results in flight (spec 04 R81 to R87, 05 R106 to R114), and operand addresses (02 R40). -/

namespace Sys2Proof.Machine

/-! ### Source registers -/

/-- The scalar sources of an operation that may have to keep them past its issue, in the order in which its meaning names them. -/
def srcs : Instr → List Reg
  | .ld _ _ b .. => [b]
  | .st _ r b .. => [b, r]
  | .vld m | .vst m | .vldVer m => [m.base]
  | .amo _ _ _ _ b y .. => [b, y]
  | .cas _ _ _ b y z .. => [b, y, z]
  | .boArr _ b y .. => [b, y]
  | .boWait _ b y e .. => [b, y, e]
  | .hset a b => [a, b]
  | .hinv a => [a]
  | .dstc c b y .. => [b, y, c]
  | .dldc _ b .. => [b]
  | .div _ a b | .divn _ a b | .rem _ a b | .remn _ a b => [a, b]
  | .cbSet _ a => [a]
  | .cbWait _ _ _ _ b => [b]
  | .mm _ _ a b c => [a, b, c]
  | .mtLd _ _ a | .ftLd _ _ a | .epLd _ _ a => [a]
  | .cp _ _ _ a b c => [a, b, c]
  | .cpM _ _ _ _ _ a b c => [a, b, c]
  | .cp2d _ _ _ _ a b c | .gat _ _ _ _ a b c | .sca _ _ _ _ a b c => [a, b, c]
  | .cpRes _ a | .cpResDrop _ a => [a]
  | .tlWait _ _ a b => [a, b]
  | .tlPub _ a b => [a, b]
  | .atMask _ a => [a]
  | .kvApp _ a .. => [a]
  | .kvLk _ a b _ => [a, b]
  | .kvAllocFork _ a | .kvRef _ a | .kvFree _ a | .kvFreeSeq _ a => [a]
  | .kvCow _ a b _ | .kvCowSpill _ a b _ => [a, b]
  | .kvLenCommit _ a | .kvLenRestore _ a => [a]
  | .pfxIns _ a b .. | .pfxFind _ a b .. => [a, b]
  | .pfxFindDrop _ b _ => [b]
  | .arrWait _ b _ => [b]
  | .segPin _ a b => [a, b]
  | .segUnpin a => [a]
  | .segHold _ a b _ => [a, b]
  | .spawn _ a => [a]
  | .feSetFull a | .feSetEmpty a => [a]
  | .rqNextAdv _ a b | .rqNextDone _ a b | .rqNextSusp _ a b | .rqNextResume _ a b | .rqNextRelease _ a b => [a, b]
  | .cmpApp _ a b => [a, b]
  | .cmpTake _ a => [a]
  | .termWait _ b => [b]
  | .bar _ _ b => [b]
  | .dmSet _ a => [a]
  | .bltOpen _ a b | .bltPost _ a b => [a, b]
  | .bltRead _ a _ | .bltClose _ a => [a]
  | .govRes _ a | .govBallast _ a | .opReq _ a => [a]
  | .ctxSpill _ a | .ctxFill _ a => [a]
  | _ => []

/-- The slot an operation stands in (02 R35 to R46). -/
def slotOf : Instr → Slot
  | .brZ .. | .brNz .. | .brpAny .. | .brpAll .. | .brpNone .. | .jmp .. | .call .. | .jmpr .. | .callr .. | .ret | .loopSet ..
  | .loopSeti .. | .loopEnd .. | .tsbAny .. | .tsbNone .. | .ipf .. | .phmark .. | .trap .. | .brk .. | .idle | .eret
  | .csrr .. | .csrw .. | .csrs .. | .csrc .. => .b
  | .add .. | .sub .. | .mul .. | .mulh .. | .mulhn .. | .div .. | .divn .. | .rem .. | .remn .. | .and .. | .or .. | .xor ..
  | .andn .. | .shl .. | .shr .. | .sar .. | .rol .. | .min .. | .max .. | .minn .. | .maxn .. | .seq .. | .sne .. | .slt ..
  | .sltn .. | .sle .. | .slen .. | .clz .. | .ctz .. | .popc .. | .bswap .. | .mov .. | .addi .. | .andi .. | .ori .. | .xori ..
  | .shli .. | .shri .. | .sari .. | .slti .. | .sltni .. | .seqi .. | .muli .. | .li .. | .lih .. | .sel .. | .ld .. | .st ..
  | .vld .. | .vst .. | .vldVer .. | .amo .. | .cas .. | .boArr .. | .boWait .. | .fence .. | .relRec | .hset .. | .hinv ..
  | .dstc .. | .dldc .. => .m
  | i => if (vUse i).isSome then .v else .e

/-- Rows and columns of the block of a vector load or store, in transfer order. -/
def vmPlaces (m : VMem) : List (Nat × Nat) :=
  ((List.range (m.h.toNat + 1)).map (fun r => (List.range (m.w.toNat + 1)).map (fun j => (r, j)))).flatten

/-- Destination registers of an operation of slot M or E, in the order of the serial numbers of an access: those of a block, or one scalar. -/
def leaseDests (i : Instr) : List (Bool × Nat) :=
  match i with
  | .vld m | .vldVer m => (vmPlaces m).map (fun p => (true, m.v.toNat + 16 * p.1 + p.2))
  | i => match scalarDest i with
    | some d => [(false, d.toNat)]
    | none => []

/-! ### Physical registers (05 R109) -/

/-- The physical row of a logical row. -/
def physRow (f : Flow) (lr : Nat) : Nat :=
  if f.rotlo ≤ lr then f.rotlo + (lr - f.rotlo + f.rotb) % (16 - f.rotlo) else lr

/-- The physical vector register of a logical one. -/
def physV (f : Flow) (v : Nat) : Nat := 16 * physRow f (v / 16) + v % 16

/-- The physical predicate of a logical one. -/
def physP (f : Flow) (q : Nat) : Nat := if 32 ≤ q then 32 + (q - 32 + f.rotb) % 32 else q

/-! ### Reads (04 R81, R84 to R86) -/

/-- The registers that an operation of slot M or E writes, as the rotation at its issue maps them (R82). -/
def destsAt (f : Flow) (i : Instr) : List Dst := (leaseDests i).map (fun r => if r.1 then ⟨.v, physV f r.2⟩ else ⟨.s, r.2⟩)

/-- A transient operation with Q that has not come to its due cycle, and since whose issue nothing else has landed in a register (R85). -/
def Defer.hides (d : Defer) (r : Dst) (c : Nat) : Bool :=
  d.x && decide (d.iat < c) && d.dests.contains r && !d.landed.any (fun p => p.1 == r)

/-- The value a source read of `d` returns, given what the file holds. `k` tells apart the reads of one step. -/
def State.readDst (s : State) (k : Nat) (d : Dst) (file : Vec) : Vec :=
  let fl := s.core.ctx.fl
  let c := s.core.icyc
  match fl.trans.find? (fun t => t.dst == d && decide (t.due ≤ c) && decide (c ≤ t.due + 2)) with
  | some t => t.val
  | none =>
    if fl.trans.any (fun t => t.dst == d && t.poison) then Config.freeVec s.free k
    else if fl.pend.any (fun p => p.dst == d && decide (p.iat < c) && (if p.x then !p.clean else !p.q)) then Config.freeVec s.free k
    else if fl.defer.any (fun o => o.hides d c) then Config.freeVec s.free k
    else file

/-- A scalar source: s0 reads zero (05 R106). -/
def State.rs (s : State) (k : Nat) (r : Reg) : Word :=
  if r = 0 then 0
  else (s.readDst k ⟨.s, r.toNat⟩ ((Tab.get 0 s.core.ctx.r.s r.toNat).setWidth 512)).setWidth 64

/-- Tag of source `k` of a slot, so that two reads of one step have different free values. -/
def srcTag (sl : Slot) (k : Nat) : Nat := 16 * sl.ix + k

/-- Source `k` of an operation: as read now, or as captured at its issue. -/
def State.arg (s : State) (i : Instr) (k : Nat) : Word :=
  match s.core.iss.cap with
  | some l => l.getD k 0
  | none => s.rs (srcTag (slotOf i) k) ((srcs i).getD k 0)

/-- All sources of an operation. -/
def State.args (s : State) (i : Instr) : List Word := (List.range (srcs i).length).map (s.arg i)

/-- A predicate by its logical number: p0 reads all ones (05 R106). -/
def State.rp (s : State) (k : Nat) (q : Nat) : Word :=
  if q = 0 then BitVec.allOnes 64
  else
    let n := physP s.core.ctx.f q
    (s.readDst k ⟨.p, n⟩ ((Tab.get 0 s.core.ctx.r.p n).setWidth 512)).setWidth 64

/-- A vector register by its logical number; a dead register reads as an undefined value (05 R113). -/
def State.rv (s : State) (k : Nat) (v : Nat) : Vec :=
  let n := physV s.core.ctx.f v
  let d := s.readDst k ⟨.v, n⟩ (Tab.get 0 s.core.ctx.r.v n)
  if Tab.get false s.core.ctx.r.live n || s.core.ctx.fl.trans.any (fun t => t.dst == ⟨.v, n⟩) then d
  else Config.freeVec s.free k

/-- The logical registers of a block, row by row (05 R107). -/
def blockRegs (v : BitVec 8) (h w : Nat) : List (List Nat) :=
  (List.range h).map (fun r => (List.range w).map (fun c => v.toNat + 16 * r + c))

/-- A block's values. -/
def State.rblock (s : State) (k : Nat) (v : BitVec 8) (h w : Nat) : List (List Vec) :=
  (blockRegs v h w).map (·.map (fun n => s.rv (k * 1024 + n) n))

/-! ### Results -/

/-- A bank wakes at a write (05 R111, R112); true where it was not FULL. -/
def wakeBank (b : Bank) (now cycles : Nat) : Bank × Bool :=
  match b with
  | .full => (.full, false)
  | .waking t => if t ≤ now then (.full, false) else (.waking t, false)
  | _ => (.waking (now + cycles), true)

/-- The state a bank is in at a cycle. -/
def Bank.at (b : Bank) (now : Nat) : Bank :=
  match b with
  | .waking t => if t ≤ now then .full else .waking t
  | b => b

/-- A vector register written: the bank wakes, an OFF bank is zeroed and all its registers become live (05 R111 to R113). -/
def Regs.putV (r : Regs) (n : Nat) (val mask : Vec) (now : Nat) : Regs × Bool :=
  let row := n / 16
  let b := Tab.get .off r.bank row
  let (b', woke) := wakeBank b now 8
  let r1 :=
    if b = .off then
      { r with v := r.v.keep (fun k => k / 16 != row),
               live := (List.range 16).foldl (fun t c => Tab.set false t (16 * row + c) true) r.live }
    else r
  let old := Tab.get 0 r1.v n
  ({ r1 with v := Tab.set 0 r1.v n ((old &&& ~~~mask) ||| (val &&& mask)), live := Tab.set false r1.live n true,
             bank := Tab.set .off r1.bank row b' }, woke)

/-- A landed value put into a register file (04 R81); writes to s0 and p0 are discarded (05 R106). -/
def State.putFile (s : State) (d : Dst) (val mask : Vec) : State :=
  match d.file with
  | .s => if d.reg = 0 then s else s.mapRegs (fun r => { r with s := Tab.set 0 r.s d.reg (val.setWidth 64) })
  | .p => if d.reg = 0 then s else s.mapRegs (fun r => { r with p := Tab.set 0 r.p d.reg (val.setWidth 64) })
  | .v =>
    let (r', woke) := s.core.ctx.r.putV d.reg val mask s.core.ccyc
    let s1 := s.mapRegs (fun _ => r')
    if woke then s1.mapCtr (fun c => { c with wakeN := c.wakeN + 1 }) else s1

/-- A result comes into flight (04 R81), or is put where it belongs at once for an effect that takes place at c+L (R86). Nothing
is written for s0 and p0; a squashable result for one of them is in flight too, so that its cancellation counts (R87). -/
def State.push (s : State) (p : Pend) : State :=
  if p.dst.reg = 0 && p.dst.file != .v && !p.q then s else s.mapFl (fun f => { f with pend := f.pend ++ [p] })

/-- The Q and X bits of a slot in the bundle being issued. -/
def State.qOf (s : State) (k : Slot) : Bool := s.core.iss.q.getLsbD k.ix
def State.xOf (s : State) (k : Slot) : Bool := s.core.iss.x.getLsbD k.ix

/-- What landed in a register since an operation issued whose effect is at c+L (R84, R85). -/
def Iss.landedIn (i : Iss) (d : Dst) : List Vec := (i.landed.filter (fun p => p.1 == d)).map (·.2)

/-- A result of slot `k` for a physical register, `lat` cycles after issue. -/
def State.result (s : State) (k : Slot) (d : Dst) (val mask : Vec) (lat : Nat) (unit : Option Nat) : State :=
  let since := s.core.iss.landedIn d
  s.push { dst := d, val := val, mask := mask, iat := s.core.icyc, due := s.core.icyc + (if s.core.iss.now then 0 else lat), slot := k,
           q := s.qOf k && !s.core.iss.now, x := s.xOf k, alts := if s.xOf k then [] else since, clean := !since.isEmpty, unit := unit }

/-- A scalar result. -/
def State.setS (s : State) (k : Slot) (d : Reg) (val : Word) (lat : Nat) : State :=
  s.result k ⟨.s, d.toNat⟩ (val.setWidth 512) (BitVec.allOnes 512) lat none

/-- A scalar result that a unit delivers. -/
def State.awaitS (s : State) (k : Slot) (d : Reg) (lat serial : Nat) : State :=
  s.result k ⟨.s, d.toNat⟩ 0 (BitVec.allOnes 512) lat (some serial)

/-- A predicate result, by its logical number. -/
def State.setP (s : State) (d : Nat) (val : Word) (lat : Nat) : State :=
  s.result .v ⟨.p, physP s.core.ctx.f d⟩ (val.setWidth 512) (BitVec.allOnes 512) lat none

/-- A vector result, by its logical number. -/
def State.setV (s : State) (k : Slot) (d : Nat) (val mask : Vec) (lat : Nat) (unit : Option Nat) : State :=
  s.result k ⟨.v, physV s.core.ctx.f d⟩ val mask lat unit

/-- The value a unit delivers for the results that wait for it, in a core's running or stored contexts. -/
def Flight.deliver (f : Flight) (serial : Nat) (val : Vec) : Flight :=
  { f with pend := f.pend.map (fun p => if p.unit = some serial then { p with val := val, unit := none } else p) }

def Ctx.deliver (c : Ctx) (serial : Nat) (val : Vec) : Ctx :=
  { c with fl := c.fl.deliver serial val, held := c.held.map (fun h => { h with fl := h.fl.deliver serial val }) }

def Core.deliver (c : Core) (serial : Nat) (val : Vec) : Core := c.eachCtx (fun x => x.deliver serial val)

def State.deliver (s : State) (serial : Nat) (val : Word) : State := s.mapCore (fun c => c.deliver serial (val.setWidth 512))

/-! ### Landing (04 R81, R84, R85, R114) -/

/-- One of the values that overlapping writes left: any of them (04 R84). -/
def pickVal (n k : Nat) (v : Vec) (alts : List Vec) : Vec :=
  match alts with
  | [] => v
  | l => (v :: l).getD (Config.freeNat n k % (l.length + 1)) v

/-- A destination register as its file holds it. -/
def Regs.fileOf (r : Regs) (d : Dst) : Vec :=
  match d.file with
  | .s => (Tab.get 0 r.s d.reg).setWidth 512
  | .p => (Tab.get 0 r.p d.reg).setWidth 512
  | .v => Tab.get 0 r.v d.reg

/-- The bits of a result that it writes, over what is there otherwise. -/
def Pend.blend (p : Pend) (old : Vec) : Vec := (old &&& ~~~p.mask) ||| (p.val &&& p.mask)

/-- The value of a result is there at a core-clock cycle. -/
def Pend.there (p : Pend) (cc : Nat) : Bool :=
  p.unit.isNone && (match p.rdy with
    | some r => decide (r ≤ cc)
    | none => false)

/-- Whether a result lands at or before an issue cycle. -/
def Pend.ripe (p : Pend) (c cc : Nat) : Bool := decide (p.due ≤ c) && p.there cc

/-- One result lands. A transient one becomes readable in its window, its masked elements undefined (06 R130); any other is put into
its file, takes part in the overlap of later writes still in flight, those with Q that have not come to their due cycle too, and ends the
undefined span of earlier transients, those still to land too (04 R84, R85). -/
def State.land1 (s : State) (k : Nat) (p : Pend) : State :=
  let rest := s.core.ctx.fl.pend.erase p
  if p.x then
    s.mapFl (fun f => { f with pend := rest, trans := f.trans ++ [{ dst := p.dst, val := p.blend (Config.freeVec s.free k), iat := p.iat, due := p.due, poison := !p.clean }] })
  else
    let v := pickVal s.free k (p.blend (s.core.ctx.r.fileOf p.dst)) p.alts
    let w := if p.alts.isEmpty then p else { p with val := v, mask := BitVec.allOnes 512 }
    let s1 := s.mapFl (fun f =>
      { f with pend := rest.map (fun o => if o.dst == p.dst then (if o.x then { o with clean := true } else { o with alts := v :: o.alts }) else o)
               trans := f.trans.map (fun t => if t.dst == p.dst then { t with poison := false } else t)
               defer := f.defer.map (fun d => if d.dests.contains p.dst then { d with landed := (p.dst, v) :: d.landed } else d)
               lately := if p.dst.file == .v && p.due == s.core.icyc then f.lately ++ [(w, (Tab.get .off s.core.ctx.r.bank (p.dst.reg / 16)).at s.core.ccyc)] else f.lately })
    s1.putFile w.dst w.val w.mask

/-- Results land, in the order given. A result that landed before may have changed what one of them leaves (04 R84): it is read again. -/
def State.landAll (s : State) : List (Pend × Nat) → State
  | [] => s
  | (p, k) :: ps =>
    (s.land1 k (match s.core.ctx.fl.pend.find? (fun o =>
        o.dst == p.dst && o.iat == p.iat && o.due == p.due && o.slot == p.slot && o.ripe s.core.icyc s.core.ccyc) with
      | some o => o
      | none => p)).landAll ps

/-- Every result due now lands (05 R114, step 1); transients whose window is over and that poison nothing go. A number on tl.vp is complete
once the results have landed, in a freeze of the class Wait once the pipe has delivered them (04 R88; 06 R136; log 134). -/
def State.landDue (s : State) : State :=
  let s := if s.core.ctx.fl.lately.isEmpty then s else s.mapFl (fun f => { f with lately := f.lately.filter (fun p => p.1.due == s.core.icyc) })
  let ripe := s.core.ctx.fl.pend.filter (fun p => p.ripe s.core.icyc s.core.ccyc)
  let s1 := s.landAll (ripe.mapIdx (fun i p => (p, 0x100000 + i)))
  let waits := s.core.frz.line && s.core.frz.cls == .wait
  let open_ := fun (v : VpOut) => (!waits && decide (s1.core.icyc < v.due))
    || s1.core.ctx.fl.pend.any (fun p => p.slot == .v && p.vpn == v.num && !(waits && p.there s1.core.ccyc))
  let done := s1.core.ctx.fl.vp.filter (fun v => !open_ v)
  let s2 := s1.mapCtx (fun x => { x with tlVp := done.foldl (fun t v => t.finish v.num false) x.tlVp })
  s2.mapFl (fun f => { f with vp := f.vp.filter open_, trans := f.trans.filter (fun t => t.poison || decide (s1.core.icyc ≤ t.due + 2)) })

/-- Some result is past its due cycle and has not been delivered: the Late freeze (04 R88). -/
def State.lateNow (s : State) : Bool :=
  s.core.ctx.fl.pend.any (fun p => decide (p.due ≤ s.core.icyc) && !p.there s.core.ccyc)

/-! ### Squash (04 R87) -/

/-- A taken branch at the current cycle cancels the squashable operations that R87 names. -/
def State.squash (s : State) : State :=
  let c := s.core.icyc
  let fl := s.core.ctx.fl
  let hit := fun (iat due : Nat) => decide (iat ≤ c) && decide (c < due)
  let gone := fl.pend.filter (fun p => p.q && hit p.iat p.due)
  -- results of one operation count once
  let ops := (gone.map (fun p => (p.iat, p.slot))).eraseDups
  let defs := fl.defer.filter (fun d => hit d.iat d.due)
  let sets := s.core.ctx.cmds.filter (fun m => m.qiat == some c)
  let n := ops.length + defs.length + sets.length
  let s1 := s.mapFl (fun f =>
    { f with pend := f.pend.filter (fun p => !(p.q && hit p.iat p.due))
             defer := f.defer.filter (fun d => !hit d.iat d.due)
             das := f.das.filter (fun d => !hit d.iat d.due)
             vp := f.vp.map (fun v => if v.q && hit v.iat v.due then { v with due := c } else v) })
  let s2 := if sets.isEmpty then s1 else
    s1.mapCore (fun k => { k with holdCmd := none, ctx := { k.ctx with cmds := k.ctx.cmds.filter (fun m => m.qiat != some c) } })
  s2.mapCtr (fun k => { k with sqN := k.sqN + BitVec.ofNat 64 n })

/-! ### Operand addresses (02 R40) -/

/-- The handle address of a memory operand: handle 0xFFF takes the handle from the base register. -/
def opAddr (handle : BitVec 12) (base : Word) (disp : Int) : Nat :=
  let h := if handle = 0xFFF then base.toNat / 2 ^ 52 else handle.toNat
  let off := (((base.toNat % 2 ^ 52 : Nat) : Int) + disp) % ((2 ^ 52 : Nat) : Int)
  h * 2 ^ 52 + off.toNat

def haHandle (ha : Nat) : Nat := ha / 2 ^ 52 % 4096
def haOff (ha : Nat) : Nat := ha % 2 ^ 52
/-- A handle address moved by an offset, modulo 2^52. -/
def haAdd (ha d : Nat) : Nat := haHandle ha * 2 ^ 52 + (haOff ha + d) % 2 ^ 52

end Sys2Proof.Machine
end

