-- ==== Sys2Proof/Machine/Handle.lean ====
section
/-! DEFINITION. Handles, rights, and the translation of G and H addresses (spec 09 R203 to R215). -/

namespace Sys2Proof.Machine

/-- Trap causes by code (16 R376). -/
def cIllegal : Nat := 0x01
def cAlign : Nat := 0x02
def cFetch : Nat := 0x03
def cCsrPriv : Nat := 0x04
def cPriv : Nat := 0x05
def cRegDrop : Nat := 0x06
def cBufDrop : Nat := 0x07
def cBankConflict : Nat := 0x08
def cBankShare : Nat := 0x09
def cMisaligned : Nat := 0x0A
def cHandleInvalid : Nat := 0x0B
def cPartMismatch : Nat := 0x0C
def cHandleSpace : Nat := 0x0D
def cRights : Nat := 0x0E
def cBound : Nat := 0x0F
def cNotPresent : Nat := 0x10
def cProtection : Nat := 0x11
def cTransFormat : Nat := 0x12
def cDivZero : Nat := 0x13
def cCbDesc : Nat := 0x14
def cCbBusy : Nat := 0x15
def cCbRole : Nat := 0x16
def cCbOverrun : Nat := 0x17
def cCbUnderrun : Nat := 0x18
def cHandleSet : Nat := 0x19
def cDomainMask : Nat := 0x1A
def cFreezeTimeout : Nat := 0x1B
def cTrapInsn : Nat := 0x1C
def cBreakpoint : Nat := 0x1D
def cQueue : Nat := 0x20
def cParked : Nat := 0x21
def cStep : Nat := 0x22
def cSde : Nat := 0x23
def cUe : Nat := 0x24

/-- Space codes (09 R203). -/
def spW : Nat := 0
def spA : Nat := 1
def spC : Nat := 2
def spP : Nat := 3
def spD : Nat := 4
def spK : Nat := 5
def spS : Nat := 6
def spG : Nat := 7
def spH : Nat := 8
def spX : Nat := 9

/-- Fields of a handle entry (09 R203). -/
abbrev HEnt := BitVec 256
def hBase (e : HEnt) : Nat := fld e 0 64
def hBound (e : HEnt) : Nat := fld e 64 52
def hSpace (e : HEnt) : Nat := fld e 116 4
def hCpol (e : HEnt) : Nat := fld e 120 2
def hRd (e : HEnt) : Bool := e.getLsbD 122
def hWr (e : HEnt) : Bool := e.getLsbD 123
def hEngm (e : HEnt) : Nat := fld e 124 4
def hPart (e : HEnt) : Nat := fld e 128 2
def hDur (e : HEnt) : Bool := e.getLsbD 130
def hValid (e : HEnt) : Bool := e.getLsbD 131
def hPeer (e : HEnt) : Nat := fld e 132 12
def hPort (e : HEnt) : Nat := fld e 144 3
def hRsv (e : HEnt) : Nat := fld e 147 109

/-- The fixed handle of a local space (09 R204). -/
def fixedHandle : Nat → Option Nat
  | 0 => some 2
  | 1 => some 3
  | 2 => some 4
  | 3 => some 0
  | 4 => some 1
  | 5 => some 5
  | 6 => some 6
  | _ => none

/-- Key of a table entry. -/
def hKey (station part h : Nat) : Nat := (4 * station + part) * 4096 + h

/-- SPACE, RD, WR and ENGM of the fixed handles h0 to h6 (09 R204). -/
def fixedRights : Nat → Option (Nat × Bool × Bool × Nat)
  | 0 => some (3, true, true, 0)
  | 1 => some (4, true, true, 4)
  | 2 => some (0, true, true, 5)
  | 3 => some (1, true, true, 7)
  | 4 => some (2, true, true, 5)
  | 5 => some (5, true, true, 14)
  | 6 => some (6, true, false, 4)
  | _ => none

/-- An entry of the table of a station and partition; a fixed handle has the space and the rights of its row, whatever management has
put beside them (09 R203, R204). -/
def State.hEnt (s : State) (station part h : Nat) : HEnt :=
  let e := Tab.get 0 s.handles (hKey station part h)
  match fixedRights h with
  | some (sp, rd, wr, engm) =>
    BitVec.ofNat 256 (fld e 0 116 + put sp 116 + put (hCpol e) 120 + put (bit rd + 2 * bit wr + 4 * engm) 122 + put (fld e 128 128) 128)
  | none => e

/-- Agents of an access (09 R205). -/
inductive Agent where
  | core | me | pae | dae | ce | kv
  deriving DecidableEq, Repr, Inhabited

/-- The agent's bit of the engine mask is set; the control core has none (09 R203). -/
def Agent.allowed (a : Agent) (engm : Nat) : Bool :=
  match a with
  | .core => true
  | .me => tbit engm 0
  | .pae | .dae => tbit engm 1
  | .ce => tbit engm 2
  | .kv => tbit engm 3

/-- The agent's code in DETAIL [15:12] (09 R205). -/
def Agent.code : Agent → Nat
  | .core => 0
  | .me => 1
  | .pae => 2
  | .dae => 3
  | .ce => 4
  | .kv => 5

/-- What a violation of rights, bound or partition logs (01 R26, 09 R205). -/
def hViolation (core : Nat) (part : Nat) (a : Agent) (ha c : Nat) : Violation :=
  { cause := if c = cBound then 3 else if c = cRights then 4 else 5
    addr := ha, plane := if a = .core then 0 else 1, part := some part, site := stationOf core, core := some core
    detail := haHandle ha + a.code * 2 ^ 12 }

/-- The fault causes that also log (09 R205). -/
def logged (c : Nat) : Bool := c = cBound || c = cRights || c = cPartMismatch

/-- The checks of an access of `n` bytes at an offset of a handle, given its entry (09 R205): a fault cause, or nothing. -/
def checkAt (e : HEnt) (a : Agent) (part h off n : Nat) (rd wr : Bool) (spaces : List Nat) : Option Nat :=
  if h = 7 || !hValid e then some cHandleInvalid
  else if hPart e ≠ part then some cPartMismatch
  else if 1 < hCpol e || 9 < hSpace e then some cHandleInvalid
  else if !spaces.contains (hSpace e) then some cHandleSpace
  else if (rd && !hRd e) || (wr && !hWr e) || !a.allowed (hEngm e) then some cRights
  else if hBound e < off + n then some cBound
  else none

/-- The same for a handle address. -/
def checkEnt (e : HEnt) (a : Agent) (part ha n : Nat) (rd wr : Bool) (spaces : List Nat) : Option Nat :=
  checkAt e a part (haHandle ha) (haOff ha) n rd wr spaces

/-- Where the K space of a partition begins among those of its die: its pages are its own, whatever their numbers (01 R21; 13 R322). -/
def kBase (part : Nat) : Nat := part % 4 * 2 ^ 52

/-- Start of a region in its space: a software handle lies within the fixed handle of its space (09 R204); K begins at page 0 of the
partition. -/
def State.regionBase (s : State) (station part h : Nat) (e : HEnt) : Nat :=
  if hSpace e = 5 then kBase part + (if h < 8 then 0 else hBase e)
  else if h < 8 then hBase e
  else
    match fixedHandle (hSpace e) with
    | some f => hBase (s.hEnt station part f) + hBase e
    | none => hBase e

/-- The byte key of an offset in a local space. -/
def localKey (core space off : Nat) : Nat :=
  if space < 4 then rBuf core space + off
  else if space = 4 then rD (stationOf core) + off
  else if space = 5 then rK (stationOf core) + off
  else rS (stationOf core) + off

/-! ### Translation (09 R209 to R214) -/

/-- Fields of a page-table entry (09 R210). -/
def pV (e : Nat) : Bool := tbit e 0
def pLeaf (e : Nat) : Bool := tbit e 1
def pRd (e : Nat) : Bool := tbit e 2
def pWr (e : Nat) : Bool := tbit e 3
def pTgt (e : Nat) : Nat := e / 16 % 4
def pAddr (e : Nat) : Nat := e / 256 % 2 ^ 44 * 256
def pRsv (e : Nat) : Bool := e / 64 % 4 != 0 || e / 2 ^ 52 % 2 ^ 12 != 0

/-- Lowest address bit and number of index bits of a level (09 R209). -/
def levelShift : Nat → Nat
  | 0 => 43
  | 1 => 30
  | 2 => 21
  | _ => 16
def levelBits : Nat → Nat
  | 0 => 13
  | 1 => 13
  | 2 => 9
  | _ => 5

/-- Bytes of the table that a pointer at a level names. -/
def tableSize (level : Nat) : Nat := 8 * 2 ^ levelBits (level + 1)

/-- The outcome of a translation: a physical address and target, or a fault cause. -/
inductive Tr where
  | ok (leaf size : Nat)
  | bad (c : Nat)
  deriving DecidableEq, Repr

/-- A leaf serves an access of a space (09 R210): TGT 0 for G, 1 for H, and the right. -/
def leafUse (leaf : Nat) (rd wr : Bool) (space : Nat) : Option Nat :=
  if (pTgt leaf = 1) != (space = spH) then some cTransFormat
  else if (wr && !pWr leaf) || (rd && !pRd leaf) then some cProtection
  else none

/-- One level of a walk, then the next (09 R209, R210). -/
def State.walkFrom (s : State) (va table level : Nat) : Nat → Tr
  | 0 => .bad cTransFormat
  | f + 1 =>
    let e := s.rdLE (rG + table + 8 * (va / 2 ^ levelShift level % 2 ^ levelBits level)) 8
    if !pV e then .bad cNotPresent
    else if pRsv e then .bad cTransFormat
    else if pLeaf e then
      if level = 0 || 1 < pTgt e || pAddr e % 2 ^ levelShift level ≠ 0 || (pTgt e = 0 && 2 ^ 40 ≤ pAddr e) then .bad cTransFormat
      else .ok e (2 ^ levelShift level)
    else if level = 3 || pRd e || pWr e || pTgt e ≠ 0 || pAddr e % tableSize level ≠ 0 || 2 ^ 40 ≤ pAddr e then .bad cTransFormat
    else s.walkFrom va (pAddr e) (level + 1) f

/-- A whole walk for a partition (09 R209, R215). -/
def State.walk (s : State) (part va : Nat) : Tr :=
  let r := Tab.get 0 s.ptroot part
  if 2 ^ 56 ≤ va || !r.getLsbD 0 then .bad cNotPresent
  else s.walkFrom va (fld r 8 44 * 256) 0 4

/-- The table words that a walk reads are tested as any read is, for the context and the phase that asked (16 R390, R393). Such a word has no
handle address: ERR.ADDR is a free value. -/
def State.walkClean (s : State) (own phase va table level : Nat) : Nat → State
  | 0 => s
  | f + 1 =>
    let k := rG + table + 8 * (va / 2 ^ levelShift level % 2 ^ levelBits level)
    let s1 := s.consumeFor own (keysFrom k 8) spG (8 * Config.freeNat s.free 0xE2) phase
    let e := s1.rdLE k 8
    if !pV e || pRsv e || pLeaf e || level = 3 then s1 else s1.walkClean own phase va (pAddr e) (level + 1) f

def State.cleanWalk (s : State) (own phase part va : Nat) : State :=
  let r := Tab.get 0 s.ptroot part
  if s.chk.isEmpty || !r.getLsbD 0 then s else s.walkClean own phase va (fld r 8 44 * 256) 0 4

/-- A cached translation that an access of a core may use (09 R212). -/
def State.tlbHit (s : State) (core part va : Nat) : Option TlbEnt :=
  s.tlb.find? (fun t => t.part == part && decide (t.va ≤ va) && decide (va < t.va + t.size)
    && (t.core == some core || (t.core == none && t.station == stationOf core)))

/-- Entries of the L1 TLB of a core, and ways and sets of the L2 TLB of a die (09 R212). -/
def l1Entries : Nat := 128
def l2Ways : Nat := 8
def l2Sets : Nat := 2048

/-- The set of the L2 TLB that holds a translation. -/
def TlbEnt.set (t : TlbEnt) : Nat := t.va / t.size % l2Sets

/-- The entry that makes room where a store of `room` entries is full: the policy is not specified (09 R212). -/
def tlbVictim (n key room : Nat) (held : List TlbEnt) : Option TlbEnt :=
  if held.length < room then none else held[Config.freeNat n key % held.length]?

/-- A leaf enters the TLBs of a core and its die; it replaces what they held for the page (09 R212). -/
def State.tlbPut (s : State) (core part va leaf size : Nat) : State :=
  let base := va / size * size
  let st := stationOf core
  let keep := s.tlb.filter (fun t => !(t.part == part && t.va == base && t.size == size && (t.core == some core || (t.core == none && t.station == st))))
  let e : TlbEnt := { part := part, va := base, size := size, leaf := BitVec.ofNat 64 leaf, core := some core, station := st }
  let v1 := tlbVictim s.free (2 * base + 1) l1Entries (keep.filter (fun t => t.core == some core))
  let v2 := tlbVictim s.free (2 * base) l2Ways (keep.filter (fun t => t.core == none && t.station == st && t.set == e.set))
  { s with tlb := e :: { e with core := none } :: keep.filter (fun t => some t != v1 && some t != v2) }

/-- The answer of the translation hardware to an access, without a new walk: served from a cached leaf that has the right, or a
fault that a finished walk left for this access, or a walk is needed (09 R212, R214). -/
inductive TrQ where
  | ok (pa : Nat)
  | bad (c : Nat)
  | miss
  deriving DecidableEq, Repr

def State.translateQ (s : State) (core part va : Nat) (rd wr : Bool) (space : Nat) (copy : Option (Nat × Nat) := none) : TrQ :=
  if 2 ^ 56 ≤ va || !(Tab.get 0 s.ptroot part).getLsbD 0 then .bad cNotPresent
  else
    match s.walkFault.find? (fun w => w.1.core == core && w.1.va / 2 ^ 16 == va / 2 ^ 16 && w.1.rd == rd && w.1.wr == wr && w.1.space == space
        && w.1.copy == copy) with
    | some w => .bad w.2
    | none =>
      match s.tlbHit core part va with
      | some t =>
        if (leafUse t.leaf.toNat rd wr space).isNone then .ok (pAddr t.leaf.toNat + (va - t.va)) else .miss
      | none => .miss

/-- A translation that walks at once where it must: fetches and the units. -/
def State.translateNow (s : State) (core part va : Nat) (rd wr : Bool) (space : Nat) : State × Except Nat Nat :=
  match s.translateQ core part va rd wr space with
  | .ok pa => (s, .ok pa)
  | _ =>
    match s.walk part va with
    | .bad c => (s, .error c)
    | .ok leaf size =>
      match leafUse leaf rd wr space with
      | some c => (s, .error c)
      | none => (s.tlbPut core part va leaf size, .ok (pAddr leaf + va % size))

/-- Walks that the queue of a die holds, those being walked included (09 R213). -/
def walkRoom : Nat := 64

/-- Two misses of one die wait for the same walk: partition and 64 KiB page (09 R213). -/
def Walk.joins (w o : Walk) : Bool := w.part == o.part && w.va / 65536 == o.va / 65536 && stationOf w.core == stationOf o.core

/-- The walks of a die's queue: each miss that joins none before it has one. -/
def walksOf (st : Nat) (ws : List Walk) : List Walk :=
  ws.foldl (fun l w => if stationOf w.core ≠ st || l.any w.joins then l else l ++ [w]) []

/-- A miss joins the walk of its page or the queue of its die; one that finds the queue full waits for room (09 R213). -/
def State.askWalk (s : State) (w : Walk) : State :=
  if s.walks.contains w || (!s.walks.any w.joins && decide (walkRoom ≤ (walksOf (stationOf w.core) s.walks).length)) then s
  else { s with walks := s.walks ++ [w] }

/-- The key of a translated physical address: the keep tier or the host (09 R210). -/
def physKey (space pa : Nat) : Nat := if space = spH then rH + pa else rG + pa

/-- The translation of a range: a fault, an address that misses, or its byte keys. -/
inductive TrB where
  | bad (c : Nat)
  | miss (va : Nat)
  | ok (keys : List Nat)
  deriving DecidableEq, Repr

/-- Translation of `n` bytes, which may cross into a second page (09 R205). -/
def trBytes (q : Nat → TrQ) (space va n : Nat) : TrB :=
  let k := min n (65536 - va % 65536)
  match q va with
  | .bad c => .bad c
  | .miss => .miss va
  | .ok pa =>
    if k = n then .ok (keysFrom (physKey space pa) n)
    else
      match q (va + k) with
      | .bad c => .bad c
      | .miss => .miss (va + k)
      | .ok pb => .ok (keysFrom (physKey space pa) k ++ keysFrom (physKey space pb) (n - k))

/-! ### Control-core accesses -/

/-- An access of the control core to G or H. -/
def State.translateBytes (s : State) (e : HEnt) (va n : Nat) (rd wr : Bool) : Access :=
  match trBytes (fun a => s.translateQ s.cix s.part a rd wr (hSpace e)) (hSpace e) va n with
  | .bad c => .fault c
  | .miss a => .miss a (hSpace e)
  | .ok ks => .ok e ks

/-- An access of the control core as its checks find it now. -/
def State.accessNow (s : State) (ha n : Nat) (rd wr : Bool) (spaces : List Nat) : Access :=
  let st := s.station
  let e := s.hEnt st s.part (haHandle ha)
  match checkEnt e .core s.part ha n rd wr spaces with
  | some c => .fault c
  | none =>
    if hSpace e = spG || hSpace e = spH then s.translateBytes e (hBase e + haOff ha) n rd wr
    else .ok e (keysFrom (localKey s.cix (hSpace e) (s.regionBase st s.part (haHandle ha) e + haOff ha)) n)

/-- An access of the control core: the entry of its handle is read at issue, also where the access is made at c+L (09 R206). -/
def State.access (s : State) (ha n : Nat) (rd wr : Bool) (spaces : List Nat) : Access :=
  match s.core.iss.acc.find? (fun p => p.1.ha == ha && p.1.n == n && p.1.rd == rd && p.1.wr == wr) with
  | some p => p.2
  | none => s.accessNow ha n rd wr spaces

/-- The keys of an access that passed, nothing otherwise. -/
def Access.keys : Access → List Nat
  | .ok _ ks => ks
  | _ => []

/-- The fault of an access. -/
def Access.faultOf : Access → Option Nat
  | .fault c => some c
  | _ => none

/-- The space of the entry a handle address names for the running partition. -/
def State.spaceOf (s : State) (ha : Nat) : Nat := hSpace (s.hEnt s.station s.part (haHandle ha))

/-! ### Buffer banks (07 R152, R155, R157) -/

/-- Key of the state of a bank. -/
def bbKey (sp b : Nat) : Nat := 16 * sp + b

/-- Banks that bytes of a buffer space lie in. -/
def banksOf (off n : Nat) : List Nat :=
  if n = 0 then [] else (List.range ((off + n - 1) / 262144 - off / 262144 + 1)).map (· + off / 262144)

/-- The bank group of a bank (07 R152), numbered 2 * space + group. -/
def groupOf (sp b : Nat) : Nat :=
  2 * sp + (match sp with
    | 0 => b / 8
    | 1 => b / 6
    | 2 => b / 4
    | _ => 0)

def groupsOf (sp off n : Nat) : List Nat := ((banksOf off n).map (groupOf sp)).eraseDups

/-- The space, offset and core of a buffer key; `none` for a key outside the buffers. -/
def bufOf (key : Nat) : Option (Nat × Nat × Nat) :=
  let r := key / regionSize
  if r < 8192 then some (r / 4, r % 4, key % regionSize) else none

/-- State of a bank of a core at a cycle. -/
def Core.bank (c : Core) (sp b : Nat) : Bank := (Tab.get .full c.bbs (bbKey sp b)).at c.ccyc

/-- A write into buffer banks of a core: an OFF bank is zeroed and wakes, a RET bank wakes (05 R111, 07 R157). -/
def State.wakeBuf (s : State) (k sp b : Nat) : State :=
  let c := s.getCore k
  let old := Tab.get .full c.bbs (bbKey sp b)
  let (b', woke) := wakeBank old c.ccyc 64
  let s1 :=
    if old = .off then
      let lo := rBuf k sp + 262144 * b
      { s with mem := Tab.keep s.mem (fun a => !(decide (lo ≤ a) && decide (a < lo + 262144))),
               chk := Tab.keep s.chk (fun w => !(decide (lo / 8 ≤ w) && decide (w < (lo + 262144) / 8))) }
    else s
  s1.updCore k (fun c => { c with bbs := Tab.set .full c.bbs (bbKey sp b) b', ctr := if woke then { c.ctr with wakeN := c.ctr.wakeN + 1 } else c.ctr })

/-- Banks that the keys of an access to a buffer lie in: core, space, bank. -/
def keyBanks (ks : List Nat) : List (Nat × Nat × Nat) :=
  (ks.filterMap (fun k => (bufOf k).map (fun x => (x.1, x.2.1, x.2.2 / 262144)))).eraseDups

/-- Banks wake for a write. -/
def State.wakeAll (s : State) : List (Nat × Nat × Nat) → State
  | [] => s
  | (k, sp, b) :: t => (s.wakeBuf k sp b).wakeAll t

/-- Bytes written by an agent: buffer banks wake first (07 R157). -/
def State.store (s : State) (l : List (Nat × Byte)) : State := (s.wakeAll (keyBanks (l.map (·.1)))).wrKeys l

/-- Some byte lies in an OFF bank (07 R157). -/
def State.anyOff (s : State) (ks : List Nat) : Bool := (keyBanks ks).any (fun x => (s.getCore x.1).bank x.2.1 x.2.2 == .off)

/-- Some byte lies in a bank that is in RET or waking (07 R157, 05 R112). -/
def State.anyAsleep (s : State) (ks : List Nat) : Bool :=
  (keyBanks ks).any (fun x => match (s.getCore x.1).bank x.2.1 x.2.2 with
    | .full | .off => false
    | _ => true)

/-- A wake starts in the RET banks of a read (05 R111). -/
def State.startWakes (s : State) (ks : List Nat) : State :=
  s.wakeAll ((keyBanks ks).filter (fun x => (s.getCore x.1).bank x.2.1 x.2.2 == .ret))

/-- Bank groups of a core that keys lie in. -/
def keyGroups (ks : List Nat) : List (Nat × Nat) := ((keyBanks ks).map (fun x => (x.1, groupOf x.2.1 x.2.2))).eraseDups

end Sys2Proof.Machine
end

