-- ==== Sys2Proof/Machine/Issue.lean ====
section
/-! DEFINITION. How an operation issues: the faults before issue, the holds before issue, deferral under Q, and the path of compared commands (spec 04 R82, R86 to R90; 08 R184 to R186; 16 R376, R377, R386). -/

namespace Sys2Proof.Machine

/-- The running stream is below privilege S. -/
def State.user (s : State) : Bool := s.core.ctx.f.level == 0

/-- CSRs of 0x100 and above that may be written at privilege U (11 R283, 12 R313, 17 R411). -/
def csrWriteU (n : Nat) : Bool := n = 0x30B || n = 0x324 || (0x500 ≤ n && n ≤ 0x509)

/-- The privilege a CSR access needs is S (05 R117; 16 R383 says so of 0x450 to 0x456 itself). -/
def csrNeedsS (n : Nat) (write : Bool) : Bool :=
  if n < 0x100 then write && n == 0x010
  else if n < 0x200 || (0x450 ≤ n && n ≤ 0x456) then true
  else if 0x500 ≤ n then !((0x500 ≤ n && n ≤ 0x50A) && (!write || csrWriteU n))
  else write && !csrWriteU n

/-- The privilege faults of an operation (05 R117; 16 R376, R400 to R402; 09 R207, R221). -/
def privFault (i : Instr) (s : State) : Option TrapInfo :=
  if !s.user then none
  else
    match i with
    | .csrr _ n => if csrNeedsS n.toNat false then some { code := cCsrPriv, part := 1 } else none
    | .csrw n _ | .csrs n _ | .csrc n _ => if csrNeedsS n.toNat true then some { code := cCsrPriv, part := 1 } else none
    | .eret => some { code := cPriv, part := 1 }
    | .hset .. | .hinv .. | .dstc .. | .dldc .. => some { code := cPriv, part := 2 }
    | .cpRes .. | .cpResDrop .. | .ctxSwap .. | .ctxSpill .. | .ctxFill .. => some { code := cPriv, part := 4 }
    | _ => none

/-- Why a bundle is held before it issues (04 R89): the class, the time bound in cycles (0: none), what begins with the
hold, what happens in each of its cycles, for what the core waits (the kinds of `Wait`; 3 for its own stores), and that it waits for room
in a queue, or for the wake of a bank that it reads at its issue, as an operation with Q does too (08 R184; 09 R208; 10 R242, R255). -/
structure Hold where
  cls : FrzClass
  bound : Nat := 0
  start : State → State := id
  each : State → State := id
  kind : Nat := 0
  races : Nat := 0
  room : Bool := false

/-- The faults and holds before issue of one family of operations, the accesses that are checked at issue, and the vector operands that
go aside with Q. -/
structure Family where
  fault : Instr → State → Option TrapInfo := fun _ _ => none
  hold : Instr → State → Option Hold := fun _ _ => none
  reqs : Instr → State → List MemReq := fun _ _ => []
  data : Instr → State → List Vec := fun _ _ => []

/-- What holds an operation before its issue: with Q only a translation that is missing (09 R214), a full queue and what it reads at issue; the
rest waits until its due cycle. -/
def Family.holds (fam : Family) (i : Instr) (s : State) : Option Hold :=
  if s.qOf (slotOf i) then (fam.hold i s).filter (fun h => h.cls == .late || h.room) else fam.hold i s

/-- The bound of the running wait has passed (07 R169). -/
def State.timedOut (s : State) : Bool :=
  match s.core.wait with
  | some w => w.expired || (w.bound != 0 && decide (w.bound ≤ w.elapsed))
  | none => false

/-- One cycle of a hold. The bound is read when the freeze begins (07 R169). -/
def State.holdFor (s : State) (h : Hold) : State :=
  let s1 := match s.core.wait with
    | some w => s.mapCore (fun c => { c with wait := some { w with elapsed := w.elapsed + 1, kind := h.kind % 3, races := h.races, stores := h.kind == 3 } })
    | none => (h.start s).mapCore (fun c => { c with wait := some { elapsed := 1, bound := h.bound, kind := h.kind % 3, races := h.races, stores := h.kind == 3 } })
  (h.each s1).freeze h.cls

/-- The loop counters as words. -/
def State.loopWords (s : State) : List Word := (List.range 4).map (fun l => (Tab.get 0 s.core.ctx.r.l l).setWidth 64)

/-- The accesses of an operation as they are found now. -/
def State.found (s : State) (rs : List MemReq) : List (MemReq × Access) :=
  rs.map (fun r => (r, s.accessNow r.ha r.n r.rd r.wr r.spaces))

/-- An operation with Q is put aside with its operands until c+L (04 R86). -/
def State.deferOp (s : State) (fam : Family) (i : Instr) (lat : Nat) : State :=
  (s.mapFl (fun f => { f with defer := f.defer ++ [{
    ins := i, caps := s.args i ++ s.loopWords, acc := s.found (fam.reqs i s), serial := s.core.serial + 1, vdata := fam.data i s
    iat := s.core.icyc, due := s.core.icyc + lat, pc := s.core.ctx.f.pc, x := s.xOf (slotOf i), bundle := s.core.bundles + 1
    phase := s.core.ctx.phase, rotlo := s.core.ctx.f.rotlo, rotb := s.core.ctx.f.rotb, clk := s.core.ccyc, dests := destsAt s.core.ctx.f i }] })).mapCore (fun c => { c with serial := c.serial + 1 })

/-- The operation carries Q and has not come to its due cycle. -/
def State.mustDefer (s : State) (i : Instr) : Bool := s.qOf (slotOf i) && s.core.iss.cap.isNone

/-- A fault of an access as a trap of slot M or E (09 R205, 16 R376). -/
def accessTrap (slot : Slot) (c ha : Nat) : TrapInfo := { code := c, part := slot.part, addr := ha }

/-- The violation that a trap logs (09 R205), made when the trap is taken. -/
def State.logFault (s : State) (t : TrapInfo) : State :=
  if logged t.code then s.logV (hViolation s.cix s.part .core t.addr t.code) else s

/-- A trap is taken, with its violation logged. -/
def State.trapNow (s : State) (t : TrapInfo) : State := (s.logFault t).takeTrap t

/-- Issue of one operation (04 R86, R88; 16 R376): a fault is taken before anything happens, a hold passes one cycle, an operation
with Q is put aside, and otherwise the effect takes place. Within a bundle the checks of all its slots have been made already. -/
def issue (fam : Family) (i : Instr) (lat : State → Nat) (eff : State → State) (s : State) : Host.Outcome State Fault Refusal :=
  let run (s : State) : State := if s.mustDefer i then s.deferOp fam i (lat s) else eff s
  if s.core.iss.checked then .next (run s)
  else
    match privFault i s with
    | some t => .next (s.trapNow t)
    | none =>
      match (if s.qOf (slotOf i) then (fam.fault i s).filter (fun t => t.code == cDomainMask) else fam.fault i s) with
      | some t => .next (s.trapNow t)
      | none =>
        match fam.holds i s with
        | some h => if h.cls == .wait && s.timedOut then .next (run s.thaw) else .next (s.holdFor h)
        | none => .next (run s.thaw)

/-! ### Commands (08 R184, 16 R386) -/

/-- The bundle of the operation being executed. -/
def State.bundleNo (s : State) : Nat := if s.core.iss.now then s.core.iss.bun else s.core.bundles + 1

/-- The core-clock cycle of its issue. -/
def State.issueClk (s : State) : Nat := if s.core.iss.now then s.core.iss.clk else s.core.ccyc

/-- A command takes its place among those of its context by its serial number. -/
def insertCmd (m : Cmd) : List Cmd → List Cmd
  | [] => [m]
  | o :: os => if m.serial < o.serial then m :: o :: os else o :: insertCmd m os

/-- The serial number of the operation being executed: the next, or under Q the one that it took at issue (10 R228). -/
def State.nextSerial (s : State) : Nat := if s.core.iss.now then s.core.iss.ser else s.core.serial + 1

/-- A command that is not compared: it goes straight to its unit, in order with the core's other commands there (14 R361). -/
def goesStraight : Instr → Bool
  | .bltRead .. => true
  | _ => false

/-- A command enters the compare queue with its operands, the loop counters and the numbers it takes; `keys` are the bytes of its
image. One whose bundle is compared already, as Q allows, is at its unit at once (04 R86). -/
def State.sendCmd (s : State) (i : Instr) (nums : List Nat) (keys : List Nat := []) : State :=
  let m : Cmd :=
    { ins := i, caps := s.args i ++ (match s.core.iss.cap with
        | some l => l.drop (srcs i).length
        | none => s.loopWords)
      serial := s.nextSerial, bundle := s.bundleNo, phase := s.core.ctx.phase, nums := nums
      sent := if (s.core.iss.now && decide (s.bundleNo ≤ s.core.checked)) || goesStraight i then some (s.core.ccyc - 1) else none
      pc := s.core.ctx.f.pc, keys := keys, clk := s.issueClk,
      rq := if s.core.ctx.task.tile.isSome then s.core.ctx.task.rq.map (fun r => (r, s.core.ctx.task.uid)) else none }
  s.mapCore (fun c => { c with serial := max c.serial m.serial, ctx := { c.ctx with cmds := insertCmd m c.ctx.cmds } })

/-- Front of an engine code (02 R47). -/
def engFront (e : Nat) : Front := if e = 0 then .me else if e = 1 then .pae else if e = 2 then .dae else .ce

/-- A nop half: no amendment and no issue (02 R48). -/
def nopHalf (p : PatchWord) : Bool := p.bits == 0 || (p.field == 31 && !p.issue)

/-- The unit that applies a command: the die scheduler with the termination detector, the KV units, the ballot, the station, the governor,
the context engine; 0 stands for the core's own (12 R305, R314; 13 R331; 14 R357). -/
def unitOf : Instr → Nat
  | .spawn .. | .feSetFull _ | .feSetEmpty _ | .rqNextAdv .. | .rqNextDone .. | .rqNextSusp .. | .rqNextResume .. | .rqNextRelease ..
  | .cmpApp .. | .cmpTake .. | .termOpen _ | .termClose _ | .bar .. | .dmSet .. => 1
  | .kvApp .. | .kvLk .. | .kvAlloc .. | .kvAllocFork .. | .kvRef .. | .kvFree .. | .kvFreeSeq .. | .kvCow .. | .kvCowSpill ..
  | .kvLenCommit .. | .kvLenRestore .. | .pfxIns .. | .pfxFind .. | .pfxFindDrop .. => 2
  | .bltOpen .. | .bltPost .. | .bltRead .. | .bltClose .. => 3
  | .segPin .. | .segUnpin _ | .segHold .. => 4
  | .govRes .. | .govRel .. | .govBallast .. | .opReq .. => 5
  | .ctxSpill .. | .ctxFill .. => 6
  | _ => 0

/-- A unit of the die or cluster. -/
def Front.isUnit : Front → Bool
  | .unit _ => true
  | _ => false

/-- The fronts a command passes (08 R184; 09 R216; 13 R332). -/
def cmdFronts : Instr → List Front
  | .mm .. | .ftLd .. | .epLd .. | .cbRel _ => [.me]
  | .mtLd e .. => [match e with
    | .me => .me
    | .pae => .pae
    | .dae => .dae
    | .ce => .ce]
  | .patchPair hi lo =>
    ((if nopHalf hi then [] else [engFront hi.eng.toNat]) ++ (if nopHalf lo then [] else [engFront lo.eng.toNat])).eraseDups
  | .cp .. | .cpM .. | .cp2d .. | .gat .. | .sca .. | .cpRes .. | .cpResDrop .. => [.ce]
  | .atMask .. => [.pae]
  | i => [.unit (unitOf i)]

/-- A command of a front is issued and not applied: one more would be the ninth before its front (08 R184), those still compared and
those with Q counted. -/
def State.frontFull (s : State) (i : Instr) : Bool :=
  let x := s.core.ctx
  (cmdFronts i).any (fun f => !f.isUnit &&
    decide (8 ≤ (x.cmds.filter (fun m => (cmdFronts m.ins).contains f)).length + (x.fl.defer.filter (fun d => (cmdFronts d.ins).contains f)).length))

/-- A command to a unit whose answer lands in a scalar (04 R81, R88). -/
def State.askUnit (s : State) (i : Instr) (d : Reg) (lat : Nat) (keys : List Nat := []) : State :=
  (s.sendCmd i [] keys).awaitS .e d lat s.nextSerial

end Sys2Proof.Machine
end

