-- ==== Sys2Proof/Machine/Scalar.lean ====
section
/-! DEFINITION. The scalar instructions of slot M: ALU, immediates, select (spec 05 R120 to R125). -/

namespace Sys2Proof.Machine

/-- A truth value as a word. -/
def flag (b : Bool) : Word := if b then 1 else 0

/-- The immediate of R123: sign-extended. -/
def sx (imm : BitVec 32) : Word := imm.signExtend 64

/-- Zero bits above the highest 1; 64 for zero (05 R121). -/
def clzNat (a : Word) : Nat := if a = 0 then 64 else 63 - Nat.log2 a.toNat

/-- Zero bits below the lowest 1; 64 for zero (05 R121). -/
def ctzNat (a : Word) : Nat := ((List.range 64).takeWhile (fun i => !a.getLsbD i)).length

/-- Byte i to byte 7 - i (05 R121). -/
def bswapWord (a : Word) : Word :=
  BitVec.ofNat 64 (leNat (leBytes a.toNat 8).reverse)

/-- A scalar operation on two registers (05 R120): sources read at issue, the result after its latency. -/
def State.alu2 (s : State) (d a b : Reg) (lat : Nat) (f : Word → Word → Word) : State :=
  s.setS .m d (f (s.rs (srcTag .m 0) a) (s.rs (srcTag .m 1) b)) lat

/-- A scalar operation on one register. -/
def State.alu1 (s : State) (d a : Reg) (lat : Nat) (f : Word → Word) : State :=
  s.setS .m d (f (s.rs (srcTag .m 0) a)) lat

/-- `add` (05 R121): a + b. -/
def addVal (a b : Word) : Word := a + b
def execAdd (d a b : Reg) (s : State) : Host.Outcome State Fault Refusal := .next (s.alu2 d a b 1 addVal)

/-- `sub` (05 R121): a - b. -/
def subVal (a b : Word) : Word := a - b
def execSub (d a b : Reg) (s : State) : Host.Outcome State Fault Refusal := .next (s.alu2 d a b 1 subVal)

/-- `mul` (05 R121): (a * b)[63:0]. -/
def mulVal (a b : Word) : Word := a * b
def execMul (d a b : Reg) (s : State) : Host.Outcome State Fault Refusal := .next (s.alu2 d a b 3 mulVal)

/-- `mulh` (05 R121): bits [127:64] of the signed product. -/
def mulhVal (a b : Word) : Word := BitVec.ofInt 64 (a.toInt * b.toInt / (2 ^ 64 : Nat))
def execMulh (d a b : Reg) (s : State) : Host.Outcome State Fault Refusal := .next (s.alu2 d a b 3 mulhVal)

/-- `mulhn` (05 R121): bits [127:64] of the unsigned product. -/
def mulhnVal (a b : Word) : Word := BitVec.ofNat 64 (a.toNat * b.toNat / 2 ^ 64)
def execMulhn (d a b : Reg) (s : State) : Host.Outcome State Fault Refusal := .next (s.alu2 d a b 3 mulhnVal)

/-- `and` (05 R121): a & b. -/
def andVal (a b : Word) : Word := a &&& b
def execAnd (d a b : Reg) (s : State) : Host.Outcome State Fault Refusal := .next (s.alu2 d a b 1 andVal)

/-- `or` (05 R121): a | b. -/
def orVal (a b : Word) : Word := a ||| b
def execOr (d a b : Reg) (s : State) : Host.Outcome State Fault Refusal := .next (s.alu2 d a b 1 orVal)

/-- `xor` (05 R121): a ^ b. -/
def xorVal (a b : Word) : Word := a ^^^ b
def execXor (d a b : Reg) (s : State) : Host.Outcome State Fault Refusal := .next (s.alu2 d a b 1 xorVal)

/-- `andn` (05 R121): a & ~b. -/
def andnVal (a b : Word) : Word := a &&& ~~~b
def execAndn (d a b : Reg) (s : State) : Host.Outcome State Fault Refusal := .next (s.alu2 d a b 1 andnVal)

/-- `shl` (05 R121): a << b[5:0]. -/
def shlVal (a b : Word) : Word := a <<< (b.toNat % 64)
def execShl (d a b : Reg) (s : State) : Host.Outcome State Fault Refusal := .next (s.alu2 d a b 1 shlVal)

/-- `shr` (05 R121): a >> b[5:0], zeros shifted in. -/
def shrVal (a b : Word) : Word := a >>> (b.toNat % 64)
def execShr (d a b : Reg) (s : State) : Host.Outcome State Fault Refusal := .next (s.alu2 d a b 1 shrVal)

/-- `sar` (05 R121): a >> b[5:0], copies of a[63] shifted in. -/
def sarVal (a b : Word) : Word := a.sshiftRight (b.toNat % 64)
def execSar (d a b : Reg) (s : State) : Host.Outcome State Fault Refusal := .next (s.alu2 d a b 1 sarVal)

/-- `rol` (05 R121): a rotated left by b[5:0]. -/
def rolVal (a b : Word) : Word := a.rotateLeft (b.toNat % 64)
def execRol (d a b : Reg) (s : State) : Host.Outcome State Fault Refusal := .next (s.alu2 d a b 1 rolVal)

/-- `min` (05 R121): the signed smaller. -/
def minVal (a b : Word) : Word := if a.slt b then a else b
def execMin (d a b : Reg) (s : State) : Host.Outcome State Fault Refusal := .next (s.alu2 d a b 1 minVal)

/-- `max` (05 R121): the signed larger. -/
def maxVal (a b : Word) : Word := if a.slt b then b else a
def execMax (d a b : Reg) (s : State) : Host.Outcome State Fault Refusal := .next (s.alu2 d a b 1 maxVal)

/-- `minn` (05 R121): the unsigned smaller. -/
def minnVal (a b : Word) : Word := if a.ult b then a else b
def execMinn (d a b : Reg) (s : State) : Host.Outcome State Fault Refusal := .next (s.alu2 d a b 1 minnVal)

/-- `maxn` (05 R121): the unsigned larger. -/
def maxnVal (a b : Word) : Word := if a.ult b then b else a
def execMaxn (d a b : Reg) (s : State) : Host.Outcome State Fault Refusal := .next (s.alu2 d a b 1 maxnVal)

/-- `seq` (05 R121): 1 if a = b. -/
def seqVal (a b : Word) : Word := flag (a == b)
def execSeq (d a b : Reg) (s : State) : Host.Outcome State Fault Refusal := .next (s.alu2 d a b 1 seqVal)

/-- `sne` (05 R121): 1 if a is not b. -/
def sneVal (a b : Word) : Word := flag (a != b)
def execSne (d a b : Reg) (s : State) : Host.Outcome State Fault Refusal := .next (s.alu2 d a b 1 sneVal)

/-- `slt` (05 R121): 1 if signed a < b. -/
def sltVal (a b : Word) : Word := flag (a.slt b)
def execSlt (d a b : Reg) (s : State) : Host.Outcome State Fault Refusal := .next (s.alu2 d a b 1 sltVal)

/-- `sltn` (05 R121): 1 if unsigned a < b. -/
def sltnVal (a b : Word) : Word := flag (a.ult b)
def execSltn (d a b : Reg) (s : State) : Host.Outcome State Fault Refusal := .next (s.alu2 d a b 1 sltnVal)

/-- `sle` (05 R121): 1 if signed a <= b. -/
def sleVal (a b : Word) : Word := flag (a.sle b)
def execSle (d a b : Reg) (s : State) : Host.Outcome State Fault Refusal := .next (s.alu2 d a b 1 sleVal)

/-- `slen` (05 R121): 1 if unsigned a <= b. -/
def slenVal (a b : Word) : Word := flag (a.ule b)
def execSlen (d a b : Reg) (s : State) : Host.Outcome State Fault Refusal := .next (s.alu2 d a b 1 slenVal)

/-- `clz` (05 R121): zero bits above the highest 1. -/
def clzVal (a : Word) : Word := BitVec.ofNat 64 (clzNat a)
def execClz (d a : Reg) (s : State) : Host.Outcome State Fault Refusal := .next (s.alu1 d a 1 clzVal)

/-- `ctz` (05 R121): zero bits below the lowest 1. -/
def ctzVal (a : Word) : Word := BitVec.ofNat 64 (ctzNat a)
def execCtz (d a : Reg) (s : State) : Host.Outcome State Fault Refusal := .next (s.alu1 d a 1 ctzVal)

/-- `popc` (05 R121): the number of 1 bits. -/
def popcVal (a : Word) : Word := BitVec.ofNat 64 (popNat a)
def execPopc (d a : Reg) (s : State) : Host.Outcome State Fault Refusal := .next (s.alu1 d a 1 popcVal)

/-- `bswap` (05 R121): the bytes reversed. -/
def bswapVal (a : Word) : Word := bswapWord a
def execBswap (d a : Reg) (s : State) : Host.Outcome State Fault Refusal := .next (s.alu1 d a 1 bswapVal)

/-- `mov` (05 R121): a. -/
def movVal (a : Word) : Word := a
def execMov (d a : Reg) (s : State) : Host.Outcome State Fault Refusal := .next (s.alu1 d a 1 movVal)

/-- `addi` (05 R123): a + i. -/
def addiVal (imm : BitVec 32) (a : Word) : Word := a + sx imm
def execAddi (d a : Reg) (imm : BitVec 32) (s : State) : Host.Outcome State Fault Refusal := .next (s.alu1 d a 1 (addiVal imm))

/-- `andi` (05 R123): a & i. -/
def andiVal (imm : BitVec 32) (a : Word) : Word := a &&& sx imm
def execAndi (d a : Reg) (imm : BitVec 32) (s : State) : Host.Outcome State Fault Refusal := .next (s.alu1 d a 1 (andiVal imm))

/-- `ori` (05 R123): a | i. -/
def oriVal (imm : BitVec 32) (a : Word) : Word := a ||| sx imm
def execOri (d a : Reg) (imm : BitVec 32) (s : State) : Host.Outcome State Fault Refusal := .next (s.alu1 d a 1 (oriVal imm))

/-- `xori` (05 R123): a ^ i. -/
def xoriVal (imm : BitVec 32) (a : Word) : Word := a ^^^ sx imm
def execXori (d a : Reg) (imm : BitVec 32) (s : State) : Host.Outcome State Fault Refusal := .next (s.alu1 d a 1 (xoriVal imm))

/-- `slti` (05 R123): 1 if signed a < i. -/
def sltiVal (imm : BitVec 32) (a : Word) : Word := flag (a.slt (sx imm))
def execSlti (d a : Reg) (imm : BitVec 32) (s : State) : Host.Outcome State Fault Refusal := .next (s.alu1 d a 1 (sltiVal imm))

/-- `sltni` (05 R123): 1 if unsigned a < i. -/
def sltniVal (imm : BitVec 32) (a : Word) : Word := flag (a.ult (sx imm))
def execSltni (d a : Reg) (imm : BitVec 32) (s : State) : Host.Outcome State Fault Refusal := .next (s.alu1 d a 1 (sltniVal imm))

/-- `seqi` (05 R123): 1 if a = i. -/
def seqiVal (imm : BitVec 32) (a : Word) : Word := flag (a == sx imm)
def execSeqi (d a : Reg) (imm : BitVec 32) (s : State) : Host.Outcome State Fault Refusal := .next (s.alu1 d a 1 (seqiVal imm))

/-- `muli` (05 R123): (a * i)[63:0]. -/
def muliVal (imm : BitVec 32) (a : Word) : Word := a * sx imm
def execMuli (d a : Reg) (imm : BitVec 32) (s : State) : Host.Outcome State Fault Refusal := .next (s.alu1 d a 3 (muliVal imm))

/-- `shli` (05 R123): a << amount. -/
def shliVal (amt : BitVec 6) (a : Word) : Word := a <<< amt.toNat
def execShli (d a : Reg) (amt : BitVec 6) (s : State) : Host.Outcome State Fault Refusal := .next (s.alu1 d a 1 (shliVal amt))

/-- `shri` (05 R123): a >> amount, logical. -/
def shriVal (amt : BitVec 6) (a : Word) : Word := a >>> amt.toNat
def execShri (d a : Reg) (amt : BitVec 6) (s : State) : Host.Outcome State Fault Refusal := .next (s.alu1 d a 1 (shriVal amt))

/-- `sari` (05 R123): a >> amount, arithmetic. -/
def sariVal (amt : BitVec 6) (a : Word) : Word := a.sshiftRight amt.toNat
def execSari (d a : Reg) (amt : BitVec 6) (s : State) : Host.Outcome State Fault Refusal := .next (s.alu1 d a 1 (sariVal amt))

/-- `div` (05 R122): the quotient truncated toward zero; -2^63 / -1 is -2^63. -/
def divVal (a b : Word) : Word := BitVec.ofInt 64 (a.toInt.tdiv b.toInt)
/-- `divn` (05 R122). -/
def divnVal (a b : Word) : Word := BitVec.ofNat 64 (a.toNat / b.toNat)
/-- `rem` (05 R122): the remainder with the sign of a; -2^63 rem -1 is 0. -/
def remVal (a b : Word) : Word := BitVec.ofInt 64 (a.toInt.tmod b.toInt)
/-- `remn` (05 R122). -/
def remnVal (a b : Word) : Word := BitVec.ofNat 64 (a.toNat % b.toNat)

/-- The divide fault: TRAP.ADDR is the division's own bundle (05 R122). -/
def divFault (i : Instr) (s : State) : Option TrapInfo :=
  match i with
  | .div .. | .divn .. | .rem .. | .remn .. =>
    if s.arg i 1 = 0 then some { code := cDivZero, part := 2, addr := s.core.ctx.f.pc } else none
  | _ => none

/-- The family of the scalar instructions. -/
def famScalar : Family := { fault := divFault }

/-- A division with its result (05 R122): under Q it takes place whole at c+L. -/
def State.divide (i : Instr) (d : Reg) (f : Word → Word → Word) (s : State) : State := s.setS .m d (f (s.arg i 0) (s.arg i 1)) 24

def execDiv (d a b : Reg) (s : State) : Host.Outcome State Fault Refusal :=
  issue famScalar (.div d a b) (fun _ => 24) (State.divide (.div d a b) d divVal) s
def execDivn (d a b : Reg) (s : State) : Host.Outcome State Fault Refusal :=
  issue famScalar (.divn d a b) (fun _ => 24) (State.divide (.divn d a b) d divnVal) s
def execRem (d a b : Reg) (s : State) : Host.Outcome State Fault Refusal :=
  issue famScalar (.rem d a b) (fun _ => 24) (State.divide (.rem d a b) d remVal) s
def execRemn (d a b : Reg) (s : State) : Host.Outcome State Fault Refusal :=
  issue famScalar (.remn d a b) (fun _ => 24) (State.divide (.remn d a b) d remnVal) s

/-- `li` (05 R124). -/
def execLi (d : Reg) (imm : BitVec 32) (s : State) : Host.Outcome State Fault Refusal := .next (s.setS .m d (sx imm) 1)

/-- `lih` (05 R124): S[D] is a source as well. -/
def execLih (d : Reg) (imm : BitVec 32) (s : State) : Host.Outcome State Fault Refusal :=
  .next (s.setS .m d (imm ++ (s.rs (srcTag .m 0) d).setWidth 32) 1)

/-- `sel` (05 R125): the predicate is mapped through the rotation. -/
def execSel (d a b p : Reg) (idx : BitVec 6) (s : State) : Host.Outcome State Fault Refusal :=
  let x := s.rs (srcTag .m 0) a
  let y := s.rs (srcTag .m 1) b
  .next (s.setS .m d (if (s.rp (srcTag .m 2) p.toNat).getLsbD idx.toNat then x else y) 1)

/-- `nop` (02 R32). -/
def execNop (s : State) : Host.Outcome State Fault Refusal := .next s

end Sys2Proof.Machine
end

