-- ==== Sys2Proof/Machine/Memory.lean ====
section
/-! DEFINITION. The memory instructions of slot M: loads, stores, atomics, barrier objects, vector loads and stores, fences, raw check bytes, handle entries (spec 07 R173 to R175, 09 R207, R208, 10 R228 to R251, 16 R402). -/

namespace Sys2Proof.Machine

/-! ### What an instruction accesses -/

/-- Bytes of a load and of a store (02 R39). -/
def ldBytes : LdSize → Nat
  | .b | .bn => 1
  | .h | .hn => 2
  | .w | .wn => 4
  | .d => 8
def stBytes : StSize → Nat
  | .b => 1
  | .h => 2
  | .w => 4
  | .d => 8

/-- Bytes of an atomic. -/
def atomBytes (dword : Bool) : Nat := if dword then 8 else 4

/-- Spaces of `ld` and `st`, of `vld` and `vst`, of atomics, of the raw check bytes (10 R244, R245; 07 R173; 16 R402). -/
def spLd : List Nat := [spW, spA, spC, spP, spD, spG, spH]
def spVec : List Nat := [spW, spA, spC, spP, spD]
def spAtom : List Nat := [spD, spG]
def spRaw : List Nat := [spW, spA, spC, spP, spD, spK, spG]

/-- The operand sum of a vector load or store, before the offset field (07 R173). -/
def vmBase (i : Instr) (m : VMem) (s : State) : Nat := opAddr m.handle (s.arg i 0) 0

/-- The address of register (r, j) of a block (07 R173). -/
def vmAddr (ob : Nat) (m : VMem) (r j : Nat) : Nat := haAdd ob (64 * m.off.toNat + 64 * m.stride.toNat * r + 64 * j)

/-- The accesses of an instruction, in the order in which they are checked. -/
def memReqs (i : Instr) (s : State) : List MemReq :=
  match i with
  | .ld sz _ _ h imm => [{ ha := opAddr h (s.arg i 0) imm.toInt, n := ldBytes sz, align := ldBytes sz, rd := true, wr := false, spaces := spLd }]
  | .st sz _ _ h imm => [{ ha := opAddr h (s.arg i 0) imm.toInt, n := stBytes sz, align := stBytes sz, rd := false, wr := true, spaces := spLd }]
  | .amo _ dw _ _ _ _ h imm =>
    [{ ha := opAddr h (s.arg i 0) imm.toInt, n := atomBytes dw, align := atomBytes dw, rd := true, wr := true, spaces := spAtom }]
  | .cas dw _ _ _ _ _ h imm =>
    [{ ha := opAddr h (s.arg i 0) imm.toInt, n := atomBytes dw, align := atomBytes dw, rd := true, wr := true, spaces := spAtom }]
  | .boArr _ _ _ h imm => [{ ha := opAddr h (s.arg i 0) imm.toInt, n := 16, align := 16, rd := true, wr := true, spaces := spAtom }]
  | .boWait _ _ _ _ h imm => [{ ha := opAddr h (s.arg i 0) imm.toInt, n := 16, align := 16, rd := true, wr := false, spaces := spAtom }]
  | .dstc _ _ _ h imm => [{ ha := opAddr h (s.arg i 0) imm.toInt, n := 8, align := 8, rd := false, wr := true, spaces := spRaw }]
  | .dldc _ _ h imm => [{ ha := opAddr h (s.arg i 0) imm.toInt, n := 8, align := 8, rd := true, wr := false, spaces := spRaw }]
  | .vld m => (vmPlaces m).map (fun p =>
      { ha := vmAddr (vmBase i m s) m p.1 p.2, n := 64, align := 64, rd := true, wr := false, spaces := spVec })
  | .vst m => (vmPlaces m).map (fun p =>
      { ha := vmAddr (vmBase i m s) m p.1 p.2, n := 64, align := 64, rd := false, wr := true, spaces := spVec })
  | .vldVer m =>
    { ha := vmBase i m s, n := 64, align := 64, rd := true, wr := false, spaces := spVec }
      :: (vmPlaces m).map (fun p =>
        { ha := vmAddr (vmBase i m s) m p.1 p.2, n := 64, align := 64, rd := true, wr := false, spaces := spVec })
  | .hset .. => [{ ha := (s.arg i 1).toNat, n := 32, align := 32, rd := true, wr := false, spaces := [spP, spD] }]
  | _ => []

/-- An access as the checks of 09 R205 find it. -/
def State.reqAccess (s : State) (r : MemReq) : Access := s.access r.ha r.n r.rd r.wr r.spaces

/-- The keys of every access of an instruction. -/
def memKeys (i : Instr) (s : State) : List Nat := ((memReqs i s).map (fun r => (s.reqAccess r).keys)).flatten

/-- The access is not at a multiple of its alignment. -/
def MemReq.misaligned (r : MemReq) : Bool := haOff r.ha % r.align != 0

/-- `bo.arr` makes the checks of R205 before the test of its alignment (10 R248). -/
def alignLast : Instr → Bool
  | .boArr .. => true
  | _ => false

/-- Bank groups of a core that engine operations own (07 R155). -/
def Core.owned (c : Core) : List Nat := (c.me.map (fun m => m.groups)).flatten ++ (c.atRun.map (fun m => m.groups)).flatten

/-- Keys touch a bank group that an engine operation of their core owns. -/
def State.conflict (s : State) (ks : List Nat) : Bool := (keyGroups ks).any (fun g => (s.getCore g.1).owned.contains g.2)

/-- The first fault of a list of accesses. -/
def firstFault (s : State) : List MemReq → Option (Nat × Nat)
  | [] => none
  | r :: rs =>
    match s.reqAccess r with
    | .fault c => some (c, r.ha)
    | _ => firstFault s rs

/-- The first misaligned access. -/
def firstMisaligned (rs : List MemReq) : Option (Nat × Nat) := (rs.find? (·.misaligned)).map (fun r => (cMisaligned, r.ha))

/-- The faults of the bank states and bank groups (07 R155, R157): a read of an OFF bank, an access to an owned group. -/
def bankFault (i : Instr) (s : State) : Option (Nat × Nat) :=
  let rs := memReqs i s
  match rs.find? (fun r => r.rd && s.anyOff (s.reqAccess r).keys) with
  | some r => some (cBufDrop, r.ha)
  | none => (rs.find? (fun r => s.conflict (s.reqAccess r).keys)).map (fun r => (cBankConflict, r.ha))

/-! ### The handle instructions (09 R207) -/

/-- The image of `hset`: 32 bytes as an entry, read at issue (04 R82). -/
def State.hImage (s : State) (ha : Nat) : Option HEnt :=
  match s.access ha 32 true false [spP, spD] with
  | .ok _ ks => some (if s.core.iss.now then (s.core.iss.capV.headD 0).setWidth 256 else BitVec.ofNat 256 (leNat (s.rdKeys ks)))
  | _ => none

/-- A software entry in a local space lies within the fixed handle of its space and has no right beyond it (09 R204). -/
def localOk (fixed e : HEnt) : Bool :=
  decide (hBase e + hBound e ≤ hBound fixed) && (!hRd e || hRd fixed) && (!hWr e || hWr fixed)
    && decide (hEngm e &&& hEngm fixed = hEngm e)

/-- The image of `hset` may be written (09 R207). -/
def State.imageOk (s : State) (e : HEnt) : Bool :=
  hValid e && hPart e == s.part && decide (hSpace e ≤ 9) && decide (hCpol e ≤ 1) && hRsv e == 0
    && (match fixedHandle (hSpace e) with
        | some f => localOk (s.hEnt s.station s.part f) e
        | none => true)
    && (hSpace e == spX || (hPeer e == 0 && hPort e == 0))
    && (hSpace e == spG || !hDur e)
    && (!(hSpace e == spG || hSpace e == spH) || decide (hBase e < 2 ^ 56))

/-- The handle-set fault (09 R207); an image in a bank that cannot be read raises the fault of the bank (05 R111, 07 R155, R157). -/
def handleFault (i : Instr) (s : State) : Option TrapInfo :=
  let t (ha : Nat) : TrapInfo := { code := cHandleSet, part := 2, addr := ha }
  match i with
  | .hset .. =>
    let h := (s.arg i 0).toNat % 4096
    let b := (s.arg i 1).toNat
    if h < 8 || haOff b % 32 ≠ 0 then some (t b)
    else
      match s.hImage b with
      | none => some (t b)
      | some e =>
        match bankFault i s with
        | some x => some (accessTrap .m x.1 x.2)
        | none => if s.imageOk e then none else some (t b)
  | .hinv .. => if (s.arg i 0).toNat % 4096 < 8 then some (t 0) else none
  | _ => none

/-- The faults of the memory instructions (10 R242). -/
def memFault (i : Instr) (s : State) : Option TrapInfo :=
  match handleFault i s with
  | some t => some t
  | none =>
    let rs := memReqs i s
    let f := if alignLast i then (firstFault s rs).or (firstMisaligned rs) else (firstMisaligned rs).or (firstFault s rs)
    (f.or (bankFault i s)).map (fun x => accessTrap .m x.1 x.2)

/-! ### Holds before issue -/

/-- An access that misses its translation. -/
def firstMiss (s : State) : List MemReq → Option (Nat × Bool × Bool × Nat)
  | [] => none
  | r :: rs =>
    match s.reqAccess r with
    | .miss va sp => some (va, r.rd, r.wr, sp)
    | _ => firstMiss s rs

/-- A deferred operation of a flight that is a store, atomic or arrival (10 R250). -/
def leavesLease : Instr → Bool
  | .st .. | .vst _ | .amo .. | .cas .. | .boArr .. | .dstc .. => true
  | _ => false

/-- Operations with Q of all contexts of a core that have not come to their due cycle, those held at a trap too (16 R379). -/
def Core.defers (c : Core) : List Defer := (c.contexts.map Ctx.defers).flatten

/-- Stores, atomics and arrivals of the core that are not performed (10 R242): one with Q counts from its issue (R250). -/
def State.unperformed (s : State) : Nat :=
  (s.core.leases.filter (fun l => leavesLease l.ins)).length + (s.core.defers.filter (fun d => leavesLease d.ins)).length

/-- A publication. -/
def isPub : Instr → Bool
  | .tlPub .. => true
  | _ => false

/-- An entry leads to the checkpoint domain. -/
def durEnt (e : HEnt) : Bool := hSpace e == spG && hDur e

/-- An operation writes through an access whose entry is durable. -/
def durAcc (acc : List (MemReq × Access)) : Bool := acc.any (fun a => a.1.wr && (match a.2 with
  | .ok e _ => durEnt e
  | _ => false))

/-- Publications of a context that are neither written nor discarded (10 R250), their commands, and those with Q. -/
def Ctx.pubsOpen (x : Ctx) (durableOnly : Bool) : Bool :=
  let f := fun (t : Timeline) => t.livePubs.any (fun p => !durableOnly || p.durable)
  f x.tlMe || f x.tlCe || f x.tlVp || f x.tlAt
    || x.cmds.any (fun m => isPub m.ins && (!durableOnly || m.nums.getD 1 0 == 1))
    || x.defers.any (fun d => isPub d.ins && (!durableOnly || durAcc d.acc))

/-- The barrier object at an address (10 R247): EXPECTED, ARRIVED, PHASE, malformed. -/
def boRead (s : State) (ks : List Nat) : Nat := leNat (s.rdKeys ks)
def boExpected (o : Nat) : Nat := o % 2 ^ 16
def boArrived (o : Nat) : Nat := o / 2 ^ 16 % 2 ^ 16
def boPhase (o : Nat) : Nat := o / 2 ^ 32 % 16
def boMalformed (o : Nat) : Bool := boExpected o == 0 || o / 2 ^ 37 % 2 ^ 27 != 0

/-- What an operation with Q reads or writes: its byte keys. -/
def Defer.keys (d : Defer) : List Nat := (d.acc.map (fun a => a.2.keys)).flatten

/-- Keys of a buffer: its accesses have their own order (07 R174). -/
def bufKeys (ks : List Nat) : Bool := ks.any (fun k => (bufOf k).isSome)

/-- Two accesses must keep their issue order: those in the lease order and those to the host always (10 R228, R232), those to a buffer
where they meet and one of them writes (07 R174). -/
def mustFollow (bufA bufB wrA wrB : Bool) (ksA ksB : List Nat) : Bool :=
  if bufA || bufB then bufA && bufB && (wrA || wrB) && ksA.any ksB.contains else true

/-- An operation with Q is a memory access: those with a load, a store or both. -/
def accesses : Instr → Bool
  | .ld .. | .st .. | .vld _ | .vst _ | .vldVer _ | .amo .. | .cas .. | .boArr .. | .dstc .. | .dldc .. => true
  | _ => false

/-- An access stands before another of its core: it issued earlier, and they keep their order (10 R228; 07 R174). -/
def Defer.before (d : Defer) (serial : Nat) (buf wr : Bool) (ks : List Nat) : Bool :=
  accesses d.ins && decide (d.serial < serial) && mustFollow (bufKeys d.keys) buf (leavesLease d.ins) wr d.keys ks

/-- An access that issued earlier with Q stands before an access: it takes its place at its due cycle (04 R86; 10 R228). -/
def Flight.qAhead (f : Flight) (serial : Nat) (buf wr : Bool) (ks : List Nat) : Bool := f.defer.any (fun d => d.before serial buf wr ks)

/-- An access that is not performed stands before one with Q at its due cycle. -/
def Core.leaseAhead (c : Core) (serial : Nat) (buf wr : Bool) (ks : List Nat) : Bool :=
  c.leases.any (fun l => decide (l.ord < serial) && mustFollow l.buf buf (leavesLease l.ins) wr l.keys ks)

/-- The version word that `vld.ver` reads is even (07 R175): bytes 8 to 15 of its header, the first 64 keys. -/
def State.verEven (s : State) (i : Instr) (keys : List Nat) : Bool :=
  match i with
  | .vldVer _ => leNat (s.rdKeys ((keys.drop 8).take 8)) % 2 == 0
  | _ => true

/-- A lease access that stores is not performed before its bundle is compared, nor before five cycles after its issue (10 R242). -/
def State.uncompared (s : State) (i : Instr) (buf : Bool) (bundle clk : Nat) : Bool :=
  !buf && leavesLease i && (decide (s.core.checked < bundle) || decide (s.core.ccyc < clk + 5))

/-- What is awaited waits for an operation with Q: it is one of the awaited operations `p`, or an access that stands before one of them or before an
awaited access `q` that is not performed. -/
def Flight.awaits (f : Flight) (ls : List Lease) (p : Defer → Bool) (q : Lease → Bool) (d : Defer) : Bool :=
  p d || f.defer.any (fun e => p e && accesses e.ins && d.before e.serial (bufKeys e.keys) (leavesLease e.ins) e.keys)
    || ls.any (fun l => q l && d.before l.ord l.buf (leavesLease l.ins) l.keys)

/-- The operations with Q that a freeze waits for come to their due cycle in it: their cycles go on while the core is frozen for them
(10 R250; log 122). -/
def State.hasten (s : State) (p : Defer → Bool) (q : Lease → Bool) : State :=
  s.mapFl (fun f => { f with defer := f.defer.map (fun d =>
    if f.awaits s.core.leases p q d && decide (s.core.icyc < d.due) then { d with due := d.due - 1 } else d) })

/-- A publication of a context, perhaps only a durable one, is open that issued with a bundle or later: the accesses of that bundle are
performed before it is written (10 R255). -/
def Ctx.pubFrom (x : Ctx) (durableOnly : Bool) (bundle : Nat) : Bool :=
  [x.tlMe, x.tlCe, x.tlVp, x.tlAt].any (fun t => t.livePubs.any (fun p => (!durableOnly || p.durable) && decide (bundle ≤ p.bundle)))
    || x.cmds.any (fun m => isPub m.ins && (!durableOnly || m.nums.getD 1 0 == 1) && decide (bundle ≤ m.bundle))
    || x.defers.any (fun d => isPub d.ins && (!durableOnly || durAcc d.acc) && decide (bundle ≤ d.bundle))

/-- A wait for the core's stores: stores, atomics, arrivals and publications with Q come to their due cycle, and accesses that a publication
waits for (10 R242, R250). -/
def State.hastenStores (s : State) : State :=
  s.hasten (fun d => leavesLease d.ins || isPub d.ins || (accesses d.ins && s.core.ctx.pubFrom false d.bundle)) (fun l => leavesLease l.ins)

/-- A wait for the accesses to D, G and H that issued before (10 R228, R249). -/
def State.hastenLeases (s : State) : State := s.hasten (fun d => accesses d.ins && !bufKeys d.keys) (fun _ => false)

/-- The same for every operation with Q: of a launch context whose task has ended, which runs no further bundle (12 R312). -/
def State.hastenAll (s : State) : State :=
  s.mapFl (fun f => { f with defer := f.defer.map (fun d => if s.core.icyc < d.due then { d with due := d.due - 1 } else d) })

/-- A `bo.wait` may read its object: the accesses that issued before it, those with Q too, are performed (10 R228). -/
def boReads (i : Instr) (s : State) : Bool :=
  s.core.leases.all (·.buf) && !s.core.ctx.fl.qAhead (s.core.serial + 1) false false (memKeys i s)

/-- `bo.wait` may issue (10 R249): the object that it reads is malformed or in another phase. -/
def boReady (i : Instr) (s : State) : Bool :=
  let o := boRead s (memKeys i s)
  boReads i s && (boMalformed o || boPhase o != (s.arg i 1).toNat % 16)

/-- The freeze of `bo.wait`; one whose bound has passed ends with a last read. -/
def boHold (i : Instr) (s : State) : Option Hold :=
  if boReady i s then none
  else if s.core.wait.any (fun w => w.expired || (w.boundM != 0 && decide (w.boundM ≤ w.elapsed))) && !boReads i s then
    some { cls := .late, start := State.hastenLeases, each := State.hastenLeases }
  else some { cls := .wait, bound := (s.arg i 2).toNat, kind := 3, each := State.hastenLeases }

/-- `hset` reads its image at its issue, with Q too (04 R82; 09 R208). -/
def isHset : Instr → Bool
  | .hset .. => true
  | _ => false

/-- What holds a memory instruction before its issue (04 R89; 09 R214; 10 R242, R249, R250; 05 R112). One with Q keeps its order at its
due cycle. -/
def memHold (i : Instr) (s : State) : Option Hold :=
  match firstMiss s (memReqs i s) with
  | some (va, rd, wr, sp) => some { cls := .late, start := fun s => s.askWalk { core := s.cix, part := s.part, va := va, rd := rd, wr := wr, space := sp } }
  | none =>
    let ks := memKeys i s
    if (memReqs i s).any (fun r => r.rd && s.anyAsleep (s.reqAccess r).keys) then some { cls := .wake, start := fun s => s.startWakes ks, room := isHset i }
    else
      match i with
      | .boWait .. => boHold i s
      | .fence _ => if s.unperformed = 0 && !s.core.ctx.pubsOpen false then none else some { cls := .wait, kind := 3, each := State.hastenStores }
      | _ =>
        if s.core.iss.now then
          if (!s.uncompared i (bufKeys ks) s.bundleNo s.issueClk && (s.core.leaseAhead s.core.iss.ser (bufKeys ks) (leavesLease i) ks
              || s.core.ctx.fl.qAhead s.core.iss.ser (bufKeys ks) (leavesLease i) ks)) || !s.verEven i ks then
            some { cls := .late } else none
        else if leavesLease i && decide (32 ≤ s.unperformed) then some { cls := .wait, kind := 3, room := true, each := State.hastenStores }
        else none

/-- The data block of `vst`, as read at issue. -/
def vstData (m : VMem) (s : State) : List Vec :=
  match s.core.iss.cap with
  | some _ => s.core.iss.capV
  | none => (s.rblock (srcTag .m 3) m.v (m.h.toNat + 1) (m.w.toNat + 1)).flatten

/-- The family of the memory instructions. -/
def famMem : Family :=
  { fault := memFault, hold := memHold, reqs := memReqs
    data := fun i s => match i with
      | .vst m => vstData m s
      | .hset .. => [((s.hImage (s.arg i 1).toNat).getD 0).setWidth 512]
      | _ => [] }

/-! ### Latencies (10 R243, 07 R174) -/

def ldLat (sp : Nat) : Nat := if sp = spD then 64 else if sp = spG then 256 else if sp = spH then 1024 else 4
def amoLat (sp : Nat) : Nat := if sp = spG then 512 else 96

/-- Space of the entry that the first access names: the smallest latency of the row where it may not be touched (10 R243). -/
def reqSpace (i : Instr) (s : State) : Nat :=
  match memReqs i s with
  | [] => spP
  | r :: _ =>
    let e := s.hEnt s.station s.part (haHandle r.ha)
    if hValid e && haHandle r.ha ≠ 7 && hCpol e ≤ 1 && r.spaces.contains (hSpace e) then hSpace e else spP

/-- The latency of a memory instruction. -/
def memLat (i : Instr) (s : State) : Nat :=
  match i with
  | .ld .. | .dldc .. => let sp := reqSpace i s; if sp = spK then 64 else ldLat sp
  | .amo .. | .cas .. | .boArr .. => amoLat (reqSpace i s)
  | .vld m => (if reqSpace i s = spD then 64 else 4) + cdiv ((m.h.toNat + 1) * (m.w.toNat + 1)) 2
  | .vldVer m => (if reqSpace i s = spD then 68 else 8) + cdiv ((m.h.toNat + 1) * (m.w.toNat + 1)) 2
  | .hset .. | .hinv .. => 16
  | _ => 1

/-! ### Performing accesses (10 R228, R229, R242) -/

/-- A loaded value extended (10 R244). -/
def ldExtend (sz : LdSize) (v : Nat) : Word :=
  match sz with
  | .b => BitVec.ofInt 64 (sextInt v 8)
  | .bn => BitVec.ofNat 64 (v % 2 ^ 8)
  | .h => BitVec.ofInt 64 (sextInt v 16)
  | .hn => BitVec.ofNat 64 (v % 2 ^ 16)
  | .w => BitVec.ofInt 64 (sextInt v 32)
  | .wn => BitVec.ofNat 64 (v % 2 ^ 32)
  | .d => BitVec.ofNat 64 v

/-- The new value of an atomic on `n` bytes (10 R245). -/
def amoNew (op : AmoOp) (n old y : Nat) : Nat :=
  let w := 8 * n
  let y := y % 2 ^ w
  match op with
  | .add => (old + y) % 2 ^ w
  | .and => old &&& y
  | .or => old ||| y
  | .xor => old ^^^ y
  | .min => if sextInt old w ≤ sextInt y w then old else y
  | .max => if sextInt old w ≤ sextInt y w then y else old
  | .minn => min old y
  | .maxn => max old y
  | .swap => y

/-- One arrival at a barrier object (10 R248): the object after it, the result word, whether it is written. -/
def boArrive (o k stroke : Nat) : Nat × Nat × Bool :=
  let a := boArrived o
  let rest := o / 2 ^ 36 * 2 ^ 36
  let res (arr code : Nat) : Nat := put arr 16 + put (boPhase o) 8 + code
  if boMalformed o || k = 0 || 65535 < k then (o, res a 3, false)
  else if boExpected o < a + k then (if tbit o 36 then o else o + 2 ^ 36, res a 2, true)
  else if a + k = boExpected o then
    (boExpected o + put ((boPhase o + 1) % 16) 32 + rest % 2 ^ 64 + put (stroke % 2 ^ 64) 64, res 0 1, true)
  else (boExpected o + put (a + k) 16 + put (boPhase o) 32 + rest, res (a + k) 0, true)

/-- A write to the keep tier under a durable handle is on its way to the checkpoint domain (17 R404). -/
def State.markDurable (s : State) (durable : Bool) (l : List (Nat × Byte)) : State :=
  if durable then { s with durq := s.durq ++ [{ core := s.cix, bytes := l }] } else s

/-- Bytes written by the control core, with what durability asks. -/
def State.coreWrite (s : State) (durable : Bool) (ks : List Nat) (bs : List Byte) : State :=
  (s.store (List.zip ks bs)).markDurable durable (List.zip ks bs)

/-- A raw check byte written (16 R402). -/
def State.putCheck (s : State) (w : Nat) (b : Byte) : State :=
  { s with chk := Tab.set none s.chk w (if b.toNat = eccByte (s.rdLE (8 * w) 8) then none else some b) }

/-- Splits bytes into registers of 64. -/
def regBytes (l : List Byte) : Nat → List Vec
  | 0 => []
  | k + 1 => BitVec.ofNat 512 (leNat (l.take 64)) :: regBytes (l.drop 64) k

/-- Values delivered to consecutive serial numbers. -/
def State.deliverVs (s : State) (n : Nat) : List Vec → State
  | [] => s
  | v :: vs => (s.mapCore (fun c => c.deliver n v)).deliverVs (n + 1) vs

/-- An access reads its bytes: what is correctable is corrected, an uncorrectable word is reported (16 R393). A store reads nothing, and a raw
check byte reports nothing (R402). -/
def State.readFor (s : State) (l : Lease) : State :=
  match l.ins with
  | .ld .. | .vld _ | .vldVer _ | .amo .. | .cas .. | .boArr .. => s.consumeFor l.own l.keys l.space l.ha l.phase
  | _ => s

/-- An access takes its place in the lease order (10 R228): what it reads is delivered, what it writes is written. -/
def State.perform (s : State) (l : Lease) : State :=
  let s := s.readFor l
  let arg := fun k => (l.caps.getD k 0).toNat
  let old := leNat (s.rdKeys l.keys)
  let n := l.keys.length
  match l.ins with
  | .ld sz .. => s.deliver l.serial (ldExtend sz old)
  | .st sz .. => s.coreWrite l.durable l.keys (leBytes (arg 1) (stBytes sz))
  | .vld _ => s.deliverVs l.serial (regBytes (s.rdKeys l.keys) (n / 64))
  | .vldVer _ => s.deliverVs l.serial (regBytes (s.rdKeys (l.keys.drop 64)) (n / 64 - 1))
  | .vst _ => s.coreWrite l.durable l.keys ((l.vdata.map (fun v => leBytes v.toNat 64)).flatten)
  | .amo op dw .. =>
    let b := atomBytes dw
    (s.coreWrite l.durable l.keys (leBytes (amoNew op b old (arg 1)) b)).deliver l.serial (BitVec.ofInt 64 (sextInt old (8 * b)))
  | .cas dw .. =>
    let b := atomBytes dw
    let s1 := if old = arg 1 % 2 ^ (8 * b) then s.coreWrite l.durable l.keys (leBytes (arg 2) b) else s
    s1.deliver l.serial (BitVec.ofInt 64 (sextInt old (8 * b)))
  | .boArr .. =>
    let (o, r, w) := boArrive old (arg 1) s.stroke
    (if w then s.coreWrite l.durable l.keys (leBytes o 16) else s).deliver l.serial (BitVec.ofNat 64 r)
  | .dstc .. =>
    let s1 := s.coreWrite l.durable l.keys (leBytes (arg 1) 8)
    s1.putCheck (l.keys.headD 0 / 8) (BitVec.ofNat 8 (arg 2))
  | .dldc .. => s.deliver l.serial (BitVec.ofNat 64 (s.chkOf (l.keys.headD 0 / 8)))
  | _ => s

/-- Results of an access come into flight. -/
def State.awaitAll (s : State) (lat n : Nat) : List (Bool × Nat) → State
  | [] => s
  | (isV, r) :: t =>
    (s.result .m (if isV then ⟨.v, physV s.core.ctx.f r⟩ else ⟨.s, r⟩) 0 (BitVec.allOnes 512) lat (some n)).awaitAll lat (n + 1) t

/-- Atomics and `bo.arr` store and answer. -/
def isAtomic : Instr → Bool
  | .amo .. | .cas .. | .boArr .. => true
  | _ => false

/-- An access takes its place among those of its core, in issue order. -/
def insertLease (l : Lease) : List Lease → List Lease
  | [] => [l]
  | o :: os => if l.ord < o.ord then l :: o :: os else o :: insertLease l os

/-- An access joins those still to be performed, or is performed at once: a store of a lease access waits for its comparison, and every
access for those of its core that issued before it. -/
def State.joins (s : State) (l : Lease) : Bool :=
  let wr := leavesLease l.ins
  (!l.buf && wr && !s.core.iss.now) || !s.verEven l.ins l.keys
    || (if s.core.iss.now then s.uncompared l.ins l.buf l.bundle l.clk
        else s.core.leaseAhead l.ord l.buf wr l.keys || s.core.ctx.fl.qAhead l.ord l.buf wr l.keys)

/-- The handle address an instruction accesses first. -/
def memHa (i : Instr) (s : State) : Nat := match memReqs i s with
  | [] => 0
  | r :: _ => r.ha

/-- The access of an instruction that has passed its checks, under an entry: its results come into flight, and it joins the accesses that are
still to be performed, or is performed at once. -/
def State.accessOp (i : Instr) (keys : List Nat) (e : HEnt) (vdata : List Vec) (s : State) : State :=
  let n := s.core.serial + 1
  let ds := leaseDests i
  let l : Lease :=
    { ins := i, caps := s.args i, vdata := vdata, keys := keys, serial := n
      bundle := s.bundleNo, durable := durEnt e, clk := s.issueClk, buf := decide (hSpace e < 4) || hSpace e == spK, ord := s.nextSerial
      space := hSpace e, ha := memHa i s, phase := s.core.ctx.phase, own := s.core.ctx.cid }
  let s1 := ((s.mapCore (fun c => { c with serial := c.serial + max 1 ds.length })).awaitAll (memLat i s) n ds).mapFl (fun f =>
    { f with pend := f.pend.map (fun p => if p.unit = some n then { p with store := isAtomic i } else p) })
  if s.joins l then s1.mapCore (fun c => { c with leases := insertLease l c.leases }) else s1.perform l

/-- The entry that an access uses. -/
def Access.ent : Access → HEnt
  | .ok e _ => e
  | _ => 0

/-- The effect of a memory instruction. -/
def State.memOp (i : Instr) (vdata : List Vec) (s : State) : State :=
  let rs := memReqs i s
  let as_ := rs.map s.reqAccess
  let keys := (as_.map Access.keys).flatten
  s.accessOp i keys (as_.headD (.fault 0)).ent vdata

/-- Issue of a memory instruction. -/
def memIssue (i : Instr) (s : State) : Host.Outcome State Fault Refusal := issue famMem i (memLat i) (State.memOp i []) s

/-- `ld` (10 R244). -/
def execLd (size : LdSize) (d base : Reg) (handle : BitVec 12) (imm : BitVec 20) (s : State) : Host.Outcome State Fault Refusal :=
  memIssue (.ld size d base handle imm) s

/-- `st` (10 R244). -/
def execSt (size : StSize) (src base : Reg) (handle : BitVec 12) (imm : BitVec 20) (s : State) : Host.Outcome State Fault Refusal :=
  memIssue (.st size src base handle imm) s

/-- `amo` (10 R245). -/
def execAmo (op : AmoOp) (dword : Bool) (scope : Scope) (d base b : Reg) (handle : BitVec 12) (imm : BitVec 20) (s : State) :
    Host.Outcome State Fault Refusal := memIssue (.amo op dword scope d base b handle imm) s

/-- `cas` (10 R246). -/
def execCas (dword : Bool) (scope : Scope) (d base b c : Reg) (handle : BitVec 12) (imm : BitVec 18) (s : State) :
    Host.Outcome State Fault Refusal := memIssue (.cas dword scope d base b c handle imm) s

/-- `bo.arr` (10 R248). -/
def execBoArr (d base b : Reg) (handle : BitVec 12) (imm : BitVec 20) (s : State) : Host.Outcome State Fault Refusal :=
  memIssue (.boArr d base b handle imm) s

/-- `vld` (07 R173). -/
def execVld (m : VMem) (s : State) : Host.Outcome State Fault Refusal := memIssue (.vld m) s

/-- `vld.ver` (07 R175): the block of one even version; while the version is odd its data is late. -/
def execVldVer (m : VMem) (s : State) : Host.Outcome State Fault Refusal := memIssue (.vldVer m) s

/-- `vst` (07 R173): an OFF bank among its source rows drops the bundle, a RET bank holds it (05 R112, R115). -/
def execVst (m : VMem) (s : State) : Host.Outcome State Fault Refusal :=
  issue famMem (.vst m) (fun _ => 1) (fun s => s.memOp (.vst m) (vstData m s)) s

/-- The value of `bo.wait` (10 R249). -/
def boWaitVal (i : Instr) (s : State) : Word :=
  let o := boRead s (memKeys i s)
  let code := if boMalformed o then 3 else if boPhase o != (s.arg i 1).toNat % 16 then 0 else 1
  BitVec.ofNat 64 (put (boPhase o) 8 + code)

/-- `bo.wait` (10 R249). -/
def execBoWait (d base b e : Reg) (handle : BitVec 12) (imm : BitVec 20) (s : State) : Host.Outcome State Fault Refusal :=
  let i : Instr := .boWait d base b e handle imm
  issue famMem i (fun _ => 1) (fun s =>
    let t := s.consume (memKeys i s) (s.spaceOf (memHa i s)) (memHa i s) s.core.ctx.phase
    t.setS .m d (boWaitVal i t) 1) s

/-- `fence` (10 R250): once nothing of the core is unperformed it has no further effect. -/
def execFence (scope : Scope) (s : State) : Host.Outcome State Fault Refusal := issue famMem (.fence scope) (fun _ => 1) id s

/-- `dstc` (16 R402). -/
def execDstc (c base b : Reg) (handle : BitVec 12) (imm : BitVec 20) (s : State) : Host.Outcome State Fault Refusal :=
  memIssue (.dstc c base b handle imm) s

/-- `dldc` (16 R402). -/
def execDldc (d base : Reg) (handle : BitVec 12) (imm : BitVec 20) (s : State) : Host.Outcome State Fault Refusal :=
  memIssue (.dldc d base handle imm) s

/-- The command of `hset` carries the image read at issue (09 R207); the core is frozen until it is applied (R208), with Q at c+16. -/
def State.handleCmd (i : Instr) (img : HEnt) (s : State) : State :=
  let q := s.mustDefer i
  let s1 := s.sendCmd i []
  let n := s.nextSerial
  s1.mapCore (fun c => { c with holdCmd := some n,
                                ctx := { c.ctx with cmds := c.ctx.cmds.map (fun m => if m.serial = n then
                                  { m with ent := [(0, img)], qiat := if q then some c.icyc else none, ready := if q then c.ccyc + 16 else 0 } else m) } })

/-- The write of an entry (09 R207): the whole image for `hset`, VALID alone for `hinv`. -/
def State.applyHandle (s : State) (m : Cmd) : State :=
  let h := (m.caps.getD 0 0).toNat % 4096
  let k := hKey s.station s.part h
  let e := match m.ins with
    | .hset .. => (m.ent.headD (0, 0)).2
    | _ => (Tab.get 0 s.handles k) &&& ~~~(1#256 <<< 131)
  { s with handles := Tab.set 0 s.handles k e }.mapCore (fun c => { c with holdCmd := if c.holdCmd = some m.serial then none else c.holdCmd })

/-- Issue of `hset` and `hinv`: the freeze begins at c+1, with Q too, where the operation does not end in its fault at c+16 (09 R208). -/
def handleIssue (i : Instr) (eff : State → State) (s : State) : Host.Outcome State Fault Refusal :=
  if s.core.iss.checked && s.mustDefer i && (memFault i s).isNone then .next (eff s) else issue famMem i (fun _ => 16) eff s

/-- `hset` (09 R207, R208). -/
def execHset (a b : Reg) (s : State) : Host.Outcome State Fault Refusal :=
  let i : Instr := .hset a b
  handleIssue i (fun s =>
    let ha := (s.arg i 1).toNat
    let t := s.consume (s.access ha 32 true false [spP, spD]).keys (s.spaceOf ha) ha s.core.ctx.phase
    t.handleCmd i ((t.hImage ha).getD 0)) s

/-- `hinv` (09 R207, R208). -/
def execHinv (a : Reg) (s : State) : Host.Outcome State Fault Refusal :=
  handleIssue (.hinv a) (fun s => s.handleCmd (.hinv a) 0) s

/-! ### Events of the order (10 R228, R229, R249) -/

/-- An access may be performed: nothing that issued before it with Q stands before it, a version read is even, and a bundle that stores is
compared, or the core waits for its stores (log 20; not while an error is to be contained, R387), and five cycles have passed since its issue (10 R242, R249, R250). -/
def State.leaseReady (s : State) (l : Lease) : Bool :=
  !s.core.ctx.fl.qAhead l.ord l.buf (leavesLease l.ins) l.keys && s.verEven l.ins l.keys
    && (l.buf || !leavesLease l.ins || ((decide (l.bundle ≤ s.core.checked) || (s.core.wait.any (·.stores) && s.core.err.isNone)) && decide (l.clk + 5 ≤ s.core.ccyc)))

/-- The oldest access in the lease order and the oldest to a buffer: the first of them that may be performed. -/
def State.nextLease (s : State) : Option Lease :=
  ((s.core.leases.find? (fun l => !l.buf)).toList ++ (s.core.leases.find? (fun l => l.buf)).toList).find? s.leaseReady

/-- STORE_PERFORM: the oldest unperformed access takes its place in its order; nothing happens where none may. -/
def State.performNext (s : State) : State :=
  match s.nextLease with
  | none => s
  | some l => (s.mapCore (fun c => { c with leases := c.leases.erase l })).perform l

def execStorePerform (s : State) : Host.Outcome State Fault Refusal := .next s.performNext

/-- RESULT_LANDING: every result due at the current cycle lands (04 R81, 05 R114). -/
def execResultLanding (s : State) : Host.Outcome State Fault Refusal := .next s.landDue

/-- The bound of a wait passes: the cycles left of it go by, frozen, and the wait ends on time (07 R169). -/
def State.expireWait (s : State) : State :=
  match s.core.wait with
  | none => s
  | some w =>
    let b := max w.bound w.boundM
    if b = 0 then s
    else
      let n := b - w.elapsed
      ((s.mapCore (fun c => { c with wait := some { w with elapsed := w.elapsed + n, expired := true } })).mapCtr
        (fun k => { k with frzCyc := k.frzCyc + BitVec.ofNat 64 n })).tick n

/-- BO_WAIT_TIMEOUT (10 R249). -/
def execBoWaitTimeout (s : State) : Host.Outcome State Fault Refusal := .next s.expireWait

/-- Bytes are in the checkpoint domain: what their places held before is over (17 R404). -/
def State.intoDomain (s : State) (l : List Host.Cell) : State :=
  { s with
    dom := l.foldl (fun m p => Tab.put m p.1 p.2) s.dom
    past := l.foldl (fun t p => if s.rd1 p.1 = p.2 then Tab.erase t p.1 else Tab.upd [] t p.1 (fun vs => vs.takeWhile (· != p.2) ++ [p.2])) s.past }

/-- DURABLE_WRITE_IN_CHECKPOINT_DOMAIN: the oldest durable write arrives (17 R404, R405; log 149). -/
def State.durableArrive (s : State) : State :=
  match s.durq with
  | [] => s
  | d :: rest => { s with durq := rest }.intoDomain d.bytes

/-- A walk has ended for a miss: a fault goes to the access that waits for it, a leaf that serves it to the TLBs (09 R212, R214). -/
def State.walkServe (s : State) (r : Tr) (w : Walk) : State :=
  let bad := fun c => if w.ahead then s else { s with walkFault := (w, c) :: s.walkFault }
  match r with
  | .bad c => bad c
  | .ok leaf size =>
    match leafUse leaf w.rd w.wr w.space with
    | some c => bad c
    | none => s.tlbPut w.core w.part w.va leaf size

/-- The context that a walk of the core in focus serves, and its phase: that of the copy that asked, else of the running stream. -/
def State.askerOf (s : State) (w : Walk) : Nat × Nat :=
  let x := s.core.ctx
  match w.copy with
  | some (n, own) => (own, ((s.core.copies.find? (fun k => k.num == n && k.owner == own)).map (·.phase)).getD x.phase)
  | none => (x.cid, x.phase)

/-- PAGE_WALK_END (09 R212 to R214): the oldest walk of a control core ends. Every miss of its die that joined it takes its result, and its
leaf serves every queued miss that it covers. -/
def State.walkEnd (s : State) : State :=
  match s.walks with
  | [] => s
  | w :: _ =>
    let s := s.onCore w.core (fun s => s.cleanWalk (s.askerOf w).1 (s.askerOf w).2 w.part w.va)
    let r := s.walk w.part w.va
    let size := match r with
      | .ok _ size => size
      | .bad _ => 65536
    let hit := fun (o : Walk) => o.part == w.part && o.va / size == w.va / size && stationOf o.core == stationOf w.core
    (s.walks.filter hit).foldl (fun s o => s.walkServe r o) { s with walks := s.walks.filter (fun o => !hit o) }

def execPageWalkEnd (s : State) : Host.Outcome State Fault Refusal := .next s.walkEnd

end Sys2Proof.Machine
end

