-- ==== Sys2Proof/Machine/Buffers.lean ====
section
/-! DEFINITION. Circular buffers: descriptors, pointers, phase commit, and the cb instructions (spec 07 R158 to R171). -/

namespace Sys2Proof.Machine

/-! ### Slots and counts (07 R160, R161) -/

def CbDesc.n (d : CbDesc) : Nat := d.nslot + 1

/-- Slot size with its trailer (07 R160). -/
def CbDesc.size (d : CbDesc) : Nat := 64 * d.slotsz + 64 * cdiv d.trl 64

/-- Offset of a slot within its handle, the slot taken modulo N. -/
def CbDesc.off (d : CbDesc) (k : Nat) : Nat := d.base + k % d.n * d.size

/-- Handle address of a slot, of its trailer. -/
def CbDesc.ha (d : CbDesc) (k : Nat) : Nat := d.handle * 2 ^ 52 + d.off k
def CbDesc.trailer (d : CbDesc) (k : Nat) : Nat := haAdd (d.ha k) (64 * d.slotsz)

/-- A pointer moved on by `n` slots, modulo 2N. -/
def CbDesc.adv (d : CbDesc) (p n : Nat) : Nat := (p + n) % (2 * d.n)

/-- Slots from one pointer to another. -/
def CbDesc.dist (d : CbDesc) (a b : Nat) : Nat := (a + 2 * d.n - b) % (2 * d.n)

def CbDesc.room (d : CbDesc) : Nat := d.n - d.dist d.pptr d.fptr
def CbDesc.avail (d : CbDesc) : Nat := d.dist d.vptr d.cptr

/-- The slot most recently made visible (07 R163; 04 R99). -/
def CbDesc.last (d : CbDesc) : Nat := (d.vptr + 2 * d.n - 1) % d.n

/-- Descriptor k of a context. -/
def Ctx.cbk (x : Ctx) (k : Nat) : CbDesc := Tab.get {} x.cb k

def Ctx.updCb (x : Ctx) (k : Nat) (f : CbDesc → CbDesc) : Ctx := { x with cb := Tab.upd {} x.cb k f }

/-- Slots from the consumer pointer on that are available: none from a slot whose refetch is under way (07 R161, 16 R392). -/
def Core.cbAvail (c : Core) (x : Ctx) (k : Nat) : Nat :=
  let d := x.cbk k
  ((List.range d.avail).takeWhile (fun i =>
    !(c.refetch.any (fun r => r.busy && r.owner == x.cid && r.cb == k && r.slot == (d.cptr + i) % d.n)))).length

/-- Engines and copies do not see what a command has done to a buffer before it is compared, nor before four cycles after its issue
(07 R165). -/
def Cmd.hidden (m : Cmd) (now : Nat) : Bool := m.sent.isNone || decide (now < m.clk + 4)

/-- Pushes that the engines do not see yet. -/
def Ctx.hiddenPush (x : Ctx) (k now : Nat) : Nat :=
  if (x.cbk k).vrel then 0
  else (x.cmds.map (fun m => match m.ins with
    | .cbPush cb n => if m.hidden now && cb.toNat == k then n.toNat else 0
    | _ => 0)).foldl (· + ·) 0

/-- A descriptor as agents outside the core see it: a `cb.set` reaches them once it is compared (07 R165). -/
def Ctx.cbOut (x : Ctx) (k now : Nat) : CbDesc :=
  match x.cmds.find? (fun m => m.hidden now && m.old.isSome && (match m.ins with
    | .cbSet cb _ => cb.toNat == k
    | _ => false)) with
  | some m => m.old.getD {}
  | none => x.cbk k

/-- A descriptor of the running context of a core as others see it now. -/
def Core.cbShown (c : Core) (k : Nat) : CbDesc := c.ctx.cbOut k c.ccyc

/-- What the engines count as available. -/
def Core.cbSeen (c : Core) (x : Ctx) (k : Nat) : Nat := c.cbAvail x k - x.hiddenPush k c.ccyc

/-- A producing agent completes `n` slots for an operation of phase `ph`: commits of earlier phases do not count them (07 R161,
R163). -/
def Ctx.cbFill (x : Ctx) (k n ph : Nat) : Ctx :=
  let x1 := x.updCb k (fun d =>
    let p := d.adv d.pptr n
    { d with pptr := p, vptr := if d.vrel then d.vptr else p, seen := d.seen || (!d.vrel && n != 0) })
  { x1 with commits := x1.commits.map (fun c =>
      if c.phase < ph && tbit c.mask k then { c with lateP := Tab.upd 0 c.lateP k (· + n) } else c) }

/-- A consuming agent finishes with `n` slots for an operation of phase `ph`. -/
def Ctx.cbTake (x : Ctx) (k n ph : Nat) : Ctx :=
  let x1 := x.updCb k (fun d => { d with cptr := d.adv d.cptr n })
  { x1 with commits := x1.commits.map (fun c =>
      if c.phase < ph && tbit c.mask k then { c with lateC := Tab.upd 0 c.lateC k (· + n) } else c) }

/-! ### Which buffers an operation names -/

/-- Field `f` of a template (08 R179). -/
def tf (t : BitVec 512) (f : Nat) : Nat := fld t (16 * f) 16

/-- A template with field `f` set. -/
def tfSet (t : BitVec 512) (f v : Nat) : BitVec 512 :=
  BitVec.ofNat 512 (t.toNat - put (tf t f) (16 * f) + put (v % 2 ^ 16) (16 * f))

/-- Fields that place a template in the engines' store. -/
def tmplKey (eng t : Nat) : Nat := 64 * eng + t

/-- ME control bits (08 R180). -/
def meZi (t : BitVec 512) : Bool := t.getLsbD 0
def meRl (t : BitVec 512) : Bool := t.getLsbD 1
def meDr (t : BitVec 512) : Bool := t.getLsbD 2
def meWh (t : BitVec 512) : Bool := t.getLsbD 3

/-- Buffers of an ME template: A, B, and the reload and the drain where it has them (08 R179). -/
def meBufs (t : BitVec 512) : List Nat :=
  [fld t 32 4, fld t 36 4] ++ (if meRl t then [fld t 40 4] else []) ++ (if meDr t then [fld t 44 4] else [])

/-- Buffers of an attention template (13 R333). -/
def atBufs (t : BitVec 512) : List Nat := [fld t 16 4, fld t 20 4]

/-- Buffers of its own core that a copy of core `k` names: a `cp.m` names those of the cores of its mask (09 R225). -/
def cpBufs (k : Nat) (p : CpParm) : List Nat :=
  if p.kind = .multi then (if tbit p.mask (k % 48) then [p.cb] else []) else if p.dcb || p.scb then [p.cb] else []

/-- Buffers of a CE template that a patch word issues (09 R226). -/
def ceBufs (t : BitVec 512) : List Nat := if t.getLsbD 3 || t.getLsbD 4 then [fld t 8 4] else []

/-- Template store of a context, with one amendment. -/
def Ctx.template (x : Ctx) (eng t : Nat) : BitVec 512 := Tab.get 0 x.tmpl (tmplKey eng t)

/-- One patch word on the templates: the store, and the engine and template of the operation that it issues (02 R47, R48; 08 R181). -/
def pwIssue (st : Tab (BitVec 512)) (p : PatchWord) : Tab (BitVec 512) × List (Nat × BitVec 512) :=
  let k := tmplKey p.eng.toNat p.tmpl.toNat
  let t := Tab.get 0 st k
  let t1 := if p.field = 31 || p.bits = 0 then t else tfSet t p.field.toNat p.value.toNat
  (Tab.set 0 st k t1, if p.issue then [(p.eng.toNat, t1)] else [])

/-- The template that `mm` issues: fields 0 to 11 from its registers (08 R198). -/
def mmTmpl (t : BitVec 512) (a b c : Word) : BitVec 512 :=
  BitVec.ofNat 512 (t.toNat / 2 ^ 192 * 2 ^ 192 + a.toNat + put b.toNat 64 + put c.toNat 128)

/-- Code of an engine (02 R47). -/
def engCode : Eng → Nat
  | .me => 0
  | .pae => 1
  | .dae => 2
  | .ce => 3

/-- A command that is still to reach its front: its operands, and the byte keys of the image that it loads. -/
structure Coming where
  ins : Instr
  caps : List Word
  keys : List Nat
  deriving DecidableEq, Repr

/-- The commands of the running context that are still to be applied, those with Q behind the others. -/
def Ctx.coming (x : Ctx) : List Coming :=
  x.cmds.map (fun m => { ins := m.ins, caps := m.caps, keys := m.keys }) ++ x.defers.map (fun d => { ins := d.ins, caps := d.caps, keys := d.keys })

/-- What a coming command does to the templates, and the operations that it issues through them. -/
def State.comingIssue (s : State) (st : Tab (BitVec 512)) (m : Coming) : Tab (BitVec 512) × List (Nat × BitVec 512) :=
  match m.ins with
  | .mtLd e t _ => (Tab.set 0 st (tmplKey (engCode e) t.toNat) (BitVec.ofNat 512 (leNat (s.rdKeys m.keys))), [])
  | .mm t keep .. =>
    let k := tmplKey 0 t.toNat
    let T := mmTmpl (Tab.get 0 st k) (m.caps.getD 0 0) (m.caps.getD 1 0) (m.caps.getD 2 0)
    (if keep then Tab.set 0 st k T else st, [(0, T)])
  | .patchPair hi lo =>
    let (s1, l1) := pwIssue st hi
    let (s2, l2) := pwIssue s1 lo
    (s2, l1 ++ l2)
  | _ => (st, [])

/-- The operations that coming commands issue through templates, which their fronts will find loaded, amended and kept (08 R181). -/
def State.comingOps (s : State) : List (Nat × BitVec 512) :=
  (s.core.ctx.coming.foldl (fun (a : Tab (BitVec 512) × List (Nat × BitVec 512)) m => let (st, l) := s.comingIssue a.1 m; (st, a.2 ++ l))
    (s.core.ctx.tmpl, [])).2

/-- Buffers of an operation issued through a template of an engine. -/
def opBufs (o : Nat × BitVec 512) : List Nat := if o.1 = 0 then meBufs o.2 else if o.1 = 3 then ceBufs o.2 else atBufs o.2

/-- Buffers of core `k` that a copy instruction names. -/
def Coming.bufs (m : Coming) (k : Nat) : List Nat :=
  match m.ins with
  | .cp f cb .. | .cp2d f _ cb .. | .gat f _ cb .. | .sca f _ cb .. => if f.dcb || f.scb then [cb.toNat] else []
  | .cpM _ _ cb .. => if tbit (m.caps.getD 1 0).toNat (k % 48) then [cb.toNat] else []
  | _ => []

/-- Every buffer that an engine operation, a copy or a commit record of a context names (07 R166, check 7). -/
def State.named (s : State) : List Nat :=
  let c := s.core
  let x := c.ctx
  (s.comingOps.map opBufs).flatten ++ (x.coming.map (fun m => m.bufs s.cix)).flatten ++ (x.meq.map (fun o => meBufs o.tmpl)).flatten
    ++ ((c.me.filter (fun o => o.owner == x.cid)).map (fun o => meBufs o.op.tmpl)).flatten
    ++ (x.atq.map (fun o => atBufs o.tmpl)).flatten
    ++ ((c.atRun.filter (fun o => o.owner == x.cid)).map (fun o => atBufs o.op.tmpl)).flatten
    ++ ((c.copies.filter (fun o => o.owner == x.cid)).map (fun o => cpBufs s.cix o.parm)).flatten
    ++ (x.commits.map (fun r => (List.range 16).filter (tbit r.mask))).flatten

/-! ### `cb.set` (07 R166) -/

/-- The spaces that an agent code of R159 may produce into and consume from. -/
def prodSpaces : Nat → List Nat
  | 0 => [spW, spA, spC, spP]
  | 2 => [spC]
  | 3 | 4 => [spA]
  | 5 | 6 => [spW, spA, spC]
  | _ => []
def consSpaces : Nat → List Nat
  | 0 => [spW, spA, spC, spP]
  | 1 | 5 => [spW, spA, spC]
  | 3 | 4 => [spA]
  | _ => []

/-- The descriptor of an image (07 R158). -/
def cbOfImage (m : BitVec 512) : CbDesc :=
  { handle := fld m 0 12, base := fld m 16 48, slotsz := fld m 64 17, nslot := fld m 81 8, trl := fld m 96 11, prod := fld m 112 3,
    cons := fld m 116 3, vrel := m.getLsbD 120, valid := true }

/-- Checks 2 to 6 of R166. -/
def State.cbImageOk (s : State) (m : BitVec 512) : Bool :=
  let d := cbOfImage m
  let e := s.hEnt s.station s.part d.handle
  fld m 128 384 == 0
    && (d.handle != 7 && hValid e && hPart e == s.part && decide (hCpol e ≤ 1) && decide (hSpace e < 4))
    && d.base % 64 == 0 && d.slotsz != 0 && decide (d.trl ≤ 1024) && d.trl % 8 == 0
    && (prodSpaces d.prod).contains (hSpace e) && (consSpaces d.cons).contains (hSpace e)
    && (d.prod != d.cons || d.prod == 0) && !(d.vrel && d.prod == 6)
    && !((d.prod == 2 || d.prod == 3 || d.prod == 4) && d.trl != 0 && decide (d.trl < 64))
    && decide (d.base + d.n * d.size ≤ hBound e)

/-- The image that a cb.set or a load command names: `n` bytes in P or D. -/
def State.image (s : State) (ha n : Nat) : Access := s.access ha n true false [spP, spD]

/-- Misaligned access, handle faults and bank states of an image (07 R166, 08 R197). -/
def State.imageFault (s : State) (ha n align : Nat) : Option (Nat × Nat) :=
  if haOff ha % align != 0 then some (cMisaligned, ha)
  else
    match s.image ha n with
    | .fault c => some (c, ha)
    | r => if s.anyOff r.keys then some (cBufDrop, ha) else if s.conflict r.keys then some (cBankConflict, ha) else none

/-- An image in a sleeping bank holds its bundle (05 R112). -/
def State.imageHold (s : State) (ha n : Nat) : Option Hold :=
  let ks := (s.image ha n).keys
  if s.anyAsleep ks then some { cls := .wake, start := fun s => s.startWakes ks } else none

/-- The fault of a cb instruction (07 R165 to R168, R171). -/
def cbFault (i : Instr) (s : State) : Option TrapInfo :=
  let x := s.core.ctx
  let t (c : Nat) : TrapInfo := { code := c, part := 4 }
  match i with
  | .cbSet cb _ =>
    let ha := (s.arg i 0).toNat
    match s.imageFault ha 64 64 with
    | some (c, a) => some (accessTrap .e c a)
    | none =>
      if !s.cbImageOk (BitVec.ofNat 512 (leNat (s.rdKeys (s.image ha 64).keys))) then some (t cCbDesc)
      else if s.named.contains cb.toNat then some (t cCbBusy)
      else none
  | .cbPush cb n =>
    let d := x.cbk cb.toNat
    if !d.valid then some (t cCbDesc) else if d.prod ≠ 0 then some (t cCbRole) else if d.room < n.toNat then some (t cCbOverrun) else none
  | .cbPop cb n =>
    let d := x.cbk cb.toNat
    if !d.valid then some (t cCbDesc)
    else if d.cons ≠ 0 then some (t cCbRole)
    else if s.core.cbAvail x cb.toNat < n.toNat then some (t cCbUnderrun)
    else none
  | .cbWait _ cb .. | .cbRd _ cb .. => if (x.cbk cb.toNat).valid then none else some (t cCbDesc)
  | .cbRel mask => if (List.range 16).any (fun k => mask.getLsbD k && !(x.cbk k).valid) then some (t cCbDesc) else none
  | _ => none

/-- The count of a `cb.wait` is met (07 R169). -/
def State.cbMet (s : State) (cb : BitVec 4) (room : Bool) (n : BitVec 9) : Bool :=
  let x := s.core.ctx
  if room then decide (n.toNat ≤ (x.cbk cb.toNat).room) else decide (n.toNat ≤ s.core.cbAvail x cb.toNat)

/-- Phases that a `cb.rel` has ended and that are not committed (16 R388). -/
def Ctx.openPhases (x : Ctx) : Nat := x.commits.length

/-- What holds a cb instruction (07 R169, R171; 16 R388). -/
def cbHold (i : Instr) (s : State) : Option Hold :=
  match i with
  | .cbSet .. => s.imageHold (s.arg i 0).toNat 64
  | .cbWait _ cb room n _ => if s.cbMet cb room n then none else some { cls := .wait, bound := (s.arg i 0).toNat }
  | .cbRel mask =>
    if (List.range 16).any (fun k => mask.getLsbD k && (s.core.ctx.cbk k).npend == 4) || decide (4 ≤ s.core.ctx.openPhases) || s.frontFull i
    then some { cls := .wait, room := true } else none
  | _ => none

/-- The image of a `cb.set`. -/
def cbReqs (i : Instr) (s : State) : List MemReq :=
  match i with
  | .cbSet .. => [{ ha := (s.arg i 0).toNat, n := 64, align := 64, rd := true, wr := false, spaces := [spP, spD] }]
  | _ => []

def famCb : Family := { fault := cbFault, hold := cbHold, reqs := cbReqs }

/-- `cb.set` (07 R166). -/
def execCbSet (cb : BitVec 4) (a : Reg) (s : State) : Host.Outcome State Fault Refusal :=
  let i : Instr := .cbSet cb a
  issue famCb i (fun _ => 8) (fun s =>
    let ks := (s.image (s.arg i 0).toNat 64).keys
    let s1 := s.consume ks (s.spaceOf (s.arg i 0).toNat) (s.arg i 0).toNat s.core.ctx.phase
    let d := cbOfImage (BitVec.ofNat 512 (leNat (s1.rdKeys ks)))
    let n := s1.nextSerial
    ((s1.mapCtx (fun x => { x with cb := Tab.set {} x.cb cb.toNat d })).sendCmd i []).mapCtx (fun x =>
      { x with cmds := x.cmds.map (fun m => if m.serial = n then { m with old := some (s1.core.ctx.cbk cb.toNat) } else m) })) s

/-- `cb.push` (07 R167). -/
def execCbPush (cb : BitVec 4) (n : BitVec 9) (s : State) : Host.Outcome State Fault Refusal :=
  issue famCb (.cbPush cb n) (fun _ => 1) (fun s =>
    (s.mapCtx (fun x => x.cbFill cb.toNat n.toNat x.phase)).sendCmd (.cbPush cb n) []) s

/-- `cb.pop` (07 R168). -/
def execCbPop (cb : BitVec 4) (n : BitVec 9) (s : State) : Host.Outcome State Fault Refusal :=
  issue famCb (.cbPop cb n) (fun _ => 1) (fun s =>
    (s.mapCtx (fun x => x.cbTake cb.toNat n.toNat x.phase)).sendCmd (.cbPop cb n) []) s

/-- `cb.wait` (07 R169): 0 if the count was met, 1 if the time ran out. -/
def execCbWait (d : Reg) (cb : BitVec 4) (room : Bool) (n : BitVec 9) (b : Reg) (s : State) : Host.Outcome State Fault Refusal :=
  issue famCb (.cbWait d cb room n b) (fun _ => 1) (fun s => s.setS .e d (if s.cbMet cb room n then 0 else 1) 1) s

/-- CB_WAIT_TIMEOUT (07 R169). -/
def execCbWaitTimeout (s : State) : Host.Outcome State Fault Refusal := .next s.expireWait

/-- The word of `cb.rd` (07 R170). -/
def cbRdVal (c : CbDesc) (what : BitVec 2) (k : Nat) : Word :=
  BitVec.ofNat 64 (
    if what = 0 then c.ha (c.cptr + k)
    else if what = 1 then c.ha (c.pptr + k)
    else if what = 2 then
      c.pptr + put c.vptr 9 + put c.cptr 18 + put c.fptr 27 + put c.kptr 36 + put (bit c.ph) 45 + put c.npend 46 + put c.nslot 49
    else c.trailer c.last)

/-- `cb.rd` (07 R170). -/
def execCbRd (d : Reg) (cb : BitVec 4) (what : BitVec 2) (k : BitVec 8) (s : State) : Host.Outcome State Fault Refusal :=
  issue famCb (.cbRd d cb what k) (fun _ => 2) (fun s => s.setS .e d (cbRdVal (s.core.ctx.cbk cb.toNat) what k.toNat) 2) s

/-- A `cb.rel` ends the phase and records one commit for each buffer that it names (07 R163, R171). -/
def Ctx.endPhase (x : Ctx) (mask bundle clk : Nat) : Ctx :=
  let x1 := (List.range 16).foldl (fun (y : Ctx) k => if tbit mask k then y.updCb k (fun d => { d with npend := d.npend + 1 }) else y) x
  { x1 with commits := x1.commits ++ [{ phase := x.phase, mask := mask, lateP := [], lateC := [], bundle := bundle, clk := clk }]
            phase := x.phase + 1 }

/-! ### Commits (07 R163, 16 R388, R389) -/

/-- An operation with Q counts for a record of its phase or a later one before its due cycle: a command of an engine or a buffer (07 R163), and a
load, whose data must have come back without an error (16 R389). -/
def Defer.counts (d : Defer) (r : Commit) : Bool :=
  decide (d.phase ≤ r.phase) && ((accesses d.ins && !leavesLease d.ins) || (match d.ins with
    | .cbSet .. | .cbPush .. | .cbPop .. => true
    | i => slotOf i == .e && (cmdFronts i).any (fun f => !f.isUnit)))

/-- Operations that would have to be over before the record of a phase applies: those of that phase or before that name one of its
buffers; with no buffer named, all of them. The `cb.rel` itself is compared first (R165), and an error of the phase is contained (16 R389). -/
def Core.holdsCommit (c : Core) (x : Ctx) (r : Commit) : Bool :=
  let hits := fun (l : List Nat) => r.mask == 0 || l.any (tbit r.mask)
  decide (c.checked < r.bundle) || decide (c.ccyc < r.clk + 4) || x.cmds.any (fun m => m.phase ≤ r.phase) || x.defers.any (·.counts r)
    || (c.err.toList ++ c.errq).any (fun e => e.owner == x.cid && decide (e.phase ≤ r.phase))
    || c.atRun.any (fun o => o.owner == x.cid && o.op.phase ≤ r.phase && hits (atBufs o.op.tmpl))
    || x.meq.any (fun o => o.phase ≤ r.phase && hits (meBufs o.tmpl))
    || c.me.any (fun o => o.owner == x.cid && o.op.phase ≤ r.phase && hits (meBufs o.op.tmpl))
    || x.atq.any (fun o => o.phase ≤ r.phase && hits (atBufs o.tmpl))
    || c.copies.any (fun o => o.owner == x.cid && o.phase ≤ r.phase && hits (if o.parm.kind = .multi then [] else cpBufs 0 o.parm))
    || c.leases.any (fun l => l.bundle ≤ r.bundle && !leavesLease l.ins)

/-- The record that may apply next: the oldest that names a buffer, if nothing holds it, or one that names none. -/
def Core.readyCommit (c : Core) (x : Ctx) : Option Commit :=
  match x.commits.find? (fun r => r.mask == 0 && !c.holdsCommit x r) with
  | some r => some r
  | none =>
    match x.commits.find? (fun r => r.mask != 0) with
    | some r => if c.holdsCommit x r then none else some r
    | none => none

/-- One buffer of a record applies (07 R163). -/
def CbDesc.commit (d : CbDesc) (lateP lateC : Nat) : CbDesc :=
  let pt := if d.prod = 6 then d.pptr else (d.pptr + 2 * d.n - lateP % (2 * d.n)) % (2 * d.n)
  let ct := (d.cptr + 2 * d.n - lateC % (2 * d.n)) % (2 * d.n)
  { d with kptr := pt, vptr := if d.vrel then pt else d.vptr, seen := d.seen || (d.vrel && d.dist pt d.vptr != 0), fptr := ct, ph := !d.ph,
           npend := d.npend - 1 }

/-- A record applies: its pointers move, its phase is committed and loses its restart point (07 R163, 16 R388). -/
def Ctx.applyCommit (x : Ctx) (r : Commit) : Ctx :=
  let x1 := (List.range 16).foldl (fun (y : Ctx) k =>
    if tbit r.mask k then y.updCb k (fun d => d.commit (Tab.get 0 r.lateP k) (Tab.get 0 r.lateC k)) else y) x
  { x1 with commits := x1.commits.erase r, phases := x1.phases.filter (fun p => p.idx != r.phase) }

/-- Refetch records of slots that FPTR has passed go (16 R392). -/
def Core.dropRefetch (c : Core) (x : Ctx) : Core :=
  { c with refetch := c.refetch.filter (fun r =>
      r.owner != x.cid ||
        (let d := x.cbk r.cb
         d.valid && (List.range (d.dist d.pptr d.fptr)).any (fun i => (d.fptr + i) % d.n == r.slot))) }

end Sys2Proof.Machine
end

