-- ==== Sys2Proof/Machine/Power.lean ====
section
/-! DEFINITION. Current, voltage and clocks: reservations, the governor, operating points, the power cap (spec 15 R363 to R375). -/

namespace Sys2Proof.Machine

/-- The governor and supply of a cluster. -/
def State.power (s : State) (cl : Nat) : Power := (Tab.get {} s.clusters cl).pow

def State.updPower (s : State) (cl : Nat) (f : Power → Power) : State := s.updCluster cl (fun c => { c with pow := f c.pow })

/-- Units that ask: 0 ME, 1 vector pipe, 2 copy engine of a core; 3 its pool. -/
def whoOf (k unit : Nat) : Nat := 2 + 4 * coreOf k + unit

/-- Key of a core's context within a cluster. -/
def floorKey (k cid : Nat) : Nat := coreOf k * 2 ^ 32 + cid

/-! ### Arrivals (15 R371) -/

/-- An arrival at cycle `t` restarts a governor at rest. -/
def Power.wake (p : Power) (t : Nat) : Power := if p.bnd.isNone then { p with bnd := some (t + 4) } else p

/-- A request takes its place: behind the arrivals before it, and within one cycle by who asks. -/
def fifoPut (r : GReq) : List GReq → List GReq
  | [] => [r]
  | q :: qs => if q.time < r.time || (q.time = r.time && q.who ≤ r.who) then q :: fifoPut r qs else r :: q :: qs

def Power.request (p : Power) (r : GReq) : Power := { p.wake r.time with fifo := fifoPut r p.fifo }

/-- A request enters its cluster's FIFO; it waits from its own cycle on, also where another core has moved the cluster's clock past
that cycle already (15 R371). -/
def State.askGov (s : State) (cl : Nat) (r : GReq) : State :=
  s.updCluster cl (fun c => { c with pow := { c.pow.request r with gwaitCyc := c.pow.gwaitCyc + BitVec.ofNat 64 (c.clk - r.time) } })

/-- Something that acts at the first boundary after its arrival. -/
def Power.later (p : Power) (t : Nat) (a : GAct) : Power := { p.wake t with acts := p.acts ++ [(t, a)] }

/-! ### Reservations (15 R368, R369) -/

/-- The reservation of a unit of a core. -/
def Core.resv (c : Core) (unit : Nat) : Resv := if unit = 0 then c.meR else if unit = 1 then c.vpR else c.ceR

def Core.setResv (c : Core) (unit : Nat) (r : Resv) : Core :=
  if unit = 0 then { c with meR := r } else if unit = 1 then { c with vpR := r } else { c with ceR := r }

/-- Pool du of a context that the core's engines hold. -/
def Core.poolUsed (c : Core) (cid : Nat) : Nat :=
  ([c.meR, c.vpR, c.ceR].map (fun r => if r.pool = some cid then r.held else 0)).foldl (· + ·) 0

/-- Unused part of the running context's pool. -/
def Core.poolFree (c : Core) : Nat := c.ctx.gov.pool - c.poolUsed c.ctx.cid

/-- Unused du beyond the target of a pool go back to the governor at its next boundary (15 R375). -/
def State.trimPool (s : State) (k cid : Nat) : State :=
  let c := s.getCore k
  let g := (c.ownerCtx cid).gov
  if g.pool ≤ g.ptgt then s else s.updPower (clusterOf k) (fun p => p.later c.ccyc (.pool k cid false))

/-- A unit of a core gives up what it holds. -/
def State.release (s : State) (k unit : Nat) : State :=
  let c := s.getCore k
  let r := c.resv unit
  let s1 := s.setCore k (c.setResv unit { r with held := 0, pool := none })
  match r.pool with
  | some cid => s1.trimPool k cid
  | none => if r.held = 0 then s1 else s1.updPower (clusterOf k) (fun p => p.later c.ccyc (.release r.held))

/-- A unit of the core in focus needs `size` du: it has them, takes them from the pool, or asks the governor once; what it holds of
another class is exchanged (15 R368, R369). -/
def State.askRes (s : State) (unit size : Nat) : State :=
  let c := s.core
  let r := c.resv unit
  if r.held = size || r.asked then s
  else
    let mine := if r.pool = some c.ctx.cid then r.held else 0
    if size ≤ c.poolFree + mine then
      let s1 := if r.pool.isNone && r.held ≠ 0 then s.release s.cix unit else s
      s1.mapCore (fun c => c.setResv unit { c.resv unit with held := size, pool := some c.ctx.cid, idle := c.ccyc })
    else
      let old := if r.pool.isNone then r.held else 0
      (s.mapCore (fun c => c.setResv unit { r with asked := true })).askGov s.cl
        { who := whoOf s.cix unit, size := size, old := old, time := c.ccyc, cid := c.ctx.cid }

/-- The reservation a vector operation needs (06 R134). -/
def State.askVector (s : State) : State := if s.core.vpR.held = 0 then s.askRes 1 4 else s

/-- The PAE or DAE of the cluster asks for its class; it never draws on a pool. -/
def State.askAt (s : State) (dae : Bool) : State :=
  let k := s.cluster
  let r := if dae then k.daeR else k.paeR
  if r.held ≠ 0 || r.asked then s
  else
    let r' := { r with asked := true }
    (s.updCluster s.cl (fun k => if dae then { k with daeR := r' } else { k with paeR := r' })).askGov s.cl
      { who := bit dae, size := if dae then 40 else 64, old := 0, time := s.core.ccyc, cid := 0 }

/-- The PAE or DAE gives up its reservation. -/
def State.releaseAt (s : State) (dae : Bool) : State :=
  let k := s.cluster
  let r := if dae then k.daeR else k.paeR
  let s1 := s.updCluster s.cl (fun k =>
    let r' := { r with held := 0 }
    if dae then { k with daeR := r' } else { k with paeR := r' })
  if r.held = 0 then s1 else s1.updPower s.cl (fun p => p.later s.core.ccyc (.release r.held))

/-! ### The governor's step (15 R371) -/

/-- A grant reaches who asked. What a pool lent for the class exchanged goes back to it. -/
def State.grant (s : State) (cl : Nat) (r : GReq) : State :=
  if r.who = 0 then s.updCluster cl (fun k => { k with paeR := { k.paeR with held := r.size, asked := false, idle := k.clk } })
  else if r.who = 1 then s.updCluster cl (fun k => { k with daeR := { k.daeR with held := r.size, asked := false, idle := k.clk } })
  else
    let k := 8 * cl + (r.who - 2) / 4
    let u := (r.who - 2) % 4
    if u = 3 then s.updCore k (fun c => c.onOwner r.cid (fun x => { x with gov := { x.gov with pool := x.gov.pool + r.size } }))
    else
      let was := (s.getCore k).resv u
      let s1 := s.updCore k (fun c => c.setResv u { was with held := r.size, pool := none, asked := false, idle := c.ccyc })
      match was.pool with
      | some cid => s1.trimPool k cid
      | none => s1

/-- What arrived before the boundary acts. -/
def Power.act (p : Power) : Nat × GAct → Power
  | (_, .release du) => { p with held := p.held - du }
  | (_, .floor key du) => { p with floors := Tab.set 0 p.floors key du }
  | (_, .pool ..) => p

/-- A pool gives up its unused du beyond its target, at a boundary; a request of it that came before a `gov.rel` is withdrawn (15 R375). -/
def State.poolAct (cl : Nat) (s : State) : Nat × GAct → State
  | (t, .pool k cid withdraw) =>
    let c := s.getCore k
    let g := (c.ownerCtx cid).gov
    let back := min (g.pool - c.poolUsed cid) (g.pool - g.ptgt)
    (s.setCore k (c.onOwner cid (fun x => { x with gov := { x.gov with pool := x.gov.pool - back } }))).updPower cl (fun p =>
      { p with held := p.held - back
               fifo := if withdraw then p.fifo.filter (fun r => !(r.who == whoOf k 3 && r.cid == cid && decide (r.time ≤ t))) else p.fifo })
  | _ => s

/-- Largest ballast floor. -/
def Power.maxFloor (p : Power) : Nat := (p.floors.map (·.2)).foldl Nat.max 0

/-- One boundary at cycle `t`: the level moves by at most 8 du, and the head, if it arrived before, is granted if it fits (15 R371). -/
def Power.step (p : Power) (t : Nat) : Power × Option GReq :=
  let p1 := (p.acts.filter (fun a => a.1 < t)).foldl Power.act p
  let g := p1.maxFloor
  let h := p1.held
  let (r, fit) := match p1.fifo with
    | [] => (0, false)
    | q :: _ => (q.size, decide (q.time < t) && decide (h + q.size ≤ 320))
  let T := if fit then max (h + r) g else max h g
  let L := if p1.lvl < T then min T (p1.lvl + 8) else if T < p1.lvl then max T (p1.lvl - 8) else p1.lvl
  let p2 := { p1 with acts := p.acts.filter (fun a => !(a.1 < t)), flr := g, lvl := L }
  match p2.fifo with
  | q :: qs =>
    if fit && decide (h + r ≤ L) then ({ p2 with fifo := qs, held := h + r - q.old, grantN := p2.grantN + 1, bnd := some (t + 4) }, some q)
    else ({ p2 with bnd := some (t + 4) }, none)
  | [] => ({ p2 with bnd := some (t + 4) }, none)

/-- At rest: nothing queued, the level at its target (15 R371). -/
def Power.settle (p : Power) : Power :=
  if p.fifo.isEmpty && p.acts.isEmpty && p.lvl == max p.held p.flr then { p with bnd := none } else p

/-- GOVERNOR_STEP (15 R371): the next step boundary of the cluster. -/
def State.governorStep (s : State) : State :=
  let t := (s.power s.cl).bnd.getD (s.core.ccyc)
  let s0 := ((s.power s.cl).acts.filter (fun a => a.1 < t)).foldl (State.poolAct s.cl) s
  let (p1, g) := (s0.power s.cl).step t
  let s1 := s0.updPower s.cl (fun _ => p1.settle)
  match g with
  | some r => s1.grant s.cl r
  | none => s1

def execGovernorStep (s : State) : Host.Outcome State Fault Refusal := .next s.governorStep

/-- VECTOR_RESERVATION_RETURN (06 R134): 64 cycles without an operation in the pipe. -/
def State.vectorReturn (s : State) : State :=
  if s.core.vpWait.isEmpty && decide (s.core.vpLast + 64 ≤ s.core.ccyc) && decide (s.core.vpR.idle + 64 ≤ s.core.ccyc) then s.release s.cix 1 else s

def execVectorReservationReturn (s : State) : Host.Outcome State Fault Refusal := .next s.vectorReturn

/-! ### Operating points (15 R363 to R367) -/

/-- Voltage for a frequency (15 R363). -/
def voltOf (f : Nat) : Nat :=
  if f ≤ 400 then 550 else if f ≤ 500 then 570 else if f ≤ 600 then 590 else if f ≤ 700 then 610 else if f ≤ 800 then 630
  else if f ≤ 900 then 650 else if f ≤ 1000 then 660 else if f ≤ 1100 then 680 else if f ≤ 1200 then 700 else if f ≤ 1300 then 720
  else if f ≤ 1400 then 740 else if f ≤ 1500 then 770 else 800

/-- The present point is the point of a target. -/
def Power.atPoint (p : Power) (f : Nat) : Bool := p.fcur == f && p.vcur == voltOf f

/-- A target is handed over (15 R365). -/
def Power.handTarget (p : Power) (f : Nat) : Power :=
  if p.ramp then { p with pend := some f } else if p.atPoint f then p else { p with ramp := true, ftgt := f }

/-- The target of a cluster is computed afresh; a change is served (15 R366). -/
def Power.retarget (p : Power) : Power :=
  let demand := (p.opfl.map (·.2)).foldl Nat.max p.demand
  let t := min demand p.fceil
  if t = p.tgt then p else { p with tgt := t }.handTarget t

/-- RAMP_STEP (15 R364): one relock of 25 MHz, or one millivolt. -/
def Power.rampStep (p : Power) : Power :=
  if !p.ramp then p
  else if p.fcur < p.ftgt then
    if p.vcur < voltOf p.ftgt then { p with vcur := p.vcur + 1 } else if voltOf p.ftgt < p.vcur then { p with vcur := p.vcur - 1 }
    else { p with fcur := min p.ftgt (p.fcur + 25) }
  else if p.ftgt < p.fcur then { p with fcur := max p.ftgt (p.fcur - 25) }
  else if p.vcur < voltOf p.ftgt then { p with vcur := p.vcur + 1 }
  else if voltOf p.ftgt < p.vcur then { p with vcur := p.vcur - 1 }
  else p

/-- RAMP_COMPLETE (15 R365): the pending target starts, unless it is the point reached. -/
def Power.rampComplete (p : Power) : Power :=
  if !p.ramp || !p.atPoint p.ftgt then p
  else
    let p1 := { p with ramp := false, pend := none, opchgN := p.opchgN + 1 }
    match p.pend with
    | some f => p1.handTarget f
    | none => p1

/-- DROOP_EMERGENCY (15 R367). -/
def Power.droop (p : Power) : Power :=
  let f := p.pend.getD (if p.ramp then p.ftgt else p.tgt)
  { p with fcur := max 400 (p.fcur - 100), ramp := false, pend := none, droopN := p.droopN + 1 }.handTarget f

/-- CAP_SAMPLE (15 R372): the sample is L * 0.25 A * VCUR; 16 * 0.25 / 1000 turns it into sixteenths of a watt. -/
def Power.capSample (p : Power) : Power :=
  let xs := (p.lvl * p.vcur :: p.samples).take 1000
  let avg := xs.foldl (· + ·) 0 / 250000
  let p1 := { p with samples := xs, avgw := avg }
  let p2 := if p.capw ≠ 0 && decide (p.capw < avg) then { p1 with fceil := max 400 (p.fceil - 25), capstepN := p.capstepN + 1 } else p1
  let p3 := if p.capw = 0 || decide (avg < p.capw - p.capw / 16) then { p2 with fceil := min 1600 (p2.fceil + 25) } else p2
  p3.retarget

def execRampStep (s : State) : Host.Outcome State Fault Refusal := .next (s.updPower s.cl Power.rampStep)
def execRampComplete (s : State) : Host.Outcome State Fault Refusal := .next (s.updPower s.cl Power.rampComplete)
def execDroopEmergency (s : State) : Host.Outcome State Fault Refusal := .next (s.updPower s.cl Power.droop)
def execCapSample (s : State) : Host.Outcome State Fault Refusal := .next (s.updPower s.cl Power.capSample)

/-- The demand of a cluster: the largest frequency of the tasks its cores run, all but one of them (12 R301). -/
def State.demandBut (s : State) (cl : Nat) (k : Option Nat) : Nat :=
  ((((List.range 8).map (8 * cl + ·)).filter (fun j => some j != k)).map (fun j => (s.getCore j).contexts.map (fun x => x.task.freq))).flatten.foldl max 400

/-- An act is a floor posted by a core, or the return of a pool of it. -/
def GAct.ofCore (k : Nat) : GAct → Bool
  | .floor key _ => key / 2 ^ 32 == coreOf k
  | .pool core _ _ => core == k
  | .release _ => false

/-- A core loses its contexts: its reservations and pools return at the next boundary, its requests go, its floors with them, those that have
not acted too, and the target is computed afresh without its tasks (15 R366, R368, R370). -/
def State.powerGone (s : State) (k : Nat) : State :=
  let c := s.getCore k
  let rs : List Nat := [c.meR, c.vpR, c.ceR].map (fun r => if r.pool.isNone then r.held else 0)
  let ps : List Nat := c.contexts.map (fun x => x.gov.pool)
  let du : Nat := rs.foldl (· + ·) 0 + ps.foldl (· + ·) 0
  let mine := fun (key : Nat) => key / 2 ^ 32 == coreOf k
  s.updPower (clusterOf k) (fun p =>
    let p1 := { p with fifo := p.fifo.filter (fun r => !(decide (whoOf k 0 ≤ r.who) && decide (r.who ≤ whoOf k 3)))
                       acts := p.acts.filter (fun a => !a.2.ofCore k), demand := s.demandBut (clusterOf k) (some k) }
    let p2 := if du = 0 then p1 else p1.later c.ccyc (.release du)
    let p3 := (p.floors.filter (fun f => mine f.1)).foldl (fun q f => q.later c.ccyc (.floor f.1 0)) p2
    let p4 := { p3 with opfl := p3.opfl.filter (fun f => !mine f.1) }
    p4.retarget)

/-- A context leaves a core for good: its pool returns, its floors go (15 R370, R373). -/
def State.govLeaves (s : State) (k : Nat) (x : Ctx) : State :=
  let c := s.getCore k
  let key := floorKey k x.cid
  s.updPower (clusterOf k) (fun p =>
    let p1 := if x.gov.pool = 0 then p else p.later c.ccyc (.release x.gov.pool)
    let p2 := if x.gov.bfloor = 0 then p1 else p1.later c.ccyc (.floor key 0)
    { p2 with opfl := Tab.erase p2.opfl key }.retarget)

/-- A context comes to the core in focus: its floors are in force there (15 R370, R373). -/
def State.govEnters (s : State) (x : Ctx) : State :=
  let key := floorKey s.cix x.cid
  s.updPower s.cl (fun p =>
    let p1 := if x.gov.bfloor = 0 then p else p.later s.core.ccyc (.floor key x.gov.bfloor)
    { p1 with opfl := Tab.set 0 p1.opfl key x.gov.opfloor }.retarget)

/-! ### The instructions (15 R374, R375) -/

/-- Sum of PTGT of the other cores of the cluster. -/
def State.otherTargets (s : State) : Nat :=
  (((List.range 8).filter (· ≠ coreOf s.cix)).map (fun k =>
    (((s.getCore (8 * s.cl + k)).contexts.map (fun x => x.gov.ptgt)).foldl (· + ·) 0))).foldl (· + ·) 0

/-- A queued pool request of the running context is withdrawn. -/
def Power.dropPool (p : Power) (k cid : Nat) : Power :=
  { p with fifo := p.fifo.filter (fun r => !(r.who == whoOf k 3 && r.cid == cid)) }

/-- The effect of a power command at the governor and its code (15 R375). An accepted `gov.res` withdraws the unserved request of an earlier one
also where it queues none itself (log 154). -/
def State.govApply (s : State) (m : Cmd) : State × Nat :=
  let k := (m.caps.getD 0 0).toNat
  let cid := s.core.ctx.cid
  let setG := fun (f : GovCtx → GovCtx) => s.mapCtx (fun x => { x with gov := f x.gov })
  match m.ins with
  | .govRes .. =>
    if k = 0 || 256 < k then (s, 1)
    else if 256 < s.otherTargets + k then (s, 2)
    else
      let s1 := (setG (fun g => { g with ptgt := k })).updPower s.cl (fun p => p.dropPool s.cix cid)
      let pool := s.core.ctx.gov.pool
      if pool < k then
        (s1.askGov s.cl { who := whoOf s.cix 3, size := k - pool, old := 0, time := s.core.ccyc, cid := cid }, 0)
      else (s1.trimPool s.cix cid, 0)
  | .govRel _ =>
    ((setG (fun g => { g with ptgt := 0 })).updPower s.cl (fun p => p.later s.core.ccyc (.pool s.cix cid true)), 0)
  | .govBallast .. =>
    if 320 < k then (s, 1)
    else ((setG (fun g => { g with bfloor := k })).updPower s.cl (fun p => p.later s.core.ccyc (.floor (floorKey s.cix cid) k)), 0)
  | .opReq .. =>
    if 2 ^ 11 ≤ k || (k ≠ 0 && (k < 400 || 1600 < k || k % 25 ≠ 0)) then (s, 1)
    else ((setG (fun g => { g with opfloor := k })).updPower s.cl (fun p =>
      { p with opfl := Tab.set 0 p.opfl (floorKey s.cix cid) k }.retarget), 0)
  | _ => (s, 0)

/-- `gov.res` (15 R375). -/
def execGovRes (d a : Reg) (s : State) : Host.Outcome State Fault Refusal :=
  issue {} (.govRes d a) (fun _ => 8) (fun s => s.askUnit (.govRes d a) d 8) s

/-- `gov.rel` (15 R375). -/
def execGovRel (d : Reg) (s : State) : Host.Outcome State Fault Refusal :=
  issue {} (.govRel d) (fun _ => 8) (fun s => s.askUnit (.govRel d) d 8) s

/-- `gov.ballast` (15 R375). -/
def execGovBallast (d a : Reg) (s : State) : Host.Outcome State Fault Refusal :=
  issue {} (.govBallast d a) (fun _ => 8) (fun s => s.askUnit (.govBallast d a) d 8) s

/-- `op.req` (15 R375). -/
def execOpReq (d a : Reg) (s : State) : Host.Outcome State Fault Refusal :=
  issue {} (.opReq d a) (fun _ => 8) (fun s => s.askUnit (.opReq d a) d 8) s

end Sys2Proof.Machine
end

