-- ==== Sys2Proof/Machine/Me.lean ====
section
/-! DEFINITION. The matrix engine: templates, its queue, firing, matrix sums, drains through the epilogue (spec 08 R176 to R201, R449). -/

namespace Sys2Proof.Machine

/-! ### The instructions (08 R197 to R201) -/

/-- The image of a load command: address, bytes, alignment. -/
def loadImage (i : Instr) (s : State) : Option (Nat × Nat × Nat) :=
  match i with
  | .mtLd .. | .epLd .. => some ((s.arg i 0).toNat, 64, 64)
  | .ftLd _ n _ => some ((s.arg i 0).toNat, 32 * (n.toNat + 1), 32)
  | .atMask .. => some ((s.arg i 0).toNat, 2112, 64)
  | _ => none

/-- Faults of the image address (08 R197). -/
def engFault (i : Instr) (s : State) : Option TrapInfo :=
  match loadImage i s with
  | some (ha, n, al) => (s.imageFault ha n al).map (fun x => accessTrap .e x.1 x.2)
  | none => none

/-- An engine command waits for a sleeping image, and for room before its front (08 R184). -/
def engHold (i : Instr) (s : State) : Option Hold :=
  match (match loadImage i s with
    | some (ha, n, _) => s.imageHold ha n
    | none => none) with
  | some h => some h
  | none => if s.frontFull i then some { cls := .wait, room := true } else none

/-- The image of a load command. -/
def engReqs (i : Instr) (s : State) : List MemReq :=
  match loadImage i s with
  | some (ha, n, al) => [{ ha := ha, n := n, align := al, rd := true, wr := false, spaces := [spP, spD] }]
  | none => []

def famEng : Family := { fault := engFault, hold := engHold, reqs := engReqs }

/-- The timeline that an engine's operations count on. -/
def engTl (e : Nat) (x : Ctx) : Timeline := if e = 0 then x.tlMe else if e = 3 then x.tlCe else x.tlAt

/-- The next number of an engine's timeline is taken. -/
def takeEng (e : Nat) (x : Ctx) : Ctx :=
  if e = 0 then { x with tlMe := x.tlMe.take }
  else if e = 3 then { x with tlCe := x.tlCe.take }
  else if e = 1 then { x with tlAt := x.tlAt.take, paeLast := x.tlAt.issued + 1 }
  else { x with tlAt := x.tlAt.take, daeLast := x.tlAt.issued + 1 }

/-- The last number issued to the queue of an engine (16 R381, R382). -/
def engLast (e : Nat) (x : Ctx) : Nat :=
  if e = 0 then x.tlMe.issued else if e = 3 then x.tlCe.issued else if e = 1 then x.paeLast else x.daeLast

/-- A load command leaves with the bytes of its image and the last number of its queue (16 R381). -/
def State.sendLoad (s : State) (i : Instr) (e : Nat) : State :=
  let ks := match loadImage i s with
    | some (ha, n, _) => (s.image ha n).keys
    | none => []
  s.sendCmd i [engLast e s.core.ctx] ks

/-- `mm` (08 R198) takes the next number of tl.me. -/
def execMm (t : BitVec 6) (keep : Bool) (a b c : Reg) (s : State) : Host.Outcome State Fault Refusal :=
  let i : Instr := .mm t keep a b c
  issue famEng i (fun _ => 1) (fun s => (s.mapCtx (takeEng 0)).sendCmd i [s.core.ctx.tlMe.issued + 1]) s

/-- `mt.ld` (08 R199). -/
def execMtLd (e : Eng) (t : BitVec 6) (a : Reg) (s : State) : Host.Outcome State Fault Refusal :=
  issue famEng (.mtLd e t a) (fun _ => 1) (fun s => s.sendLoad (.mtLd e t a) (engCode e)) s

/-- `ft.ld` (08 R200). -/
def execFtLd (first n : BitVec 5) (a : Reg) (s : State) : Host.Outcome State Fault Refusal :=
  issue famEng (.ftLd first n a) (fun _ => 1) (fun s => s.sendLoad (.ftLd first n a) 0) s

/-- `ep.ld` (08 R201). -/
def execEpLd (t : BitVec 6) (n : BitVec 5) (a : Reg) (s : State) : Host.Outcome State Fault Refusal :=
  issue famEng (.epLd t n a) (fun _ => 1) (fun s => s.sendLoad (.epLd t n a) 0) s

/-- Numbers that the issues of a patch pair take, high word first (02 R48, 08 R181). -/
def pairTake (x : Ctx) (hi lo : PatchWord) : Ctx × List Nat :=
  let one := fun (y : Ctx × List Nat) (p : PatchWord) =>
    if p.issue then (takeEng p.eng.toNat y.1, y.2 ++ [(engTl p.eng.toNat y.1).issued + 1]) else y
  one (one (x, []) hi) lo

/-- A patch pair (02 R47, R48; 08 R181). -/
def execPatchPair (hi lo : PatchWord) (s : State) : Host.Outcome State Fault Refusal :=
  let i : Instr := .patchPair hi lo
  issue famEng i (fun _ => 1) (fun s =>
    let r := pairTake s.core.ctx hi lo
    (s.mapCtx (fun _ => r.1)).sendCmd i r.2) s

/-! ### Application at the front (08 R181, R184, R198 to R201) -/

/-- A queue stops with a cause that waits for the next boundary (16 R381). -/
def State.stopQueue (s : State) (q code : Nat) (load : Bool) (num : Nat) : State :=
  let st : Stop := { code := code, load := load, detail := code + put (bit load) 8 + put (num % 2 ^ 48) 16 }
  (s.mapCtx (fun x =>
    if q = 0 then { x with meStop := some st } else if q = 1 then { x with ceStop := some st }
    else if q = 2 then { x with paeStop := some st } else { x with daeStop := some st })).pend
    { code := cQueue, queue := q, detail := st.detail }

/-- Queue number of an engine code in TRAP.CAUSE (16 R381). -/
def queueOf (e : Nat) : Nat := if e = 0 then 0 else if e = 3 then 1 else e + 1

/-- An amendment of a patch word (02 R48). -/
def Ctx.amend (x : Ctx) (p : PatchWord) : Ctx :=
  if p.bits = 0 || p.field = 31 then x
  else { x with tmpl := Tab.upd 0 x.tmpl (tmplKey p.eng.toNat p.tmpl.toNat) (fun t => tfSet t p.field.toNat p.value.toNat) }

/-- Format-table index of an issue (08 R181). -/
def fmtIndex (t : BitVec 512) (lc : Nat → Nat) : Nat :=
  if t.getLsbD 53 then (fld t 48 5 + lc (fld t 54 2)) % 32 else fld t 48 5

/-- Handles an ME operation uses: those of its buffers, its scales, its bias row and residual tile. -/
def meHandles (x : Ctx) (t : BitVec 512) (f : BitVec 256) : List Nat :=
  ((meBufs t).map (fun k => (x.cbk k).handle) ++ [haHandle (fld f 0 64), haHandle (fld f 64 64), fld t 208 12, fld t 240 12]).eraseDups

/-- Entries of handles, as an operation keeps them (09 R206). -/
def State.entries (s : State) (l : List Nat) : List (Nat × BitVec 256) := l.map (fun h => (h, s.hEnt s.station s.part h))

/-- EP program of a template: `st`, `end` unless one was loaded (08 R179). -/
def Ctx.program (x : Ctx) (t : Nat) : List EpWord := Tab.get [0xC000, 0xF000] x.ep t

/-- An ME issue enters the queue with its snapshot (08 R181). -/
def State.issueMe (s : State) (tix : Nat) (T : BitVec 512) (num phase : Nat) (rq : Option (Nat × Nat)) (lc : Nat → Nat) : State :=
  let x := s.core.ctx
  let f := Tab.get 0 x.fmt (fmtIndex T lc)
  let start := meZi T || meRl T
  let op : MeOp :=
    { num := num, phase := phase, tmpl := T, fmt := f, ep := x.program tix, lost := !start && x.meCut
      ent := s.entries (meHandles x T f), rq := rq }
  s.mapCtx (fun x => { x with meq := x.meq ++ [op], meCut := x.meCut && !start })

/-- A template's content check (08 R199). -/
def tmplOk (eng : Nat) (t : BitVec 512) : Bool := t.getLsbD 496 && fld t 497 3 == eng && fld t 500 12 == 0

/-- A format entry's content check (08 R200). -/
def fmtOk (f : BitVec 256) : Bool := decide (fld f 128 2 < 2) && fld f 132 124 == 0

/-- EP words of an image. -/
def epWords (img : Nat) : Nat → List EpWord
  | 0 => []
  | n + 1 => BitVec.ofNat 16 img :: epWords (img / 2 ^ 16) n

/-- Consecutive format entries. -/
def fmtEntries (img : Nat) : Nat → List (BitVec 256)
  | 0 => []
  | n + 1 => BitVec.ofNat 256 img :: fmtEntries (img / 2 ^ 256) n

/-- The rules of a mask block (13 R338). -/
def maskOk (b : List Byte) : Bool :=
  let n := ((b.getD 4 0).toNat)
  decide (1 ≤ n) && decide (n ≤ 128) && ((b.drop 5).take 59).all (· == 0)
    && (List.range 128).all (fun i =>
      let row := leNat ((b.drop (64 + 16 * i)).take 16)
      if i < n then decide (row < 2 ^ n) else row == 0)

/-- The queue that a load stops (16 R381). -/
def loadQueue : Instr → Nat
  | .mtLd e .. => queueOf (engCode e)
  | .atMask .. => 2
  | _ => 0

/-- A load is applied: its content, or the stop of its queue (08 R199 to R201, 13 R345). The bytes are read now; `keys` are those that
the checks at issue found. An image in a bank that has gone OFF since is a dropped buffer (07 R157); one with an uncorrectable word loads
nothing (16 R393). -/
def State.applyLoad (s : State) (m : Cmd) : State :=
  let ha := (m.caps.getD 0 0).toNat
  let s0 := s
  let s := s0.consume m.keys (s0.spaceOf ha) ha m.phase
  let img := leNat (s.rdKeys m.keys)
  let num := m.nums.headD 0
  if s0.fails s then s
  else if s.anyOff m.keys then s.stopQueue (loadQueue m.ins) 5 true num
  else
  match m.ins with
  | .mtLd e t _ =>
    let T : BitVec 512 := BitVec.ofNat 512 img
    if tmplOk (engCode e) T then s.mapCtx (fun x => { x with tmpl := Tab.set 0 x.tmpl (tmplKey (engCode e) t.toNat) T })
    else s.stopQueue (queueOf (engCode e)) 1 true num
  | .ftLd first n _ =>
    let es := fmtEntries img (n.toNat + 1)
    if es.all fmtOk then
      s.mapCtx (fun x => { x with fmt := (es.mapIdx (fun i e => (first.toNat + i, e))).foldl (fun t p => Tab.set 0 t p.1 p.2) x.fmt })
    else s.stopQueue 0 1 true num
  | .epLd t n _ =>
    let p := epWords img (n.toNat + 1)
    if epOk p then s.mapCtx (fun x => { x with ep := Tab.set [0xC000, 0xF000] x.ep t.toNat p }) else s.stopQueue 0 1 true num
  | .atMask k _ =>
    let b := s.rdKeys m.keys
    if maskOk b then s.mapCtx (fun x => { x with mask := Tab.set [] x.mask k.toNat b }) else s.stopQueue 2 1 true num
  | _ => s

/-! ### Checks at the head of the queue (08 R187) -/

def meKb (t : BitVec 512) : Nat := fld t 16 16
def meK (t : BitVec 512) : Nat := 32 * meKb t
def meM8 (f : BitVec 256) : Bool := fld f 128 2 == 0
def meEs (f : BitVec 256) : Nat := if meM8 f then 1 else 2
def meRs (t : BitVec 512) : Nat := if t.getLsbD 5 then 2 else 4
def meDt (t : BitVec 512) : VTy := if t.getLsbD 4 then .bf16 else .f32
def stBytesTy : VTy → Nat
  | .bf16 => 2
  | .m8 => 1
  | _ => 4
def MeOp.ss (o : MeOp) : Nat := stBytesTy (epStoreTy o.ep (meDt o.tmpl))

/-- Entry of a handle in an operation's snapshot. -/
def entOf (l : List (Nat × BitVec 256)) (h : Nat) : HEnt := ((l.find? (fun p => p.1 == h)).map (·.2)).getD 0

/-- The template fault (08 R178, R180, R187). -/
def MeOp.badTmpl (o : MeOp) (x : Ctx) : Bool :=
  let t := o.tmpl
  !t.getLsbD 496 || fld t 497 3 != 0 || fld t 12 4 != 1 || meKb t == 0 || decide (256 < meKb t) || (meZi t && meRl t) || o.lost
    || fld t 8 4 != 0 || fld t 56 8 != 0 || fld t 220 4 != 0 || fld t 252 4 != 0 || fld t 352 144 != 0 || fld t 500 12 != 0
    || decide (1 < fld o.fmt 128 2) || (epHas o.ep 10 && fld t 192 16 % 8 != 0)
    || (meDr t && epHas o.ep 13 && decide ((x.cbk (fld t 44 4)).trl < 576))
    || (meWh t && fld t 160 16 == 0)

/-- A buffer is valid, in a space, with an agent's code (07 R162). -/
def roleOk (ent : List (Nat × BitVec 256)) (d : CbDesc) (sp code : Nat) (asProd : Bool) : Bool :=
  d.valid && hSpace (entOf ent d.handle) == sp && (if asProd then d.prod == code else d.cons == code)

/-- The cb-role fault of an ME operation (08 R187). -/
def MeOp.badRole (o : MeOp) (x : Ctx) : Bool :=
  let t := o.tmpl
  !roleOk o.ent (x.cbk (fld t 32 4)) spA 1 false || !roleOk o.ent (x.cbk (fld t 36 4)) spW 1 false
    || (meRl t && !roleOk o.ent (x.cbk (fld t 40 4)) spC 1 false) || (meDr t && !roleOk o.ent (x.cbk (fld t 44 4)) spC 2 true)

/-- Pops that fired operations have yet to make on a buffer, and slots they have yet to complete (08 R187). -/
def Core.mePops (c : Core) (cid k : Nat) : Nat :=
  ((c.me.filter (fun m => m.owner == cid && (match m.stage with
    | .mac _ => true
    | _ => false))).map (fun m =>
      let t := m.op.tmpl
      bit (t.getLsbD 6 && fld t 32 4 == k) + bit (t.getLsbD 7 && fld t 36 4 == k) + bit (meRl t && fld t 40 4 == k))).foldl (· + ·) 0
def Core.meFills (c : Core) (cid k : Nat) : Nat :=
  (c.me.filter (fun m => m.owner == cid && meDr m.op.tmpl && fld m.op.tmpl 44 4 == k)).length

/-- The counts an operation waits for (08 R187, step 2). -/
def MeOp.counts (o : MeOp) (c : Core) : Bool :=
  let x := c.ctx
  let t := o.tmpl
  let av := fun k => decide (c.mePops x.cid k + 1 ≤ c.cbSeen x k)
  av (fld t 32 4) && av (fld t 36 4) && (!meRl t || av (fld t 40 4))
    && (!meDr t || decide (c.meFills x.cid (fld t 44 4) + 1 ≤ (x.cbk (fld t 44 4)).room))

/-- Offset of the slot an operation takes from an input buffer, and of the one it fills. -/
def MeOp.slotIn (_o : MeOp) (c : Core) (k : Nat) : CbDesc × Nat :=
  let d := c.ctx.cbk k
  (d, d.cptr + c.mePops c.ctx.cid k)
def MeOp.slotOut (o : MeOp) (c : Core) : CbDesc × Nat :=
  let k := fld o.tmpl 44 4
  let d := c.ctx.cbk k
  (d, d.pptr + c.meFills c.ctx.cid k)

/-- Rows of a strided operand: the offsets of their first bytes. -/
def rowOffs (base stride n : Nat) : List Nat := (List.range n).map (fun i => base + stride * i)

/-- An operand's stride and extent within a slot (08 R177). -/
def strideOk (off str rowBytes slotsz : Nat) : Bool :=
  decide (cdiv rowBytes 64 ≤ str) && decide (64 * off + 64 * str * 127 + rowBytes ≤ 64 * slotsz)

/-- Bytes of one element of bias or residual (08 R192). -/
def epEs (p : List EpWord) (op : Nat) : Nat := if epBit p op = 0 then 4 else 2

/-- The operand-bounds fault (08 R177, R192, R194). -/
def MeOp.badBounds (o : MeOp) (c : Core) : Bool :=
  let t := o.tmpl
  let k := meK t
  let sz := fun f => (c.ctx.cbk (fld t f 4)).slotsz
  !strideOk (tf t 4) (tf t 5) (k * meEs o.fmt) (sz 32) || !strideOk (tf t 6) (tf t 7) (k * meEs o.fmt) (sz 36)
    || (meRl t && !strideOk (tf t 8) (tf t 9) (128 * meRs t) (sz 40))
    || (meDr t && (!strideOk (tf t 10) (tf t 11) (128 * o.ss) (sz 44)
        || (epHas o.ep 10 && decide (64 * sz 44 < 64 * tf t 12 + 512))
        || (epResSizes o.ep).any (fun es => decide (tf t 17 < cdiv (128 * es) 64))))

/-- The handle address of an operand's scales (08 R183). -/
def scaleHa (rel : Bool) (v : Nat) (d : CbDesc) (slot : Nat) : Nat := if rel then haAdd (d.ha slot) v else v

def MeOp.scaHa (o : MeOp) (c : Core) : Nat :=
  let (d, k) := o.slotIn c (fld o.tmpl 32 4)
  scaleHa (o.fmt.getLsbD 130) (fld o.fmt 0 64) d k
def MeOp.scbHa (o : MeOp) (c : Core) : Nat :=
  let (d, k) := o.slotIn c (fld o.tmpl 36 4)
  scaleHa (o.fmt.getLsbD 131) (fld o.fmt 64 64) d k

/-- Queue-fault code of an access fault (16 R381). -/
def qCode (c : Nat) : Nat :=
  if c = cHandleSpace then 8 else if c = cRights then 9 else if c = cBound then 10 else if c = cPartMismatch then 11 else 7

/-- The parts of an operation that it reads or writes, as handle accesses: address, bytes, write, spaces, and the operand they belong
to. Rows are given one by one. -/
structure MePart where
  operand : Nat
  ha : Nat
  n : Nat
  wr : Bool
  spaces : List Nat
  deriving DecidableEq, Repr

/-- Operands 0 A, 1 B, 2 reload, 3 drain, 4 bias, 5 residual, with scale tiles beside what they scale (08 R449). -/
def MeOp.parts (o : MeOp) (c : Core) : List MePart :=
  let t := o.tmpl
  let k := meK t
  let rows := fun (op ha off str n : Nat) (wr : Bool) (sps : List Nat) =>
    (rowOffs (64 * off) (64 * str) 128).map (fun r => ({ operand := op, ha := haAdd ha r, n := n, wr := wr, spaces := sps } : MePart))
  let (da, ka) := o.slotIn c (fld t 32 4)
  let (db, kb) := o.slotIn c (fld t 36 4)
  let (dr, kr) := o.slotIn c (fld t 40 4)
  let (dd, kd) := o.slotOut c
  rows 0 (da.ha ka) (tf t 4) (tf t 5) (k * meEs o.fmt) false [spA] ++ rows 1 (db.ha kb) (tf t 6) (tf t 7) (k * meEs o.fmt) false [spW]
    ++ (if meM8 o.fmt then
          [{ operand := 0, ha := o.scaHa c, n := 128 * meKb t, wr := false, spaces := [spW, spA] },
           { operand := 1, ha := o.scbHa c, n := 128 * meKb t, wr := false, spaces := [spW, spA] }] else [])
    ++ (if meRl t then rows 2 (dr.ha kr) (tf t 8) (tf t 9) (128 * meRs t) false [spC] else [])
    ++ (if meDr t then
          rows 3 (dd.ha kd) (tf t 10) (tf t 11) (128 * o.ss) true [spC]
          ++ (if epHas o.ep 10 then [{ operand := 3, ha := haAdd (dd.ha kd) (64 * tf t 12), n := 512, wr := true, spaces := [spC] }] else [])
          ++ (if 0 < dd.trl then [{ operand := 3, ha := dd.trailer kd, n := dd.trl, wr := true, spaces := [spC] }] else [])
          ++ (if meWh t then [{ operand := 3, ha := dd.ha kd, n := 64, wr := true, spaces := [spC] }] else [])
          ++ (if epHas o.ep 1 then
                [{ operand := 4, ha := put (fld t 208 12) 52 + 64 * tf t 14, n := 128 * epEs o.ep 1, wr := false, spaces := [spW, spA, spC] }] else [])
          ++ ((epResSizes o.ep).map (fun es => rows 5 (put (fld t 240 12) 52) (tf t 16) (tf t 17) (128 * es) false [spW, spA, spC])).flatten
        else [])

/-- Fault of a part, by the checks of 09 R205 with the entries of the snapshot. -/
def MePart.fault (p : MePart) (ent : List (Nat × BitVec 256)) (part : Nat) : Option Nat :=
  checkEnt (entOf ent (haHandle p.ha)) .me part p.ha p.n (!p.wr) p.wr p.spaces

/-- Keys of a part. -/
def MePart.keys (p : MePart) (s : State) (ent : List (Nat × BitVec 256)) : List Nat :=
  let e := entOf ent (haHandle p.ha)
  keysFrom (localKey s.cix (hSpace e) (s.regionBase s.station s.part (haHandle p.ha) e + haOff p.ha)) p.n

/-- The scale-layout fault (03 R67; 08 R194). -/
def MeOp.badScales (o : MeOp) (c : Core) : Bool :=
  (meM8 o.fmt && (meKb o.tmpl % 4 != 0 || o.scaHa c % 512 != 0 || o.scbHa c % 512 != 0))
    || (meDr o.tmpl && epHas o.ep 10 &&
        (let (d, k) := o.slotOut c
         haAdd (d.ha k) (64 * tf o.tmpl 12) % 512 != 0))

/-- Why an operation stops its queue: the code of 16 R381, and for an access that failed its checks its handle address and cause. -/
structure QStop where
  code : Nat
  acc : Option (Nat × Nat) := none
  deriving DecidableEq, Repr

/-- A fault of kind bound, rights or partition of an engine also writes the violation log (09 R205). -/
def State.logStop (s : State) (a : Agent) (q : QStop) : State :=
  match q.acc with
  | some (ha, c) => if logged c then s.logV (hViolation s.cix s.part a ha c) else s
  | none => s

/-- The first part whose access fails, as a stop. -/
def firstBad (f : MePart → Option Nat) (l : List MePart) : Option QStop :=
  l.findSome? (fun p => (f p).map (fun e => { code := qCode e, acc := some (p.ha, e) }))

/-- The checks of step 3 (08 R187): the first fault. -/
def MeOp.lateFault (o : MeOp) (s : State) : Option QStop :=
  let c := s.core
  let ps := o.parts c
  let bad := fun (f : MePart → Bool) => firstBad (fun p => p.fault o.ent s.part) (ps.filter f)
  if o.badBounds c then some { code := 2 }
  else if o.badScales c then some { code := 3 }
  else
    match bad (fun p => p.operand < 4) with
    | some e => some e
    | none =>
      match bad (fun p => 4 ≤ p.operand) with
      | some e => some e
      | none => if ps.any (fun p => s.anyOff (p.keys s o.ent)) then some { code := 5 } else none

/-- Bank groups of an operand. -/
def MeOp.groupsOf (o : MeOp) (s : State) (k : Nat) : List Nat :=
  (((o.parts s.core).filter (fun p => p.operand == k)).map (fun p => (keyGroups (p.keys s o.ent)).map (·.2))).flatten.eraseDups

/-- All groups of an operation. -/
def MeOp.groups (o : MeOp) (s : State) : List Nat := ((List.range 6).map (o.groupsOf s)).flatten.eraseDups

/-- The bank-conflict fault (07 R155, 08 R449): a group that an attention operation of the core owns, or two operands with a group in
common. -/
def MeOp.conflict (o : MeOp) (s : State) : Bool :=
  (o.groups s).any (fun g => s.core.atRun.any (fun a => a.groups.contains g))
    || (List.range 6).any (fun i => (List.range 6).any (fun j => i != j && (o.groupsOf s i).any ((o.groupsOf s j).contains)))

/-- Cycles of the MAC steps (08 R188). -/
def MeOp.macLen (o : MeOp) : Nat := if meM8 o.fmt then meK o.tmpl else 2 * meK o.tmpl

/-- The engine may take the next operation (08 R188): the MAC steps of the one before are over, and a continuing operation finds the
array handed to the EP. -/
def MeOp.free (o : MeOp) (c : Core) : Bool :=
  c.me.all (fun m => decide (m.fired + m.op.macLen ≤ c.ccyc))
    && (meZi o.tmpl || meRl o.tmpl || c.me.all (fun m => !meDr m.op.tmpl || (match m.stage with
      | .drain _ => true
      | _ => false)))

/-- What the ME would do with the head of its queue. -/
inductive MeAct where
  | none
  | stop (q : QStop)
  | ask
  | wake
  | fire
  deriving DecidableEq, Repr

/-- The head of the ME queue (08 R187). An operation that met a silent error stops it (08 R190). -/
def State.meAct (s : State) : MeAct :=
  let c := s.core
  match c.ctx.meq with
  | [] => .none
  | o :: _ =>
    if c.ctx.meStop.isSome || c.me.any (·.bad) then .none
    else if o.badTmpl c.ctx then .stop { code := 1 }
    else if o.badRole c.ctx then .stop { code := 6 }
    else if !o.counts c then .none
    else
      match o.lateFault s with
      | some e => .stop e
      | none =>
        let size := if meM8 o.fmt then 24 else 20
        if c.meR.held ≠ size then (if c.meR.asked then .none else .ask)
        else if !o.free c then .none
        else if o.conflict s then .stop { code := 4 }
        else
          let ks := ((o.parts c).filter (fun p => !p.wr)).map (fun p => p.keys s o.ent)
          if ks.any s.anyAsleep then (if ks.any (fun k => (keyBanks k).any (fun x => (s.getCore x.1).bank x.2.1 x.2.2 == .ret)) then .wake else .none)
          else .fire

/-- First byte key of an operand's part. -/
def MeOp.key (s : State) (o : MeOp) (ha : Nat) : Nat :=
  let e := entOf o.ent (haHandle ha)
  localKey s.cix (hSpace e) (s.regionBase s.station s.part (haHandle ha) e + haOff ha)

/-- The operation leaves the queue and runs (08 R187, R188). -/
def State.meStart (s : State) (o : MeOp) : State :=
  let c := s.core
  let t := o.tmpl
  let slotKey := fun (p : CbDesc × Nat) => o.key s (p.1.ha p.2)
  let m : MeFired :=
    { op := o, owner := c.ctx.cid
      aKey := slotKey (o.slotIn c (fld t 32 4)), bKey := slotKey (o.slotIn c (fld t 36 4)), rKey := slotKey (o.slotIn c (fld t 40 4))
      dKey := slotKey (o.slotOut c), scaKey := o.key s (o.scaHa c), scbKey := o.key s (o.scbHa c)
      biasKey := o.key s (put (fld t 208 12) 52 + 64 * tf t 14), resKey := o.key s (put (fld t 240 12) 52 + 64 * tf t 16)
      groups := o.groups s, fired := c.ccyc, stage := .mac (c.ccyc + 24 + o.macLen), arr := [], arrFlags := [], bad := false }
  s.mapCore (fun c => { c with me := c.me ++ [m], ctx := { c.ctx with meq := c.ctx.meq.drop 1 } })

/-- The head of the queue once it holds its reservation. -/
def State.meGo (s : State) (o : MeOp) : State :=
  match s.meAct with
  | .none | .ask => s
  | .stop q => (s.logStop .me q).stopQueue 0 q.code false o.num
  | .wake => ((o.parts s.core).filter (fun p => !p.wr)).foldl (fun s p => s.startWakes (p.keys s o.ent)) s
  | .fire => s.meStart o

/-- ME_FIRE: the head of the queue stops it, asks for its reservation, wakes its banks, or fires; with draw units of its pool it goes on
in the same cycle (15 R369). -/
def State.meFire (s : State) : State :=
  match s.core.ctx.meq with
  | [] => s
  | o :: _ =>
    match s.meAct with
    | .ask => (s.askRes 0 (if meM8 o.fmt then 24 else 20)).meGo o
    | _ => s.meGo o

def execMeFire (s : State) : Host.Outcome State Fault Refusal := .next s.meFire

/-! ### MAC completion (03 R71, R72; 08 R176 to R178, R188) -/

/-- Element e of the accumulator of a context; undefined after a cancellation (08 R189). -/
def Ctx.accAt (x : Ctx) (e : Nat) : Fl :=
  match x.accFree with
  | some n => fp32eVal (Config.freeWord n e).toNat
  | none => fp32eVal (Tab.get 0 x.acc e).toNat

/-- The value an element of the tile starts from. -/
def MeFired.start (m : MeFired) (s : State) (x : Ctx) (i j : Nat) : Fl :=
  let t := m.op.tmpl
  if meZi t then Fl.zero
  else if meRl t then
    let rs := meRs t
    let b := s.rdLE (m.rKey + 64 * tf t 8 + 64 * tf t 9 * i + rs * j) rs
    if rs = 2 then bf16.dec b else fp32.dec b
  else x.accAt (128 * i + j)

/-- Numbers of a list of bytes. -/
def State.rdNats (s : State) (k n : Nat) : List Nat := (s.rdN k n).map BitVec.toNat

/-- The sum of element (i, j), with its flags (03 R71, R72). -/
def MeFired.sum (m : MeFired) (s : State) (x : Ctx) (i j : Nat) : Fl × Flags :=
  let t := m.op.tmpl
  let ra := m.aKey + 64 * tf t 4 + 64 * tf t 5 * i
  let rb := m.bKey + 64 * tf t 6 + 64 * tf t 7 * j
  let c0 : Fl × Flags := (m.start s x i j, {})
  if meM8 m.op.fmt then
    (List.range (meKb t)).foldl (fun acc b =>
      m8Accumulate acc (s.rdNats (ra + 32 * b) 32) (s.rdNats (rb + 32 * b) 32)
        (s.rd1 (m.scaKey + 512 * (b / 4) + 4 * i + b % 4)).toNat (s.rd1 (m.scbKey + 512 * (b / 4) + 4 * j + b % 4)).toNat) c0
  else
    (List.range (meK t)).foldl (fun acc k => bf16Accumulate acc (s.rdLE (ra + 2 * k) 2) (s.rdLE (rb + 2 * k) 2)) c0

/-- The whole array after an operation, and the flags its elements raised. -/
def MeFired.array (m : MeFired) (s : State) (x : Ctx) : Tab Word × List (Nat × Nat) :=
  let es := (List.range 16384).map (fun e => (e, m.sum s x (e / 128) (e % 128)))
  ((es.map (fun p => (p.1, BitVec.ofNat 64 (fp32eBits p.2.1)))).filter (fun p => p.2 != 0),
   es.filterMap (fun p => if p.2.2.inv || p.2.2.scovf then some (p.1, bit p.2.2.inv + put (bit p.2.2.scovf) 4) else none))

/-- A core's fired ME operation changed. -/
def Core.updMe (c : Core) (num owner : Nat) (f : MeFired → MeFired) : Core :=
  { c with me := c.me.map (fun m => if m.op.num = num && m.owner = owner then f m else m) }

/-- The EP is free. -/
def Core.epFree (c : Core) : Bool := c.me.all (fun m => match m.stage with
  | .drain _ => false
  | _ => true)

/-- The odd version that a `.whole` write begins with, and the even one that it ends with (10 R238). -/
def oddVersion (v : Nat) : Nat := v ||| 1
def evenVersion (v : Nat) : Nat := (oddVersion v + 1) % 2 ^ 64

/-- The version word of a `.whole` drain before its data, or after them. -/
def State.putVersion (s : State) (key : Nat) (f : Nat → Nat) : State :=
  s.store (List.zip (keysFrom (key + 8) 8) (leBytes (f (s.rdLE (key + 8) 8)) 8))

/-- A drain starts: 128 cycles for each word of the program (08 R188). -/
def State.drainStart (s : State) (m : MeFired) : State :=
  let s1 := s.mapCore (fun c => c.updMe m.op.num m.owner (fun m => { m with stage := .drain (c.ccyc + 128 * epLen m.op.ep) }))
  if meWh m.op.tmpl then s1.putVersion m.dKey oddVersion else s1

/-- The operands that a fired operation reads in its MAC steps, or those that its program reads. It is the oldest of its queue then, and no
pop and no slot is owed before it. -/
def State.meReads (s : State) (m : MeFired) (mac : Bool) : List MePart :=
  (m.op.parts { s.core with ctx := s.core.ownerCtx m.owner, me := [] }).filter (fun p => if mac then p.operand < 3 else 4 ≤ p.operand)

/-- Operands are read: corrections are made, and an uncorrectable word is reported (16 R393). -/
def State.meConsume (s : State) (m : MeFired) (mac : Bool) : State :=
  if s.chk.isEmpty then s
  else (s.meReads m mac).foldl (fun s p =>
    s.consumeFor m.owner (p.keys s m.op.ent) (hSpace (entOf m.op.ent (haHandle p.ha))) p.ha m.op.phase) s

/-- The keys of the uncorrectable words that an operation reads. -/
def State.meBad (s : State) (m : MeFired) (mac : Bool) : List Nat := (s.meReads m mac).filterMap (fun p => s.badWord (p.keys s m.op.ent))

/-- The K block whose operands lie at a key: of a row, or of the scales (08 R189). -/
def MeFired.blockOf (m : MeFired) (key : Nat) : Nat :=
  let t := m.op.tmpl
  let a := m.aKey + 64 * tf t 4
  let b := m.bKey + 64 * tf t 6
  let col := fun (base str : Nat) => (key - base) % (64 * str) / (32 * meEs m.op.fmt)
  let inRows := fun (base str : Nat) => decide (base ≤ key) && decide (key < base + 64 * str * 128)
  let inScales := fun (base : Nat) => meM8 m.op.fmt && decide (base ≤ key) && decide (key < base + 128 * meKb t)
  if inScales m.scaKey then 4 * ((key - m.scaKey) / 512)
  else if inScales m.scbKey then 4 * ((key - m.scbKey) / 512)
  else if inRows a (tf t 5) then col a (tf t 5)
  else if inRows b (tf t 7) then col b (tf t 7)
  else 0

/-- The EP word whose operand lies at a key: `ld.bias` or the first `add.res` (08 R189). -/
def MeFired.wordOf (m : MeFired) (key : Nat) : Nat :=
  let p := m.op.ep
  p.findIdx (fun w => epOp w == (if epHas p 1 && decide (m.biasKey ≤ key) && decide (key < m.biasKey + 512) then 1 else 8))

/-- The operation is bad, with the place at which it stopped (08 R189, R190). -/
def Core.meSpoil (c : Core) (m : MeFired) (mpc : Nat) : Core :=
  (c.onOwner m.owner (fun x => { x with mpc := mpc })).updMe m.op.num m.owner (fun m => { m with stage := .await, bad := true })

/-- Number of an operation completes on tl.me; its cycles count for the request it worked for (14 R359). -/
def State.meDone (s : State) (m : MeFired) (bad : Bool) : State :=
  (s.countMe s.station m.op.rq (s.core.ccyc - m.fired)).mapCore (fun c => { c.onOwner m.owner (fun x => { x with tlMe := x.tlMe.finish m.op.num bad }) with
    me := c.me.filter (fun o => !(o.op.num = m.op.num && o.owner = m.owner)), meR := { c.meR with idle := c.ccyc } })

/-- MAC completion of the oldest operation in its MAC steps: the array, the pops it owes, and the drain or the completion. An operation
with a residue mismatch or an uncorrectable operand completes nothing: its phase is contained (08 R189, R190). -/
def State.macComplete (s : State) : State :=
  match s.core.me.find? (fun m => match m.stage with
    | .mac t => decide (t ≤ s.core.ccyc)
    | _ => false) with
  | none => s
  | some m =>
    let s1 := s.meConsume m true
    let x := s1.core.ownerCtx m.owner
    if m.bad then s1
    else if s.fails s1 then s1.mapCore (fun c => c.meSpoil m (1 + put (((s.meBad m true).map m.blockOf).min?.getD 0) 2))
    else
      let (arr, fl) := m.array s1 x
      let t := m.op.tmpl
      let pop := fun (b : Bool) (k : Nat) (y : Ctx) => if b then y.cbTake k 1 m.op.phase else y
      let s2 := s1.mapCore (fun c => c.onOwner m.owner (fun y =>
        pop (meRl t) (fld t 40 4) (pop (t.getLsbD 7) (fld t 36 4) (pop (t.getLsbD 6) (fld t 32 4) { y with acc := arr, accFree := none }))))
      if meDr t then
        let s3 := s2.mapCore (fun c => c.updMe m.op.num m.owner (fun m => { m with stage := .await, arr := arr, arrFlags := fl }))
        if s2.core.epFree then s3.drainStart m else s3
      else s2.meDone m false

def execMeMacComplete (s : State) : Host.Outcome State Fault Refusal := .next s.macComplete

/-! ### The end of a drain (08 R191 to R196; 03 R73, R75) -/

/-- Bias row and a residual row as values. -/
def State.epVals (s : State) (key es : Nat) : List Fl :=
  (List.range 128).map (fun j => let b := s.rdLE (key + es * j) es; if es = 2 then bf16.dec b else fp32.dec b)

/-- Row i of the tile in the EP. -/
def MeFired.row (m : MeFired) (s : State) (i : Nat) : EpRow :=
  let t := m.op.tmpl
  let p := m.op.ep
  epRow p (meDt t) (fp32.dec (fld t 288 32)) (bf16.dec (fld t 320 16)) (bf16.dec (fld t 336 16))
    (if epHas p 1 then s.epVals m.biasKey (epEs p 1) else [])
    (fun b => if epHas p 8 then s.epVals (m.resKey + 64 * tf t 17 * i) (if b = 0 then 4 else 2) else [])
    ((List.range 128).map (fun j => fp32eVal (Tab.get 0 m.arr (128 * i + j)).toNat))

/-- Bytes of the elements of a row. -/
def MeFired.rowBytes (m : MeFired) (i : Nat) (r : EpRow) : List (Nat × Byte) :=
  let t := m.op.tmpl
  let ss := m.op.ss
  let base := m.dKey + 64 * tf t 10 + 64 * tf t 11 * i
  (r.es.mapIdx (fun j e => List.zip (keysFrom (base + ss * j) ss) (leBytes e.out ss))).flatten

/-- Scale bytes of a row. They are written behind the elements of every row; one that overlaps an element of the tile is written or not, so
that the byte holds one of the two (08 R194). -/
def MeFired.scaleBytes (m : MeFired) (n i : Nat) (r : EpRow) : List (Nat × Byte) :=
  let t := m.op.tmpl
  let ss := m.op.ss
  let scs := if epHas m.op.ep 10 then
      r.scales.mapIdx (fun c e => (m.dKey + 64 * tf t 12 + 4 * i + c, BitVec.ofNat 8 e)) else []
  scs.filter (fun p =>
    let off := p.1 - (m.dKey + 64 * tf t 10)
    let inTile := decide (m.dKey + 64 * tf t 10 ≤ p.1) && decide (off / (64 * tf t 11) < 128) && decide (off % (64 * tf t 11) < 128 * ss)
    !inTile || Config.freeBool n (p.1 - m.dKey))

/-- Statistic of a row (08 R195). -/
def MeFired.statBytes (m : MeFired) (d : CbDesc) (i : Nat) (r : EpRow) : List (Nat × Byte) :=
  if epHas m.op.ep 13 then
    List.zip (keysFrom (m.dKey + 64 * d.slotsz + 64 + 4 * i) 4) (leBytes (fp32.bits .rne false r.stat) 4)
  else []

/-- Flags that an element's sums raised, as they were kept. -/
def arrFlag (l : List (Nat × Nat)) (e : Nat) : Flags :=
  match l.find? (fun p => p.1 == e) with
  | some (_, b) => { inv := b % 2 == 1, scovf := b / 16 % 2 == 1 }
  | none => {}

/-- Exceptions of the whole tile (08 R196). -/
def MeFired.tileFlags (m : MeFired) (rows : List EpRow) : TileFlags :=
  let els := (rows.map (·.es)).flatten
  (els.mapIdx (fun k e => (k, e))).foldl (fun (t : TileFlags) p => t.add p.1 ((arrFlag m.arrFlags p.1).or p.2.fl)) {}

/-- The drain of the operation in the EP ends: tile, scales, statistics and status word are written, the slot is completed, the
number completes, and the next drain that waits starts (08 R188). STATUS of a header is the low word of the status word that the flags of the
tile give, whether or not the buffer has a trailer that holds it (03 R77, 12 R295; log 145). -/
def State.drainEnd (s : State) : State :=
  match s.core.me.find? (fun m => match m.stage with
    | .drain t => decide (t ≤ s.core.ccyc)
    | _ => false) with
  | none => s
  | some m =>
    let x := s.core.ownerCtx m.owner
    let t := m.op.tmpl
    let k := fld t 44 4
    let d := x.cbk k
    let s0 := s.meConsume m false
    if m.bad then s0
    else if s.fails s0 then s0.mapCore (fun c => c.meSpoil m (2 + put (((s.meBad m false).map m.wordOf).min?.getD 0) 11))
    else
      let rows := (List.range 128).map (m.row s0)
      let s1 := s0.store ((rows.mapIdx m.rowBytes).flatten ++ (rows.mapIdx (m.scaleBytes s0.free)).flatten ++ (rows.mapIdx (m.statBytes d)).flatten)
      let sw := statusWord (m.tileFlags rows) 0 (tyCode (epStoreTy m.op.ep (meDt t))) m.op.num
      let s2 := if 64 ≤ d.trl then s1.store (List.zip (keysFrom (m.dKey + 64 * d.slotsz) 64) (leBytes sw 64)) else s1
      let s3 := if meWh t then (s2.store (List.zip (keysFrom (m.dKey + 16) 8) (leBytes sw 8))).putVersion m.dKey evenVersion else s2
      let s4 := (s3.mapCore (fun c => c.onOwner m.owner (fun y => y.cbFill k 1 m.op.phase))).meDone m false
      match s4.core.me.find? (fun m => m.stage == .await && !m.bad) with
      | some w => s4.drainStart w
      | none => s4

def execMeDrainEnd (s : State) : Host.Outcome State Fault Refusal := .next s.drainEnd

/-- ME_RESERVATION_RETURN (08 R188): 64 cycles with nothing queued, firing or draining, counted from the last cycle with something. -/
def State.meReturn (s : State) : State :=
  let c := s.core
  if !(c.me.isEmpty && c.ctx.meq.isEmpty) then s.mapCore (fun c => { c with meR := { c.meR with idle := c.ccyc } })
  else if !c.meR.asked && c.meR.held != 0 && decide (c.meR.idle + 64 ≤ c.ccyc) then s.release s.cix 0 else s

def execMeReservationReturn (s : State) : Host.Outcome State Fault Refusal := .next s.meReturn

end Sys2Proof.Machine
end

