-- ==== Sys2Proof/Machine/Copies.lean ====
section
/-! DEFINITION. The copy engine: copies, their chunks, parking, multicast, transfers to other modules (spec 09 R216 to R226; 10 R238; 11 R264, R265; 18 R428). -/

namespace Sys2Proof.Machine

/-! ### Issue (09 R216, R223) -/

/-- A copy instruction takes the next number of tl.ce, which lands in its d field, and its command leaves (09 R223). -/
def State.sendCopy (s : State) (i : Instr) (d : Reg) : State :=
  let n := s.core.ctx.tlCe.issued + 1
  ((s.mapCtx (takeEng 3)).sendCmd i [n]).setS .e d (BitVec.ofNat 64 n) 2

/-- `cp` (09 R224). -/
def execCp (f : CpFlags) (cb : BitVec 4) (d a b c : Reg) (s : State) : Host.Outcome State Fault Refusal :=
  issue famEng (.cp f cb d a b c) (fun _ => 2) (fun s => s.sendCopy (.cp f cb d a b c) d) s

/-- `cp.m` (09 R225). -/
def execCpM (ver ph : Bool) (cb : BitVec 4) (off : BitVec 16) (d a b c : Reg) (s : State) : Host.Outcome State Fault Refusal :=
  issue famEng (.cpM ver ph cb off d a b c) (fun _ => 2) (fun s => s.sendCopy (.cpM ver ph cb off d a b c) d) s

/-- `cp.2d` (09 R226). -/
def execCp2d (f : CpFlags) (t : BitVec 6) (cb : BitVec 4) (d a b c : Reg) (s : State) : Host.Outcome State Fault Refusal :=
  issue famEng (.cp2d f t cb d a b c) (fun _ => 2) (fun s => s.sendCopy (.cp2d f t cb d a b c) d) s

/-- `gat` (09 R226). -/
def execGat (f : CpFlags) (t : BitVec 6) (cb : BitVec 4) (d a b c : Reg) (s : State) : Host.Outcome State Fault Refusal :=
  issue famEng (.gat f t cb d a b c) (fun _ => 2) (fun s => s.sendCopy (.gat f t cb d a b c) d) s

/-- `sca` (09 R226). -/
def execSca (f : CpFlags) (t : BitVec 6) (cb : BitVec 4) (d a b c : Reg) (s : State) : Host.Outcome State Fault Refusal :=
  issue famEng (.sca f t cb d a b c) (fun _ => 2) (fun s => s.sendCopy (.sca f t cb d a b c) d) s

/-- `cp.res` (09 R221). -/
def execCpRes (d a : Reg) (s : State) : Host.Outcome State Fault Refusal :=
  issue famEng (.cpRes d a) (fun _ => 8) (fun s => s.askUnit (.cpRes d a) d 8) s

/-- `cp.res.drop` (09 R221). -/
def execCpResDrop (d a : Reg) (s : State) : Host.Outcome State Fault Refusal :=
  issue famEng (.cpResDrop d a) (fun _ => 8) (fun s => s.askUnit (.cpResDrop d a) d 8) s

/-! ### Parameters at the front (09 R224 to R226) -/

/-- The template part of a copy's parameters. -/
def ceParm (t : BitVec 512) : CpParm :=
  { kind := (match fld t 5 3 with
      | 2 => .two
      | 3 => .gather
      | 4 => .scatter
      | _ => .lin)
    ver := t.getLsbD 0, whole := t.getLsbD 1, ph := t.getLsbD 2, dcb := t.getLsbD 3, scb := t.getLsbD 4, cb := fld t 8 4
    src := fld t 16 64, dst := fld t 80 64, len := fld t 144 32, nrow := fld t 176 16, sstep := fld t 192 32, dstep := fld t 224 32
    idx := fld t 256 64, off := 0, mask := 0, tmplOk := true }

/-- The template is loaded for the CE and holds no reserved bit (09 R220, code 15). -/
def ceTmplOk (t : BitVec 512) : Bool :=
  t.getLsbD 496 && fld t 497 3 == 3 && fld t 12 4 == 0 && fld t 320 176 == 0 && fld t 500 12 == 0

/-- A template that a patch word issues (09 R226). -/
def ceIssueParm (t : BitVec 512) : CpParm :=
  { ceParm t with tmplOk := ceTmplOk t && decide (1 ≤ fld t 5 3) && decide (fld t 5 3 ≤ 4) && !(t.getLsbD 3 && t.getLsbD 4) }

/-- Parameters of a copy instruction: registers a, b, c and its template. -/
def cpParm (i : Instr) (tm : Nat → BitVec 512) (a b c : Nat) : CpParm :=
  let withF := fun (p : CpParm) (f : CpFlags) (cb : BitVec 4) =>
    { p with ver := f.ver, whole := f.whole, ph := f.ph, dcb := f.dcb, scb := f.scb, cb := cb.toNat }
  let ofT := fun (t : BitVec 6) (f : CpFlags) (cb : BitVec 4) (k : CpKind) =>
    { withF (ceParm (tm t.toNat)) f cb with kind := k, src := a, dst := b, tmplOk := ceTmplOk (tm t.toNat) }
  let plain : CpParm :=
    { kind := .lin, ver := false, whole := false, ph := false, dcb := false, scb := false, cb := 0, src := a, dst := b, len := c, nrow := 0,
      sstep := 0, dstep := 0, idx := 0, off := 0, mask := 0, tmplOk := true }
  match i with
  | .cp f cb .. => withF plain f cb
  | .cpM ver ph cb off .. => { plain with kind := .multi, ver := ver, ph := ph, cb := cb.toNat, off := 64 * off.toNat, mask := b, dst := 0 }
  | .cp2d f t cb .. => { ofT t f cb .two with len := c }
  | .gat f t cb .. => { ofT t f cb .gather with idx := c }
  | .sca f t cb .. => { ofT t f cb .scatter with idx := c }
  | _ => plain

/-- Rows of a copy, and its bytes in all. -/
def CpParm.rows (p : CpParm) : Nat := match p.kind with
  | .lin | .multi => 1
  | _ => p.nrow + 1
def CpParm.total (p : CpParm) : Nat := p.rows * p.len

/-- Cores a multicast names. -/
def cpTargets (core mask : Nat) : List Nat := ((List.range 48).filter (tbit mask)).map (· + 48 * stationOf core)

/-- Handles a copy uses: those of its addresses and of its buffers, a multicast's at each core that it names. -/
def State.cpHandles (s : State) (x : Ctx) (p : CpParm) : List Nat :=
  ((match p.kind with
    | .multi => haHandle p.src :: (cpTargets s.cix p.mask).map (fun c => ((s.getCore c).cbShown p.cb).handle)
    | .gather | .scatter => [haHandle p.src, haHandle p.dst, haHandle p.idx]
    | _ => [haHandle p.src, haHandle p.dst]) ++ (if p.dcb || p.scb then [(x.cbk p.cb).handle] else [])).eraseDups

/-- A copy is accepted with the entries of its handles (09 R206, R216). -/
def State.acceptCopy (s : State) (p : CpParm) (num phase bundle : Nat) : State :=
  let ent := s.entries (s.cpHandles s.core.ctx p)
  s.mapCore (fun c => { c with copies := c.copies ++ [{ num := num, owner := c.ctx.cid, phase := phase, bundle := bundle, parm := p, ent := ent }] })

/-! ### Parking (09 R220) -/

/-- Parking code of an access fault. -/
def parkCode (c : Nat) : Nat :=
  if c = cNotPresent then 1 else if c = cProtection then 2 else if c = cTransFormat then 3 else if c = cHandleInvalid then 4
  else if c = cHandleSpace then 5 else if c = cBound then 6 else if c = cRights then 7 else 8

/-- A copy of the core in focus changed. -/
def State.updCopy (s : State) (num owner : Nat) (f : Copy → Copy) : State :=
  s.mapCore (fun c => { c with copies := c.copies.map (fun k => if k.num = num && k.owner = owner then f k else k) })

/-- The walks of a copy are over (09 R212). -/
def State.endCopyWalks (s : State) (num owner : Nat) : State :=
  let mine := fun (w : Walk) => w.core == s.cix && w.copy == some (num, owner)
  { s with walks := s.walks.filter (fun w => !mine w), walkFault := s.walkFault.filter (fun w => !mine w.1) }

/-- A copy leaves the CE. -/
def State.removeCopy (s : State) (k : Copy) : State :=
  (s.endCopyWalks k.num k.owner).mapCore (fun c => { c with
    copies := c.copies.filter (fun o => !(o.num = k.num && o.owner = k.owner)), ceR := { c.ceR with idle := max c.ceR.idle c.ccyc } })

/-- The slot that a refetch rewrites is available again (16 R392). -/
def State.refetched (s : State) (k : Copy) : State :=
  s.mapCore (fun c => { c with refetch := c.refetch.map (fun r =>
    if r.owner = k.owner && r.cb = k.parm.cb && k.slots.any (fun t => t.slot == r.slot) then { r with busy := false } else r) })

/-- A stage cannot be rewritten from its source: the replay meets an error that is not contained (16 R391; log 144). -/
def State.refetchFails (s : State) (k : Copy) : State :=
  ((s.removeCopy k).refetched k).raiseErr { kind := 4, phase := k.phase, owner := k.owner }

/-- A copy parks: the trap becomes pending in its context (09 R220). -/
def State.parkCopy (s : State) (k : Copy) (code ha : Nat) : State :=
  if k.re then s.refetchFails k
  else
  let s1 := (s.endCopyWalks k.num k.owner).updCopy k.num k.owner (fun k =>
    { k with park := some (code, ha), sent := none, data := none, till := none })
  s1.mapCore (fun c => c.onOwner k.owner (fun x =>
    { x with pending := x.pending ++ [{ code := cParked, detail := k.num % 2 ^ 64, addr := ha }] }))

/-- The violation of a copy (09 R205): bound, rights and partition faults. -/
def State.logCopy (s : State) (k : Copy) (c ha : Nat) : State :=
  if logged c then s.logV (hViolation s.cix (s.core.ownerCtx k.owner).f.part .ce ha c) else s

/-- A copy parks for what an access of it found: bound, rights and partition faults log (09 R205, R220). -/
def State.parkFault (s : State) (k : Copy) (code fault ha : Nat) : State := (s.logCopy k fault ha).parkCopy k code ha

/-- A copy leaves the CE and its number completes; `bad` where it was discarded or abandoned (09 R221, R222). A refetch has no number. -/
def State.endCopy (s : State) (k : Copy) (bad : Bool) : State :=
  let s1 := s.removeCopy k
  if k.re then s1.refetched k
  else s1.mapCore (fun c => c.onOwner k.owner (fun x => { x with tlCe := x.tlCe.finish k.num bad }))

/-! ### Addresses -/

def srcSpaces : List Nat := [spW, spA, spC, spD, spK, spS, spG, spH, spX]
def dstSpaces : List Nat := [spW, spA, spC, spD, spK, spG, spH, spX]
def idxSpaces : List Nat := [spW, spA, spC, spD, spG]

/-- A place that a chunk touches: handle and offset, which may lie beyond the offset field. -/
structure Place where
  h : Nat
  off : Nat
  deriving DecidableEq, Repr

def Place.ha (p : Place) : Nat := p.h * 2 ^ 52 + p.off % 2 ^ 52
def placeOf (ha d : Nat) : Place := { h := haHandle ha, off := haOff ha + d }

/-- What checking a place finds: a parking code with its fault, an address without a translation, a place behind a port, or the keys of
its bytes. -/
inductive Spot where
  | bad (code : Nat) (fault : Nat)
  | miss (va : Nat)
  | remote (port peer rha : Nat)
  | ok (space : Nat) (dur : Bool) (keys : List Nat)
  deriving DecidableEq, Repr

/-- Header part of the pages of space K: 64 bytes for each page id (13 R322). -/
def hdrBase : Nat := 0x80000000
def hdrBytes : Nat := 64 * 2 ^ 24
def inHdr (off n : Nat) : Bool := decide (hdrBase < off + n) && decide (off < hdrBase + hdrBytes)

/-- The offset of a place in the K space of its partition. -/
def kOff (e : HEnt) (p : Place) : Nat := (if p.h < 8 then 0 else hBase e) + p.off

/-- A range of K lies in the bodies of the die pages, in those of the spill pages or in the headers that management has given the partition;
what lies elsewhere is no part of its share (01 R21; 13 R322; log 146). -/
def State.kPlace (s : State) (st part off n : Nat) : Bool :=
  let k := Tab.get {} s.kv (4 * st + part)
  let within := fun (lo len : Nat) => decide (lo ≤ off) && decide (off + n ≤ lo + len)
  within 0 (16384 * k.npage) || within (2 ^ 32) (16384 * k.nspill) || within hdrBase (64 * k.npage) || within (hdrBase + 64 * 2 ^ 17) (64 * k.nspill)

/-- Usable segment in a pond slot. -/
def State.segAt (s : State) (station slot : Nat) : Option PondSeg :=
  match Tab.get none s.pond (640 * station + slot) with
  | some p => if p.staging.isNone && decide (p.since ≤ s.stroke) then some p else none
  | none => none

/-- The slot of the pond view that an offset of S lies in, and the key of its byte (11 R264): bodies, then headers of 64 bytes. -/
def pondPlace (off : Nat) : Nat × Nat :=
  if 0x50000000 ≤ off then ((off - 0x50000000) / 64, 2 ^ 21 + (off - 0x50000000) % 64) else (off / 2 ^ 21, off % 2 ^ 21)

/-- Key of a byte of S for a context that holds the pin of its slot (11 R264): none where a condition fails. -/
def State.pondKey (s : State) (station : Nat) (x : Ctx) (off : Nat) : Option Nat :=
  let (slot, b) := pondPlace off
  match s.segAt station slot with
  | some p =>
    if p.seg.part = x.f.part && (x.pins.any (fun q => match q.2 with
        | some pin => pin.slot == slot && pin.sid == p.seg.sid
        | none => false)) then some (rSeg p.seg.sid + b)
    else none
  | none => none

/-- Keys of a range of S: every slot that it touches meets the conditions. -/
def State.pondKeys (s : State) (station : Nat) (x : Ctx) (off n : Nat) : Option (List Nat) :=
  (List.range n).mapM (fun i => s.pondKey station x (off + i))

/-- The checks of `n` bytes at a place for the copy engine, and their translation where it is at hand (09 R205, R211, R219; 11 R264;
13 R322). `who` is the copy whose walks serve it. -/
def State.spot (s : State) (core : Nat) (x : Ctx) (ent : List (Nat × BitVec 256)) (who : Option (Nat × Nat)) (p : Place) (n : Nat) (wr : Bool)
    (spaces : List Nat) : Spot :=
  let e := entOf ent p.h
  let st := stationOf core
  match checkAt e .ce x.f.part p.h p.off n (!wr) wr spaces with
  | some c => .bad (parkCode c) c
  | none =>
    let sp := hSpace e
    if sp = spX then .remote (hPort e) (hPeer e) ((hBase e + p.off) % 2 ^ 64)
    else if sp = spG || sp = spH then
      match trBytes (fun a => s.translateQ core x.f.part a (!wr) wr sp who) sp (hBase e + p.off) n with
      | .ok ks => .ok sp (hDur e && sp == spG) ks
      | .miss a => .miss a
      | .bad c => .bad (parkCode c) c
    else if sp = spS then
      match s.pondKeys st x (s.regionBase st x.f.part p.h e + p.off) n with
      | some ks => .ok sp false ks
      | none => .bad 7 cRights
    else if sp = spK && wr && inHdr (kOff e p) n then .bad 7 cRights
    else if sp = spK && !s.kPlace st x.f.part (kOff e p) n then .bad 6 cBound
    else .ok sp false (keysFrom (localKey core sp (s.regionBase st x.f.part p.h e + p.off)) n)

/-- The same for who does not wait for a walk: a miss is walked at once, for each of the two pages the range may lie in. -/
def State.spotNow (s : State) (core : Nat) (x : Ctx) (ent : List (Nat × BitVec 256)) (p : Place) (n : Nat) (wr : Bool) (spaces : List Nat) :
    State × Spot :=
  let walk := fun (s : State) => match s.spot core x ent none p n wr spaces with
    | .miss va =>
      match s.translateNow core x.f.part va (!wr) wr (hSpace (entOf ent p.h)) with
      | (s1, .error c) => (s1, Spot.bad (parkCode c) c)
      | (s1, .ok _) => (s1, s1.spot core x ent none p n wr spaces)
    | r => (s, r)
  match walk s with
  | (s1, .miss _) => walk s1
  | r => r

/-- Bytes a copy reads: page headers come from the KV units (13 R322), the pond's headers from its segments. -/
def State.hdrByte (s : State) (core part off : Nat) : Byte :=
  let k := Tab.get {} s.kv (4 * stationOf core + part)
  ((Tab.get hdr0 k.hdr ((off - hdrBase) / 64)).extractLsb' (8 * (off % 64)) 8)

/-- The header of a segment (11 R263). -/
def Seg.header (g : Seg) : BitVec 512 :=
  BitVec.ofNat 512 (g.tag + put g.part 16 + put g.kind 18 + put g.race 20 + put g.cidx 24 + put g.late 38 + put (g.rot % 2 ^ 32) 48
    + put g.gen 80 + put g.user 96)

/-- One byte of a copy's source. What the copy has overwritten of it is read as it was (09 R224). -/
def State.copyByte (s : State) (core part : Nat) (old : Tab (Option Byte)) (key : Nat) : Byte :=
  match Tab.get none old key with
  | some b => b
  | none =>
    let st := stationOf core
    let k0 := rK st + kBase part
    if k0 + hdrBase ≤ key && key < k0 + hdrBase + hdrBytes then s.hdrByte core part (key - k0)
    else if rSeg 0 ≤ key && 2 ^ 21 ≤ key % regionSize then
      match s.pond.find? (fun p => match p.2 with
        | some q => rSeg q.seg.sid == key / regionSize * regionSize
        | none => false) with
      | some (_, some q) => q.seg.header.extractLsb' (8 * (key % 64)) 8
      | _ => 0
    else s.rd1 key

/-! ### What a copy reaches -/

/-- What one side of an access of a copy finds beyond the handle checks: an OFF bank that is read, an owned bank group; the drop comes first
where both hold (09 R220; log 17). -/
def State.sideFault (s : State) (ks : List Nat) (wr : Bool) : Option Nat :=
  if !wr && s.anyOff ks then some 10 else if s.conflict ks then some 9 else none

/-- The peer of an X handle is valid and answers only at its own port (18 R424, R428). -/
def State.peerOk (s : State) (port peer : Nat) : Bool :=
  let e := Tab.get 0 s.peers peer
  e.getLsbD 22 && fld e 12 3 == port

/-- The request that goes to a peer: its station and partition come from the peer table, the remote handle address from the X handle
(18 R424, R428). -/
def State.xReq (s : State) (port peer rha n : Nat) : XReq :=
  let e := Tab.get 0 s.peers peer
  { port := port, mac := fld e 64 48, station := fld e 17 5, part := fld e 15 2, ha := rha, n := n }

/-- What an access of a copy comes to: it waits for a walk or a wake, it parks the copy, it goes to a port, or it has its bytes. -/
inductive Reach where
  | wait
  | bad (code fault : Nat)
  | far (r : XReq)
  | ok (dur : Bool) (keys : List Nat)
  deriving DecidableEq, Repr

/-- An access of a copy of the core in focus to `n` bytes at a place of a core: its checks, its translation (a miss joins the walks), and
for a read the wake of the banks (05 R112; 07 R155, R157; 09 R205, R213, R219; 18 R428). -/
def State.reach (s : State) (k : Copy) (core : Nat) (x : Ctx) (ent : List (Nat × BitVec 256)) (p : Place) (n : Nat) (wr : Bool)
    (spaces : List Nat) : State × Reach :=
  match s.spot core x ent (some (k.num, k.owner)) p n wr spaces with
  | .bad c f => (s, .bad c f)
  | .miss va =>
    (s.askWalk { core := core, part := x.f.part, va := va, rd := !wr, wr := wr, space := hSpace (entOf ent p.h), copy := some (k.num, k.owner) }, .wait)
  | .remote port peer rha => (s, if s.peerOk port peer then .far (s.xReq port peer rha n) else .bad 13 0)
  | .ok _ dur ks =>
    match s.sideFault ks wr with
    | some c => (s, .bad c 0)
    | none => if !wr && s.anyAsleep ks then (s.startWakes ks, .wait) else (s, .ok dur ks)

/-! ### Rows and chunks (09 R219, R226) -/

/-- Source and destination of a copy once it has taken its slot: the base addresses, or those of the metadata headers. -/
def Copy.base (k : Copy) (x : Ctx) (core : Nat) : Nat × Nat :=
  let p := k.parm
  let slot := ((k.slots.find? (fun t => t.core == core)).map (·.slot)).getD 0
  let src := if p.scb then haAdd ((x.cbk p.cb).ha slot) p.src else p.src
  let dst := if p.dcb then haAdd ((x.cbk p.cb).ha slot) p.dst else p.dst
  (src, dst)

/-- Source and destination places of byte `pos` of the copy, whose row has the index `ix`, and the bytes left in its row. -/
def Copy.at (k : Copy) (x : Ctx) (core ix pos : Nat) : Place × Place × Nat :=
  let p := k.parm
  let (src, dst) := k.base x core
  let r := pos / p.len
  let o := pos % p.len
  let so := if p.ver then 64 else 0
  let dO := if p.whole then 64 else 0
  let (ds, dd) : Nat × Nat := match p.kind with
    | .lin | .multi => (0, 0)
    | .two => (p.sstep * r, p.dstep * r)
    | .gather => (p.sstep * ix, p.dstep * r)
    | .scatter => (p.sstep * r, p.dstep * ix)
  (placeOf src (so + ds + o), placeOf dst (dO + dd + o), p.len - o)

/-- Rows of a copy take an index from its list. -/
def CpParm.indexed (p : CpParm) : Bool := p.kind == .gather || p.kind == .scatter

/-- Entry r of the index list, as it stands. -/
def State.copyIdx (s : State) (x : Ctx) (k : Copy) (r : Nat) : Nat :=
  if k.parm.indexed then
    match s.spotNow s.cix x k.ent (placeOf k.parm.idx (4 * r)) 4 false idxSpaces with
    | (_, .ok _ _ ks) => leNat (s.rdKeys ks)
    | _ => 0
  else 0

/-- The places of byte `pos`, with the index its row has now. -/
def State.copyAt (s : State) (k : Copy) (x : Ctx) (pos : Nat) : Place × Place × Nat := k.at x s.cix (s.copyIdx x k (pos / k.parm.len)) pos

/-- The address whose 64 KiB boundaries end a chunk: virtual for G and H (09 R219). -/
def chunkAddr (ent : List (Nat × BitVec 256)) (p : Place) : Nat :=
  let e := entOf ent p.h
  if hSpace e = spG || hSpace e = spH then hBase e + p.off else p.off

/-- Bytes to the next 64 KiB boundary. -/
def toEdge (a : Nat) : Nat := 65536 - a % 65536

/-- Destinations of a chunk: the core, its context, the place there. A multicast has one at each core (09 R225). -/
def State.chunkDests (s : State) (k : Copy) (x : Ctx) (dp : Place) : List (Nat × Ctx × Place) :=
  match k.parm.kind with
  | .multi => k.slots.map (fun t =>
      let y := (s.getCore t.core).ctx
      (t.core, y, placeOf ((y.cbOut k.parm.cb (s.getCore t.core).ccyc).ha t.slot) (k.parm.off + k.pos)))
  | _ => [(s.cix, x, dp)]

/-! ### Before the first chunk -/

/-- Codes 14 and 15, decided before the first chunk, with the address they name (09 R220, R223 to R226). -/
def Copy.parmFault (k : Copy) (x : Ctx) (core : Nat) : Option (Nat × Nat) :=
  let p := k.parm
  let (src, dst) := k.base x core
  if !p.tmplOk then some (15, src)
  else if p.len = 0 || 2 ^ 32 ≤ p.len then some (14, src)
  else if p.kind = .multi then
    if p.mask = 0 || 2 ^ 48 ≤ p.mask || p.len % 64 ≠ 0 || haOff p.src % 64 ≠ 0 then some (14, src) else none
  else if p.ver && haOff src % 64 ≠ 0 then some (14, src)
  else if p.whole && haOff dst % 64 ≠ 0 then some (14, dst)
  else none

/-- The cb-role faults (09 R220, code 11), and the bounds of a multicast slot. -/
def State.roleFault (s : State) (k : Copy) (x : Ctx) : Option (Nat × Nat) :=
  let p := k.parm
  let d := x.cbk p.cb
  let (src, dst) := k.base x s.cix
  match p.kind with
  | .multi =>
    let ts := cpTargets s.cix p.mask
    if ts.any (fun c =>
        let y := (s.getCore c).ctx
        let b := (s.getCore c).cbShown p.cb
        y.f.part != x.f.part || !b.valid || b.prod != 6) then some (11, p.src)
    else if ts.any (fun c => decide (64 * ((s.getCore c).cbShown p.cb).slotsz < p.off + p.len)) then some (14, p.src)
    else none
  | _ =>
    if p.dcb && !(d.valid && d.prod == 5) then some (11, dst)
    else if p.scb && !(d.valid && d.cons == 5) then some (11, src)
    else none

/-- The addresses that a copy has come to: those of the chunk in hand, or the first (09 R221). -/
def State.copyPlace (s : State) (k : Copy) (x : Ctx) : Nat × Nat :=
  if k.begun && decide (k.pos < k.parm.total) then
    let a := s.copyAt k x k.pos
    (a.1.ha, a.2.1.ha)
  else k.base x s.cix

/-- An end of a copy lies on its die and the die is fenced (01 R15): the address that the copy has come to there (09 R221). -/
def State.fencedEnd (s : State) (k : Copy) (x : Ctx) : Option Nat :=
  let (src, dst) := s.copyPlace k x
  let onDie := fun (ha : Nat) => decide (hSpace (entOf k.ent (haHandle ha)) < spG)
  if !tbit s.ring.fenced s.station then none
  else if onDie src || k.parm.kind = .multi then some src
  else if onDie dst then some dst
  else none

/-! ### Slots (07 R162; 09 R217, R223, R225) -/

/-- A copy takes or fills slots of buffers. -/
def CpParm.buffered (p : CpParm) : Bool := p.dcb || p.scb || p.kind == .multi

/-- A copy fills slots, where it does not pop one. -/
def CpParm.fills (p : CpParm) : Bool := p.dcb || p.kind == .multi

/-- The slots that copies of the die hold in one buffer, on its filling or its popping side: those of a multicast at any core, those of a
context's own copies at its core. -/
def State.slotsHeld (s : State) (core : Nat) (k : Copy) : List CpSlot :=
  let p := k.parm
  ((List.range 48).map (fun i =>
    ((s.getCore (48 * stationOf core + i)).copies.filter (fun o =>
      o.parm.buffered && o.parm.cb == p.cb && o.parm.fills == p.fills && (o.parm.kind == .multi) == (p.kind == .multi)
        && (p.kind == .multi || o.owner == k.owner))).map (fun o => o.slots.filter (fun t => t.core == core && !t.done)))).flatten.flatten

/-- Slots that earlier copies have yet to complete or pop in a buffer. -/
def State.slotsOwed (s : State) (core : Nat) (k : Copy) : Nat := (s.slotsHeld core k).length

/-- The counts a copy waits for (07 R162, 09 R225). -/
def State.copyCounts (s : State) (k : Copy) (x : Ctx) : Bool :=
  let p := k.parm
  match p.kind with
  | .multi => (cpTargets s.cix p.mask).all (fun c => decide (s.slotsOwed c k + 1 ≤ ((s.getCore c).cbShown p.cb).room))
  | _ =>
    (!p.dcb || decide (s.slotsOwed s.cix k + 1 ≤ (x.cbk p.cb).room))
      && (!p.scb || decide (s.slotsOwed s.cix k + 1 ≤ s.core.cbSeen x p.cb))

/-- The slot a copy takes in a buffer: `q` places on from the pointer, behind those that took theirs before it. -/
def State.takeSlot (s : State) (core : Nat) (k : Copy) (d : CbDesc) (ptr : Nat) : CpSlot :=
  let held := s.slotsHeld core k
  { core := core, slot := (ptr + held.length) % d.n, turn := (held.map (·.turn)).foldl max 0 + 1 }

/-- The slots a copy takes. -/
def State.takeSlots (s : State) (k : Copy) (x : Ctx) : List CpSlot :=
  let p := k.parm
  let d := x.cbk p.cb
  if p.kind = .multi then (cpTargets s.cix p.mask).map (fun c =>
    let d := (s.getCore c).cbShown p.cb
    s.takeSlot c k d d.pptr)
  else if p.dcb then [s.takeSlot s.cix k d d.pptr]
  else if p.scb then [s.takeSlot s.cix k d d.cptr]
  else []

/-- No copy of the same buffer that issued earlier has yet to take its slot: slots are taken, and so completed, in issue order
(09 R217). -/
def State.slotTurn (s : State) (k : Copy) : Bool :=
  let p := k.parm
  !p.buffered || s.core.copies.all (fun o =>
    o.begun || !o.parm.buffered || o.parm.cb != p.cb || o.owner != k.owner || (o.parm.kind == .multi) != (p.kind == .multi)
      || (p.kind == .multi && o.parm.mask &&& p.mask == 0) || decide (k.num ≤ o.num))

/-- The copies that took their slots of a buffer earlier have completed them (09 R217). -/
def State.orderTurn (s : State) (k : Copy) (t : CpSlot) : Bool := (s.slotsHeld t.core k).all (fun u => decide (t.turn ≤ u.turn))

/-- A slot of this core filled with DCB leaves a refetch record (16 R392). -/
def Copy.refetchOf (k : Copy) : Refetch := { owner := k.owner, cb := k.parm.cb, slot := ((k.slots.head?).map (·.slot)).getD 0, parm := k.parm }

/-- One slot of a copy is completed or popped (07 R161). -/
def State.finishSlot (s : State) (k : Copy) (t : CpSlot) : State :=
  let p := k.parm
  let s1 := s.updCopy k.num k.owner (fun o => { o with slots := o.slots.map (fun u => if u.core = t.core then { u with done := true } else u) })
  if p.kind = .multi then s1.updCore t.core (fun c => { c with ctx := c.ctx.cbFill p.cb 1 c.ctx.phase })
  else if p.dcb then
    let r := k.refetchOf
    s1.mapCore (fun c => { c.onOwner k.owner (fun x => x.cbFill p.cb 1 k.phase) with
      refetch := c.refetch.filter (fun o => !(o.owner = k.owner && o.cb = p.cb && o.slot = r.slot)) ++ [r] })
  else s1.mapCore (fun c => c.onOwner k.owner (fun x => x.cbTake p.cb 1 k.phase))

/-! ### Metadata headers (09 R223; 10 R238) -/

/-- The version word and STATUS of a metadata header (12 R295). -/
def hdrWords (bs : List Byte) : Nat × Nat := (leNat ((bs.drop 8).take 8), leNat ((bs.drop 16).take 8))

/-- Where a copy goes on behind its source's header, and where it first goes. -/
def Copy.afterSrc (k : Copy) : CpStage := if k.parm.whole && k.odd == 0 then .dstHdr else .body
def Copy.first (k : Copy) : CpStage := if k.parm.ver then .srcHdr else k.afterSrc

/-- The source's header is read: before the first chunk its version must be even, after the last it must be the same, or the pass begins
anew. -/
def Copy.gotSrc (k : Copy) (bs : List Byte) : Copy :=
  let (v, st) := hdrWords bs
  if k.stage = .srcHdr then (if v % 2 = 0 then { k with stage := k.afterSrc, ver := v } else k)
  else if v = k.ver then { k with stage := .dstEnd, status := st }
  else { k with stage := .srcHdr, pos := 0 }

/-- What a copy writes into its destination's header from byte 8 on: an odd version before the data, and after it the even version that
follows and STATUS. -/
def Copy.hdrData (k : Copy) : List Byte := if k.stage = .dstHdr then leBytes k.odd 8 else leBytes (evenVersion k.odd) 8 ++ leBytes k.status 8
def Copy.hdrBytes (k : Copy) (ks : List Nat) : List (Nat × Byte) := List.zip (ks.drop 8) k.hdrData

/-- The destination's header is written: the data follow, or nothing more. -/
def Copy.gotDst (k : Copy) : Copy := if k.stage = .dstHdr then { k with stage := .body } else { k with odd := 0 }

/-- A request of a copy is with the port. -/
def State.sendFar (s : State) (k : Copy) (r : XReq) : State := s.updCopy k.num k.owner (fun _ => { k with sent := some r })

/-- The write of a header of a copy at a port: the bytes of the version and, at the end, of STATUS. -/
def Copy.hdrReq (k : Copy) (r : XReq) : XReq := { r with ha := (r.ha + 8) % 2 ^ 64, n := k.hdrData.length, data := some k.hdrData }

/-- A word that a refetch reads is uncorrectable: the stage cannot be rewritten. -/
def State.badRead (s : State) (k : Copy) : State := if k.re then (s.removeCopy k).refetched k else s

/-- Bytes that a copy reads: corrected where that can be done, an uncorrectable word reported for its phase (16 R390, R393). -/
def State.copyReads (s : State) (k : Copy) (ks : List Nat) (ha : Nat) : State :=
  s.consumeFor k.owner ks (hSpace (entOf k.ent (haHandle ha))) ha k.phase

/-- A header that the copy reads or writes. -/
def State.headerStep (s : State) (k : Copy) (x : Ctx) : State :=
  let (src, dst) := k.base x s.cix
  let wr := k.stage == .dstHdr || k.stage == .dstEnd
  let ha := if wr then dst else src
  match s.reach k s.cix x k.ent (placeOf ha 0) 64 wr (if wr then dstSpaces else srcSpaces) with
  | (s1, .wait) => s1
  | (s1, .bad c f) => s1.parkFault k c f ha
  | (s1, .far r) => s1.sendFar k (if k.stage == .dstEnd then k.hdrReq r else r)
  | (s0, .ok dur ks) =>
    let s1 := s0.copyReads k ks ha
    if s0.fails s1 then s1.badRead k
    else if wr then
      let k1 := if k.stage = .dstHdr then { k with odd := oddVersion (hdrWords (s1.rdKeys ks)).1 } else k
      let l := k1.hdrBytes ks
      ((s1.store l).markDurable dur l).updCopy k.num k.owner (fun _ => { k1.gotDst with till := none })
    else s1.updCopy k.num k.owner (fun _ => { k.gotSrc (s1.rdKeys ks) with till := none })

/-- The CE takes up `n` bytes of a copy: they have their place in its bandwidth of 128 bytes in a cycle and move at the end of it
(09 R218). -/
def State.takeUp (s : State) (k : Copy) (n : Nat) (f : Copy → Copy) : State :=
  let t := max s.core.ccyc s.core.ceFree + cdiv n 128
  (s.updCopy k.num k.owner (fun o => { f o with till := some t })).mapCore (fun c => { c with ceFree := t, ceR := { c.ceR with idle := t } })

/-- The reservation of the CE, asked for where it holds none (09 R218; 15 R369). -/
def State.ceAsk (s : State) : State := if s.core.ceR.held = 0 then s.askRes 2 2 else s

/-- A step of a copy that moves data: with the reservation, it starts what it has in hand, and ends it when its time has come. -/
def State.inHand (s : State) (k : Copy) (start move : State → State) : State :=
  let s1 := s.ceAsk
  if s1.core.ceR.held = 0 then s1
  else
    match k.till with
    | some t => if s.core.ccyc < t then s1 else move s1
    | none => start s1

/-- A header is taken up, then read or written. -/
def State.headerTurn (s : State) (k : Copy) (x : Ctx) : State :=
  s.inHand k (fun s => s.takeUp k 64 id) (fun s => s.headerStep k x)

/-! ### The beginning of a copy -/

/-- The handle of the index list is checked for the whole list (09 R226). -/
def Copy.idxFault (k : Copy) (x : Ctx) : Option Nat :=
  if k.parm.indexed then
    checkAt (entOf k.ent (haHandle k.parm.idx)) .ce x.f.part (haHandle k.parm.idx) (haOff k.parm.idx) (4 * (k.parm.nrow + 1)) true false idxSpaces
  else none

/-- A copy tries to begin: it parks, waits for its turn and its counts, or takes its slots (07 R162; 09 R217, R220, R225). -/
def State.beginCopy (s : State) (k : Copy) (x : Ctx) : State :=
  let k1 := { k with slots := s.takeSlots k x }
  match (k1.parmFault x s.cix).or (s.roleFault k1 x) with
  | some (c, a) => s.parkCopy k c a
  | none =>
    if !s.slotTurn k || !s.copyCounts k x then s
    else
      match k.idxFault x with
      | some c => s.parkFault k (parkCode c) c k.parm.idx
      | none => s.updCopy k.num k.owner (fun _ => { k1 with stage := k.first })

/-! ### Chunks (09 R219, R220) -/

/-- Every destination of a chunk passes its checks, or the first that does not; a port counts as one that takes no bytes here. -/
def State.destSpots (s : State) (k : Copy) (n : Nat) : List (Nat × Ctx × Place) → State × Except (Reach × Nat) (List (Reach × Place))
  | [] => (s, .ok [])
  | (c, y, p) :: t =>
    match s.reach k c y k.ent p n true dstSpaces with
    | (s1, .wait) => (s1, .error (.wait, 0))
    | (s1, .bad code f) => (s1, .error (.bad code f, p.ha))
    | (s1, r) =>
      match s1.destSpots k n t with
      | (s2, .ok l) => (s2, .ok ((r, p) :: l))
      | e => e

/-- Keeps what a linear copy overwrites (09 R224). -/
def State.keepOld (s : State) (old : Tab (Option Byte)) (ks : List Nat) : Tab (Option Byte) :=
  ks.foldl (fun t k => if (Tab.get none t k).isNone then Tab.put t k (some (s.rd1 k)) else t) old

/-- A chunk's bytes arrive at their destinations, and the copy passes it. -/
def State.landChunk (s : State) (k : Copy) (dests : List (Reach × Place)) (bs : List Byte) : State :=
  let old := match k.parm.kind with
    | .lin => dests.foldl (fun t d => match d.1 with
      | .ok _ ks => s.keepOld t ks
      | _ => t) k.old
    | _ => k.old
  dests.foldl (fun s d => match d.1 with
    | .ok dur ks =>
      let l := List.zip ks bs
      (s.store l).markDurable dur l
    | _ => s) (s.updCopy k.num k.owner (fun o => { o with old := old, pos := o.pos + k.n, till := none, sent := none, data := none }))

/-- The index of the row of the next chunk. -/
def State.rowIndex (s : State) (k : Copy) (x : Ctx) : State × Except Reach Nat :=
  if k.parm.indexed then
    match s.reach k s.cix x k.ent (placeOf k.parm.idx (4 * (k.pos / k.parm.len))) 4 false idxSpaces with
    | (s1, .ok _ ks) =>
      let s2 := s1.copyReads k ks (placeOf k.parm.idx (4 * (k.pos / k.parm.len))).ha
      if s1.fails s2 then (s2.badRead k, .error .wait) else (s2, .ok (leNat (s2.rdKeys ks)))
    | (s1, r) => (s1, .error r)
  else (s, .ok 0)

/-- A chunk takes its place in the bandwidth of the CE, 128 bytes in a cycle, and moves at the end of it (09 R218, R219). -/
def State.startChunk (s : State) (k : Copy) : State :=
  let x := s.core.ownerCtx k.owner
  match s.rowIndex k x with
  | (s1, .error (.bad c f)) => s1.parkFault k c f (placeOf k.parm.idx (4 * (k.pos / k.parm.len))).ha
  | (s1, .error _) => s1
  | (s1, .ok ix) =>
    let (sp, dp, left) := k.at x s.cix ix k.pos
    let n := ((s1.chunkDests k x dp).map (fun d => toEdge (chunkAddr k.ent d.2.2))).foldl min (min left (toEdge (chunkAddr k.ent sp)))
    s1.takeUp k n (fun o => { o with n := n, ix := ix })

/-- The bytes of a chunk go to their destinations: to a port, or into the memory. -/
def State.deliverChunk (s : State) (k : Copy) (dests : List (Reach × Place)) (bs : List Byte) : State :=
  match dests.findSome? (fun d => match d.1 with
    | .far r => some r
    | _ => none) with
  | some r => s.sendFar k { r with data := some bs }
  | none => s.landChunk k dests bs

/-- The chunk in hand: checked on both sides, then moved, or asked for at a port, whose bytes it has when they come back (09 R219, R220;
18 R428). -/
def State.moveChunk (s : State) (k : Copy) : State :=
  let x := s.core.ownerCtx k.owner
  let (sp, dp, _) := k.at x s.cix k.ix k.pos
  match (match k.data with
    | some _ => (s, Reach.ok false [])
    | none => s.reach k s.cix x k.ent sp k.n false srcSpaces) with
  | (s1, .wait) => s1
  | (s1, .bad c f) => s1.parkFault k c f sp.ha
  | (s1, src) =>
    match s1.destSpots k k.n (s1.chunkDests k x dp) with
    | (s2, .error (.bad c f, ha)) => s2.parkFault k c f ha
    | (s2, .error _) => s2
    | (s2, .ok dests) =>
      match k.data, src with
      | some bs, _ => s2.deliverChunk k dests bs
      | none, .far r => s2.sendFar k r
      | none, .ok _ ks =>
        let s3 := s2.copyReads k ks sp.ha
        if s2.fails s3 then s3.badRead k
        else s3.deliverChunk k dests (ks.map (s3.copyByte s.cix x.f.part k.old))
      | none, _ => s2

/-- A copy may run: it is not parked, nothing of it is at a port, and bytes are left to move. -/
def Copy.live (k : Copy) : Bool :=
  k.park.isNone && k.sent.isNone && (match k.stage with
    | .body => decide (k.pos < k.parm.total)
    | .srcEnd | .dstEnd => false
    | _ => true)

/-- One step of a copy that may run: it begins, reads or writes a header, or moves a chunk, for which the CE needs its reservation
(09 R218). -/
def State.copyAct (s : State) (k : Copy) : State :=
  let x := s.core.ownerCtx k.owner
  match s.fencedEnd k x with
  | some ha => s.parkCopy k 12 ha
  | none =>
    match k.stage with
    | .slot => s.beginCopy k x
    | .body => s.inHand k (fun s => s.startChunk k) (fun s => s.moveChunk k)
    | _ => s.headerTurn k x

/-- COPY_CHUNK. -/
def State.copyStep (s : State) (num : Nat) : State := (s.core.copies.filter (fun k => k.num == num && k.live)).foldl State.copyAct s

def execCopyChunk (num : Nat) (s : State) : Host.Outcome State Fault Refusal := .next (s.copyStep num)

/-! ### Completion -/

/-- A copy whose bytes are all moved, or that has yet to read or write a header behind them. -/
def Copy.moved (k : Copy) : Bool := k.begun && k.park.isNone && k.sent.isNone && !k.live

/-- The slots whose turn it is are completed, and with the last of them the copy is (09 R217, R225). -/
def State.closeCopy (s : State) (k : Copy) : State :=
  let now := k.slots.filter (fun t => !t.done && s.orderTurn k t)
  let s1 := now.foldl (fun s t => s.finishSlot k t) s
  if k.slots.all (fun t => t.done || now.contains t) then s1.endCopy k false else s1

/-- COPY_COMPLETE: a copy whose bytes are all moved ends; a `.ver` copy reads its source's version again, and a `.whole` copy makes that of
its destination even (09 R223). -/
def State.copyEnd (s : State) (k : Copy) : State :=
  let x := s.core.ownerCtx k.owner
  match s.fencedEnd k x with
  | some ha => s.parkCopy k 12 ha
  | none =>
    if k.parm.ver && k.stage != .dstEnd then s.headerTurn { k with stage := .srcEnd } x
    else if k.parm.whole && k.odd != 0 then
      if k.slots.all (s.orderTurn k) then s.headerTurn { k with stage := .dstEnd } x else s
    else s.closeCopy k

def State.copyFinish (s : State) (num : Nat) : State := (s.core.copies.filter (fun k => k.num == num && k.moved)).foldl State.copyEnd s

def execCopyComplete (num : Nat) (s : State) : Host.Outcome State Fault Refusal := .next (s.copyFinish num)

/-- COPY_RESERVATION_RETURN (09 R218): 64 cycles with no copy moving. -/
def State.ceReturn (s : State) : State :=
  let c := s.core
  if c.ceR.held != 0 && !c.copies.any (·.sent.isSome) && decide (c.ceR.idle + 64 ≤ c.ccyc) then s.release s.cix 2 else s

def execCopyReservationReturn (s : State) : Host.Outcome State Fault Refusal := .next s.ceReturn

/-! ### Parked copies (09 R221) -/

/-- `cp.res` and `cp.res.drop` at the CE: the state after it and its code. A resumed copy rereads its entries. -/
def State.resumeCopy (s : State) (num : Nat) (drop : Bool) : State × Nat :=
  match s.core.copies.find? (fun k => k.num == num && k.owner == s.core.ctx.cid && k.park.isSome) with
  | none => (s, 1)
  | some k =>
    if drop then (s.endCopy k true, 0)
    else
      let ent := s.entries (s.cpHandles s.core.ctx k.parm)
      (s.updCopy k.num k.owner (fun o => { o with park := none, ent := ent }), 0)

/-! ### Requests at a port (18 R428) -/

/-- The side of a copy whose request is at a port, as its handle address. -/
def State.farSide (s : State) (k : Copy) : Nat :=
  let x := s.core.ownerCtx k.owner
  let (src, dst) := k.base x s.cix
  let (sp, dp, _) := k.at x s.cix k.ix k.pos
  match k.stage with
  | .srcHdr | .srcEnd => src
  | .dstHdr | .dstEnd => dst
  | _ => if k.sent.any (·.data.isSome) then dp.ha else sp.ha

/-- What has come back for a copy: the bytes of a header or a chunk, or the word that a write is performed. The bytes of a chunk stay in
hand until its destination has them. -/
def State.farDone (s : State) (k : Copy) (r : XReq) (data : List Byte) : State :=
  let upd := fun (f : Copy → Copy) =>
    (s.updCopy k.num k.owner (fun o => { f o with sent := none })).mapCore (fun c => { c with ceR := { c.ceR with idle := max c.ceR.idle c.ccyc } })
  match k.stage with
  | .srcHdr | .srcEnd => upd (fun o => { o.gotSrc data with till := none })
  | .dstHdr =>
    if r.data.isSome then upd (fun o => { o.gotDst with till := none })
    else
      let k1 := { k with odd := oddVersion (hdrWords data).1 }
      s.sendFar k1 (k1.hdrReq r)
  | .dstEnd => upd (fun o => { o.gotDst with till := none })
  | _ =>
    if r.data.isSome then upd (fun o => { o with pos := o.pos + o.n, till := none, data := none })
    else upd (fun o => { o with data := some (data.take r.n) })

/-- A request of a copy fails at the port: the copy parks, with the fenced-die error where an end of it lies on its fenced die (01 R15;
09 R220). -/
def State.farFails (s : State) (k : Copy) : State :=
  match s.fencedEnd k (s.core.ownerCtx k.owner) with
  | some ha => s.parkCopy k 12 ha
  | none => s.parkCopy k 13 (s.farSide k)

/-- The copy whose request is the oldest at a port. -/
def Core.farCopy (c : Core) : Option (Copy × XReq) := c.copies.findSome? (fun k => k.sent.map (fun r => (k, r)))

/-- X_CHUNK_REPLY: the far module has performed the oldest request that waits, or refused it. -/
def State.chunkReply (s : State) (refused : Bool) (data : List Byte) : State :=
  match s.core.farCopy with
  | none => s
  | some (k, r) => if refused then s.farFails k else s.farDone k r data

def execXChunkReply (refused : Bool) (rdata : List Byte) (s : State) : Host.Outcome State Fault Refusal := .next (s.chunkReply refused rdata)

/-- X_ACK_TIMEOUT: no acknowledgement came within 1 ms. -/
def State.chunkTimeout (s : State) : State :=
  match s.core.farCopy with
  | none => s
  | some (k, _) => s.farFails k

def execXAckTimeout (s : State) : Host.Outcome State Fault Refusal := .next s.chunkTimeout

end Sys2Proof.Machine
end

