-- ==== Sys2Proof/Machine/Order.lean ====
section
/-! DEFINITION. Timelines as programs see them: waits, reads, publications (spec 10 R237, R252 to R255). -/

namespace Sys2Proof.Machine

/-- A timeline of a context. -/
def Ctx.tl (x : Ctx) : Tl → Timeline
  | .me => x.tlMe
  | .ce => x.tlCe
  | .vp => x.tlVp
  | .at => x.tlAt

/-- A timeline changed. -/
def Ctx.updTl (x : Ctx) (t : Tl) (f : Timeline → Timeline) : Ctx :=
  match t with
  | .me => { x with tlMe := f x.tlMe }
  | .ce => { x with tlCe := f x.tlCe }
  | .vp => { x with tlVp := f x.tlVp }
  | .at => { x with tlAt := f x.tlAt }

/-- Commands of publications on a timeline that are still compared. -/
def Ctx.pubCmds (x : Ctx) (t : Tl) : Nat :=
  (x.cmds.filter (fun m => match m.ins with
    | .tlPub u .. => u == t
    | _ => false)).length

/-- The word that a publication writes (10 R255). -/
def pubReq (i : Instr) (s : State) : MemReq :=
  { ha := (s.arg i 0).toNat, n := 8, align := 8, rd := false, wr := true, spaces := [spD, spG] }

/-- Faults of the timeline instructions: those of the word of a publication (10 R242, R255). -/
def tlFault (i : Instr) (s : State) : Option TrapInfo :=
  match i with
  | .tlPub .. =>
    let r := pubReq i s
    (((firstMisaligned [r]).or (firstFault s [r]))).map (fun x => accessTrap .e x.1 x.2)
  | _ => none

/-- The target of a wait is met (10 R253). -/
def tlMet (i : Instr) (s : State) : Bool :=
  match i with
  | .tlWait t .. => decide ((s.arg i 0).toNat ≤ (s.core.ctx.tl t).value)
  | _ => true

/-- Holds of the timeline instructions (10 R253, R255; 09 R214). -/
def tlHold (i : Instr) (s : State) : Option Hold :=
  match i with
  | .tlWait .. => if tlMet i s then none else some { cls := .wait, bound := (s.arg i 1).toNat }
  | .tlPub t .. =>
    match firstMiss s [pubReq i s] with
    | some (va, rd, wr, sp) =>
      some { cls := .late, start := fun s => s.askWalk { core := s.cix, part := s.part, va := va, rd := rd, wr := wr, space := sp } }
    | none => if 8 ≤ (s.core.ctx.tl t).livePubs.length + s.core.ctx.pubCmds t then some { cls := .wait, room := true } else none
  | _ => none

/-- What the timeline instructions access. -/
def tlReqs (i : Instr) (s : State) : List MemReq :=
  match i with
  | .tlPub .. => [pubReq i s]
  | _ => []

def famTl : Family := { fault := tlFault, hold := tlHold, reqs := tlReqs }

/-- `tl.wait` (10 R253). -/
def execTlWait (t : Tl) (d a b : Reg) (s : State) : Host.Outcome State Fault Refusal :=
  let i : Instr := .tlWait t d a b
  issue famTl i (fun _ => 1) (fun s => s.setS .e d (if tlMet i s then 0 else 1) 1) s

/-- `tl.rd` (10 R254). -/
def execTlRd (t : Tl) (d : Reg) (s : State) : Host.Outcome State Fault Refusal :=
  issue famTl (.tlRd t d) (fun _ => 2) (fun s => s.setS .e d (BitVec.ofNat 64 (s.core.ctx.tl t).value) 2) s

/-- The command of a publication: the word's keys, the value of the publication before it, and the entry of its handle. -/
def State.sendPub (s : State) (i : Instr) (t : Tl) : State :=
  let a := s.reqAccess (pubReq i s)
  let s1 := s.sendCmd i [(s.core.ctx.tl t).lastPub, bit (hSpace a.ent == spG && hDur a.ent)] a.keys
  s1.mapCtx (fun x => x.updTl t (fun u => { u with lastPub := (s.arg i 1).toNat }))

/-- `tl.pub` (10 R255). -/
def execTlPub (t : Tl) (a b : Reg) (s : State) : Host.Outcome State Fault Refusal :=
  issue famTl (.tlPub t a b) (fun _ => 1) (fun s => s.sendPub (.tlPub t a b) t) s

/-- A compared publication joins those of its timeline. -/
def State.applyPub (s : State) (m : Cmd) (t : Tl) : State :=
  let p : Pub :=
    { key := m.keys.headD 0, val := m.caps.getD 1 0, low := m.nums.headD 0, phase := m.phase, bundle := m.bundle
      durable := m.nums.getD 1 0 == 1 }
  s.mapCtx (fun x => x.updTl t (fun u => { u with pubs := u.pubs ++ [p] }))

/-- The oldest publication may be written: its numbers are done, and the accesses that issued before it are performed. -/
def Core.pubReady (c : Core) (t : Timeline) : Bool :=
  match t.livePubs with
  | [] => false
  | p :: _ => decide (p.val.toNat ≤ t.value) && c.leases.all (fun l => decide (p.bundle < l.bundle))
    && c.defers.all (fun d => !accesses d.ins || decide (p.bundle < d.bundle))

/-- PUBLICATION_WRITE (10 R255): the oldest publication of a timeline of the core's contexts is written, if it may be; those of a
context that is swapped out go on (10 R240). -/
def State.publish (s : State) (t : Tl) : State :=
  match s.core.contexts.find? (fun x => s.core.pubReady (x.tl t)) with
  | none => s
  | some x =>
    match (x.tl t).livePubs with
    | [] => s
    | p :: rest =>
      (s.mapCore (fun c => c.onOwner x.cid (fun x => x.updTl t (fun u => { u with pubs := rest })))).coreWrite p.durable
        (keysFrom p.key 8) (leBytes p.val.toNat 8)

/-! ### Release at recovery scope (10 R251) -/

/-- A copy of the running context whose destination is durable has not ended: it runs or is parked, or its command has yet to reach the
front. -/
def State.durCopies (s : State) : Bool :=
  let x := s.core.ctx
  let dur := fun (ha : Nat) => durEnt (s.hEnt s.station s.part (haHandle ha))
  s.core.copies.any (fun c => c.owner == x.cid && c.parm.kind != .multi && !c.parm.dcb && durEnt (entOf c.ent (haHandle c.parm.dst)))
    || s.comingOps.any (fun o => o.1 == 3 && !o.2.getLsbD 3 && dur (fld o.2 80 64))
    || x.coming.any (fun m => match m.ins with
      | .cp f .. | .cp2d f .. | .gat f .. | .sca f .. => !f.dcb && dur (m.caps.getD 1 0).toNat
      | _ => false)

/-- A command that starts mirror work (17 R407). -/
def isCommit : Instr → Bool
  | .kvLenCommit .. => true
  | _ => false

/-- What `rel.rec` waits for has not reached the checkpoint domain (10 R251; 17 R404, R405, R407, R412): stores and publications, copies, the
mirror work of commits that are applied or on their way, records. -/
def State.recOpen (s : State) : Bool :=
  let c := s.core
  c.leases.any (fun l => leavesLease l.ins && l.durable) || c.defers.any (fun d => leavesLease d.ins && durAcc d.acc)
    || c.ctx.pubsOpen true || s.durCopies || s.durq.any (fun d => d.core == s.cix) || s.mirq.any (fun w => w.core == s.cix && !w.free)
    || c.contexts.any (fun x => x.rp.isSome || x.cmds.any (fun m => isCommit m.ins)) || c.defers.any (fun d => isCommit d.ins)

/-- A copy instruction whose destination is durable, or a patch pair that issues a copy. -/
def State.copiesDurable (s : State) (i : Instr) (caps : List Word) : Bool :=
  match i with
  | .cp f .. | .cp2d f .. | .gat f .. | .sca f .. => !f.dcb && durEnt (s.hEnt s.station s.part (haHandle (caps.getD 1 0).toNat))
  | .patchPair hi lo => (hi.issue && hi.eng == 3) || (lo.issue && lo.eng == 3)
  | _ => false

/-- An operation with Q for which `rel.rec` waits: a durable store or publication, a commit, a durable copy, and what stands before one of them
(10 R235, R255; 13 R331). -/
def State.relAwaits (s : State) (d : Defer) : Bool :=
  let x := s.core.ctx
  ((leavesLease d.ins || isPub d.ins) && durAcc d.acc) || isCommit d.ins || s.copiesDurable d.ins d.caps
    || (accesses d.ins && (x.pubFrom true d.bundle
      || x.cmds.any (fun m => s.copiesDurable m.ins m.caps && decide (d.bundle < m.bundle))
      || x.fl.defer.any (fun e => s.copiesDurable e.ins e.caps && decide (d.bundle < e.bundle))))
    || ((cmdFronts d.ins).contains (.unit 2) && x.cmds.any (fun m => isCommit m.ins && decide (d.serial < m.serial)))

def State.hastenRel (s : State) : State := s.hasten s.relAwaits (fun l => leavesLease l.ins && l.durable)

/-- The freeze of `rel.rec` before its issue. -/
def relHold (i : Instr) (s : State) : Option Hold :=
  match i with
  | .relRec => if s.recOpen then some { cls := .wait, kind := 3, each := State.hastenRel } else none
  | _ => none

/-- The family of `rel.rec`. -/
def famRel : Family := { hold := relHold }

/-- `rel.rec` (10 R251): once all is in the checkpoint domain it has no further effect. -/
def execRelRec (s : State) : Host.Outcome State Fault Refusal := issue famRel .relRec (fun _ => 1) id s

def execPublicationWrite (t : Tl) (s : State) : Host.Outcome State Fault Refusal := .next (s.publish t)

/-- TL_WAIT_TIMEOUT (10 R253). -/
def execTlWaitTimeout (s : State) : Host.Outcome State Fault Refusal := .next s.expireWait

end Sys2Proof.Machine
end

