-- ==== Sys2Proof/Machine/Kv.lean ====
section
/-! DEFINITION. KV pages, sequences, sharing, the prefix index, and the KV commands (spec 13 R322 to R331, R344 to R352). -/

namespace Sys2Proof.Machine

/-! ### Pages (13 R322, R323) -/

/-- No page. -/
def noPage : Nat := 0xFFFFFF

/-- Fields of a page header. -/
def pSucc (h : BitVec 512) : Nat := fld h 0 24
def pSeq (h : BitVec 512) : Nat := fld h 32 16
def pGroup (h : BitVec 512) : Nat := fld h 48 6
def pFirst (h : BitVec 512) : Nat := fld h 64 32
def pNtok (h : BitVec 512) : Nat := fld h 96 9
def pRef (h : BitVec 512) : Nat := fld h 112 16
def pVer (h : BitVec 512) : Nat := fld h 128 32

/-- A header of these fields. -/
def pageHdr (succ seq group first ntok ref ver : Nat) : BitVec 512 :=
  BitVec.ofNat 512 (succ % 2 ^ 24 + put (seq % 2 ^ 16) 32 + put (group % 64) 48 + put (first % 2 ^ 32) 64 + put (ntok % 512) 96
    + put (ref % 2 ^ 16) 112 + put (ver % 2 ^ 32) 128)

/-- K offset of a page's body. -/
def bodyOff (p : Nat) : Nat := if p < 2 ^ 17 then 16384 * p else 2 ^ 32 + 16384 * (p - 2 ^ 17)

/-- The header of a page. -/
def KvPart.h (k : KvPart) (p : Nat) : BitVec 512 := Tab.get hdr0 k.hdr p

/-- A header changed: every change counts in VER (13 R323). -/
def KvPart.setH (k : KvPart) (p succ seq group first ntok ref : Nat) : KvPart :=
  { k with hdr := Tab.set hdr0 k.hdr p (pageHdr succ seq group first ntok ref (pVer (k.h p) + 1)) }

def KvPart.setSucc (k : KvPart) (p v : Nat) : KvPart :=
  let h := k.h p
  k.setH p v (pSeq h) (pGroup h) (pFirst h) (pNtok h) (pRef h)
def KvPart.setNtok (k : KvPart) (p v : Nat) : KvPart :=
  let h := k.h p
  k.setH p (pSucc h) (pSeq h) (pGroup h) (pFirst h) v (pRef h)
def KvPart.setRef (k : KvPart) (p v : Nat) : KvPart :=
  let h := k.h p
  k.setH p (pSucc h) (pSeq h) (pGroup h) (pFirst h) (pNtok h) v

/-- A page of the partition's pools. -/
def KvPart.isPage (k : KvPart) (p : Nat) : Bool := decide (p < k.npage) || (decide (2 ^ 17 ≤ p) && decide (p < 2 ^ 17 + k.nspill))

/-- A page is free: no reference, and no attention operation still reads it (13 R328). -/
def KvPart.isFree (k : KvPart) (p : Nat) : Bool := pRef (k.h p) == 0 && !(k.limbo.any (fun l => l.1 == p))

/-- Free pages of the die and of the spill pool. -/
def KvPart.freeDie (k : KvPart) : List Nat := (List.range k.npage).filter k.isFree
def KvPart.freeSpill (k : KvPart) : List Nat := ((List.range k.nspill).map (2 ^ 17 + ·)).filter k.isFree

/-- One of a list, any of them. -/
def anyOf (n k : Nat) (l : List Nat) : Option Nat := l[Config.freeNat n k % l.length]?

/-- A new page under the rule of R346: from the die pool, else from the spill pool where the policy lets it. -/
def KvPart.newPage (k : KvPart) (spill : Bool) (n tag : Nat) : Option Nat :=
  match anyOf n tag k.freeDie with
  | some p => some p
  | none => if spill then anyOf n tag k.freeSpill else none

/-! ### The state of a partition on a die -/

def State.kvp (s : State) (st part : Nat) : KvPart := Tab.get {} s.kv (4 * st + part)
def State.updKv (s : State) (st part : Nat) (f : KvPart → KvPart) : State := { s with kv := Tab.upd {} s.kv (4 * st + part) f }

/-- Byte key of a page's body. -/
def bodyKey (st part p : Nat) : Nat := rK st + kBase part + bodyOff p

/-- What the checks of 09 R205 find at a table in D that a unit reads; the units that read tables have no bit in the engine mask of a D
handle (R204). -/
def State.tableFault (s : State) (st part ha off n : Nat) : Option Nat :=
  let e := s.hEnt st part (haHandle ha)
  if ha = 0 || haHandle ha = 7 || !hValid e then some cHandleInvalid
  else if hPart e ≠ part then some cPartMismatch
  else if 1 < hCpol e || 9 < hSpace e then some cHandleInvalid
  else if hSpace e ≠ spD then some cHandleSpace
  else if !hRd e then some cRights
  else if hBound e < haOff ha + off + n then some cBound
  else none

/-- The keys of a part of such a table (13 R324, 11 R266, 12 R291). -/
def State.tableKeys (s : State) (st part ha off n : Nat) : Option (List Nat) :=
  if (s.tableFault st part ha off n).isSome then none
  else some (keysFrom (rD st + s.regionBase st part (haHandle ha) (s.hEnt st part (haHandle ha)) + haOff ha + off) n)

/-- The policy of an entry: none where it is invalid or not in use. -/
def polOfEntry (e : Nat) : Option Policy :=
  if 8 < e % 16 || !tbit e 9 || e / 2 ^ 10 % 64 ≠ 0 || e / 2 ^ 48 ≠ 0 then none
  else some { t := 2 ^ (e % 16), blen := 2 ^ (e % 16) * 2 ^ (e / 16 % 16), spill := tbit e 8, win := e / 2 ^ 16 % 2 ^ 32 }

/-- The policy entry of a group, as it stands. -/
def State.polEntry (s : State) (st part g : Nat) : Nat :=
  match s.tableKeys st part (s.kvp st part).kvpolb.toNat (8 * g) 8 with
  | some ks => leNat (s.rdKeys ks)
  | none => 0

def State.pol (s : State) (st part g : Nat) : Option Policy := polOfEntry (s.polEntry st part g)

/-- The violation that reading the policies of some groups leaves (09 R205). -/
def State.notePols (s : State) (part : Nat) (gs : List Nat) : State :=
  let ha := (s.kvp s.station part).kvpolb.toNat
  if ha = 0 then s
  else gs.foldl (fun s g => match s.tableFault s.station part ha (8 * g) 8 with
    | some c => if logged c then s.logV (hViolation s.cix part .kv (ha + 8 * g) c) else s
    | none => s) s

/-! ### Chains and translation (13 R325, R326) -/

def SeqSt.leafOf (q : SeqSt) (g b : Nat) : Option Nat := Tab.get none q.leaf (64 * g + b)
def SeqSt.setLeaf (q : SeqSt) (g b : Nat) (v : Option Nat) : SeqSt := { q with leaf := Tab.set none q.leaf (64 * g + b) v }
def SeqSt.appOf (q : SeqSt) (g : Nat) : Nat := Tab.get 0 q.app g
def SeqSt.setApp (q : SeqSt) (g v : Nat) : SeqSt := { q with app := Tab.set 0 q.app g v }

/-- The policy of the pages of a group. -/
def SeqSt.shapeOf (q : SeqSt) (g : Nat) : Policy := Tab.get {} q.shape g
def SeqSt.setShape (q : SeqSt) (g : Nat) (v : Policy) : SeqSt := { q with shape := Tab.set {} q.shape g v }

/-- Pages of a group that no chain holds any more (R324). -/
def SeqSt.looseOf (q : SeqSt) (g : Nat) : List Nat := Tab.get [] q.loose g
def SeqSt.setLoose (q : SeqSt) (g : Nat) (l : List Nat) : SeqSt := { q with loose := Tab.set [] q.loose g l }

/-- The pages of a group were taken under its policy as it stands: its translations are those of R326. -/
def SeqSt.definite (q : SeqSt) (g : Nat) (pol : Policy) : Bool := q.shapeOf g == pol && (q.looseOf g).isEmpty

/-- A sequence of the partition. -/
def KvPart.seq (k : KvPart) (i : Nat) : Option SeqSt := if i < k.nseq then Tab.get none k.seqs i else none
def KvPart.setSeq (k : KvPart) (i : Nat) (q : Option SeqSt) : KvPart := { k with seqs := Tab.set none k.seqs i q }

/-- The pages of a chain, of `t` positions each, that hold positions below `app`, in order: the page of position `app - 1` is the last. -/
def KvPart.chain (k : KvPart) (t app : Nat) (p : Nat) : Nat → List Nat
  | 0 => []
  | f + 1 =>
    if p = noPage then []
    else
      let first := pFirst (k.h p)
      if app ≤ first then []
      else if app ≤ first + t then [p]
      else p :: k.chain t app (pSucc (k.h p)) f

/-- Pages a chain can have. -/
def KvPart.fuel (k : KvPart) : Nat := k.npage + k.nspill + 1

/-- Pages of a block of a sequence. -/
def KvPart.blockPages (k : KvPart) (q : SeqSt) (g b : Nat) : List Nat :=
  match q.leafOf g b with
  | some p => k.chain (q.shapeOf g).t (q.appOf g) p k.fuel
  | none => []

/-- Pages of a group, block by block; of a whole sequence, each once. -/
def KvPart.groupPages (k : KvPart) (q : SeqSt) (g : Nat) : List Nat := ((List.range 64).map (k.blockPages q g)).flatten ++ q.looseOf g
def KvPart.seqPages (k : KvPart) (q : SeqSt) : List Nat := (((List.range 64).map (k.groupPages q)).flatten).eraseDups

/-- Translation of position x of group g (13 R326). Where the policy has changed since the group took its pages the translation is
undefined, but never a page of another sequence (R324). -/
def KvPart.translate (k : KvPart) (q : SeqSt) (pol : Policy) (g x free : Nat) : Option Nat :=
  if x / pol.blen ≥ 64 || q.appOf g ≤ x then none
  else if q.definite g pol then
    (k.blockPages q g (x / pol.blen)).find? (fun p => decide (pFirst (k.h p) ≤ x) && decide (x < pFirst (k.h p) + pol.t))
  else
    let ps := k.groupPages q g
    ps[Config.freeNat free (2 ^ 40 + x) % (ps.length + 1)]?

/-- No block of a group has a page. -/
def SeqSt.noLeaves (q : SeqSt) (g : Nat) : SeqSt := (List.range 64).foldl (fun q b => q.setLeaf g b none) q

/-- A sequence as a command finds it: a group without pages takes the shape of its policy; one whose policy is not that of its pages keeps
its pages, in no order that is defined (R324). -/
def KvPart.shaped (k : KvPart) (q : SeqSt) (g : Nat) (pol : Policy) : SeqSt :=
  let ps := k.groupPages q g
  if ps.isEmpty then q.setShape g pol
  else if q.definite g pol then q
  else (q.noLeaves g).setLoose g ps

/-! ### Release (13 R328) -/

/-- Attention operations of a die that have fired. -/
def State.atFired (s : State) (st : Nat) : List (Nat × Nat × Nat) :=
  ((List.range 48).map (fun i => (s.getCore (48 * st + i)).atRun.map (fun a => (48 * st + i, a.owner, a.op.num)))).flatten

/-- One reference of a page is released; at none it waits for the operations that may still read it. -/
def KvPart.release (k : KvPart) (readers : List (Nat × Nat × Nat)) (p : Nat) : KvPart :=
  let k1 := k.setRef p (pRef (k.h p) - 1)
  if pRef (k.h p) ≤ 1 && !readers.isEmpty then { k1 with limbo := (p, readers) :: k1.limbo } else k1

def KvPart.releaseAll (k : KvPart) (readers : List (Nat × Nat × Nat)) (ps : List Nat) : KvPart := ps.foldl (·.release readers) k

/-- An attention operation is over: what waited for it alone is free. -/
def State.atGone (s : State) (core owner num : Nat) : State :=
  { s with kv := s.kv.map (fun (key, k) => (key, { k with
      limbo := (k.limbo.map (fun l => (l.1, l.2.erase (core, owner, num)))).filter (fun l => !l.2.isEmpty) })) }

/-! ### The commands -/

/-- What a KV command leaves: the partition, the index of the die, the memory, mirror work and its result. -/
structure KvRes where
  s : State
  res : Nat
  deriving DecidableEq, Repr, Inhabited

/-- A sequence that a register names (13 R344). -/
def KvPart.named (k : KvPart) (a : Nat) : Option SeqSt := if 2 ^ 16 ≤ a then none else k.seq a

/-- A command is refused for want of a page, a table or a sequence (13 R343). -/
def State.kvRefuse (s : State) (st part code : Nat) : KvRes :=
  { s := s.updKv st part (fun k => { k with kvfailN := k.kvfailN + 1 }), res := code }

/-- `kv.app` (13 R346). The last page is that of the group's chains; records count on in it where more than T were reserved at once. -/
def State.kvApp (s : State) (st part a g n : Nat) : KvRes :=
  let k := s.kvp st part
  match k.named a, s.pol st part g with
  | some q0, some pol =>
    let q := k.shaped q0 g pol
    let loose := !q.definite g pol
    let x := q.appOf g
    let o := x % pol.t
    let newBlock := decide (x % pol.blen = 0)
    let last := (k.groupPages q g).getLast?
    let q' := q.setApp g (x + n)
    let res := fun (p first : Nat) => 5 * 2 ^ 52 + bodyOff p + 16384 / pol.t * (x - first)
    if o ≠ 0 && decide (pol.t - o < n) then ⟨s, 3⟩
    else if 64 ≤ (x + n - 1) / pol.blen then ⟨s, 4⟩
    else if (o ≠ 0 || !newBlock) && last.any (fun p => decide (1 < pRef (k.h p))) then ⟨s, 5⟩
    else if o ≠ 0 then
      match last with
      | some p => ⟨s.updKv st part (fun k => (k.setNtok p (pNtok (k.h p) + n)).setSeq a (some q')), res p (pFirst (k.h p))⟩
      | none => ⟨s.updKv st part (fun k => k.setSeq a (some q')), Config.freeNat s.free 1 % 2 ^ 64⟩
    else
      match k.newPage pol.spill s.free 0 with
      | none => s.kvRefuse st part 1
      | some p' =>
        let made := fun (k : KvPart) => (k.setH p' noPage a g x 0 1)
        let linked := fun (k : KvPart) => match last with
          | some p => if newBlock || loose then k else k.setSucc p p'
          | none => k
        let q1 := if loose then q'.setLoose g (q.looseOf g ++ [p']) else if newBlock then q'.setLeaf g (x / pol.blen) (some p') else q'
        ⟨s.updKv st part (fun k => ((linked (made k)).setNtok p' n).setSeq a (some q1)), res p' x⟩
  | _, _ => ⟨s, 2⟩

/-- `kv.lk` (13 R347). -/
def State.kvLk (s : State) (st part a b g : Nat) : Nat :=
  let k := s.kvp st part
  match k.named a, s.pol st part g with
  | some q, some pol =>
    if 2 ^ 32 ≤ b then 0
    else if b = 0xFFFFFFFF then put q.clen 32 + q.appOf g
    else
      match k.translate q pol g b s.free with
      | some p => 5 * 2 ^ 52 + bodyOff p + 16384 / pol.t * (b - pFirst (k.h p))
      | none => 0
  | _, _ => 0

/-- Free sequence indexes. -/
def KvPart.freeSeqs (k : KvPart) : List Nat := (List.range k.nseq).filter (fun i => (Tab.get none k.seqs i).isNone)

/-- The KV root of a sequence (13 R325). -/
def kvRoot (i : Nat) : Nat := i + 2 ^ 16

/-- `kv.alloc` (13 R348). -/
def State.kvAlloc (s : State) (st part : Nat) : KvRes :=
  match anyOf s.free 0 (s.kvp st part).freeSeqs with
  | some i => ⟨s.updKv st part (fun k => k.setSeq i (some {})), kvRoot i⟩
  | none => s.kvRefuse st part 1

/-- Groups of a partition whose policy is valid, with it. -/
def State.groups (s : State) (st part : Nat) : List (Nat × Policy) :=
  (List.range 64).filterMap (fun g => (s.pol st part g).map (fun p => (g, p)))

/-- Leaf entries that a fork takes over: blocks that hold positions below CLEN. -/
def forkLeaves (q : SeqSt) (gs : List (Nat × Policy)) : List (Nat × Nat × Nat) :=
  (gs.map (fun g => (List.range 64).filterMap (fun b =>
    if g.2.blen * b < q.clen then (q.leafOf g.1 b).map (fun p => (g.1, b, p)) else none))).flatten

/-- `kv.alloc.fork` (13 R348). -/
def State.kvFork (s : State) (st part a : Nat) : KvRes :=
  let k := s.kvp st part
  match k.named a with
  | none => ⟨s, 2⟩
  | some q0 =>
    match anyOf s.free 0 k.freeSeqs with
    | none => s.kvRefuse st part 1
    | some i =>
      let gs := s.groups st part
      let q := gs.foldl (fun q g => k.shaped q g.1 g.2) q0
      let ls := forkLeaves q gs
      let ps := ((gs.map (fun g => k.groupPages q g.1)).flatten.filter (fun p => pFirst (k.h p) < q.clen)).eraseDups
      if ps.any (fun p => pRef (k.h p) == 65535) then ⟨s, 3⟩
      else
        let q1 : SeqSt :=
          { clen := q.clen, shape := q.shape, app := (List.range 64).foldl (fun t g => Tab.set 0 t g q.clen) []
            loose := gs.foldl (fun t g => Tab.set [] t g.1 ((q.looseOf g.1).filter (fun p => pFirst (k.h p) < q.clen))) [] }
        let q2 := ls.foldl (fun (q : SeqSt) l => q.setLeaf l.1 l.2.1 (some l.2.2)) q1
        ⟨s.updKv st part (fun k => (ps.foldl (fun k p => k.setRef p (pRef (k.h p) + 1)) k).setSeq i (some q2)), kvRoot i⟩

/-- `kv.ref` and `kv.free` (13 R349). -/
def State.kvRef (s : State) (st part a : Nat) : KvRes :=
  let k := s.kvp st part
  if 2 ^ 24 ≤ a || !k.isPage a || pRef (k.h a) = 0 then ⟨s, 1⟩
  else if pRef (k.h a) = 65535 then ⟨s, 2⟩
  else ⟨s.updKv st part (fun k => k.setRef a (pRef (k.h a) + 1)), 0⟩

def State.kvFree (s : State) (st part a : Nat) : KvRes :=
  let k := s.kvp st part
  if 2 ^ 24 ≤ a || !k.isPage a || pRef (k.h a) = 0 then ⟨s, 1⟩
  else ⟨s.updKv st part (fun k => k.release (s.atFired st) a), 0⟩

/-- Mirror work joins the KV order (17 R407): none where no mirror area is set, which sets ERR (R408). -/
def State.queueMirror (s : State) (w : MirWork) : State :=
  if (s.kvp w.station w.part).kvmirb = 0 then s.updKv w.station w.part (fun k => { k with mirErr := true })
  else
    let n := (s.kvp w.station w.part).mirNum + 1
    { s.updKv w.station w.part (fun k => { k with mirNum := n }) with mirq := s.mirq ++ [{ w with num := n }] }

/-- `kv.free.seq` (13 R349): the pages it released to no reference are counted for the ballot (14 R359). -/
def State.kvFreeSeq (s : State) (st part core a : Nat) : KvRes × Nat :=
  let k := s.kvp st part
  match k.named a with
  | none => (⟨s, 2⟩, 0)
  | some q =>
    let ps := k.seqPages q
    let s1 := s.updKv st part (fun k => (k.releaseAll (s.atFired st) ps).setSeq a none)
    (⟨s1.queueMirror { station := st, part := part, core := core, seq := a, free := true, len := 0, pages := [], leaf := [], pol := [] }, 0⟩,
      (ps.filter (fun p => pRef (k.h p) == 1)).length)

/-- Pages replaced one by one along a path: each shared one takes the next new page, linked behind its predecessor; `none` is the
leaf. The last page's successor is `tail`. -/
def KvPart.cowPath (k : KvPart) (readers : List (Nat × Nat × Nat)) (seq g tail : Nat) (prev : Option Nat) (leaf : Nat) :
    List Nat → List Nat → KvPart × Nat
  | [], _ => (k, leaf)
  | p :: ps, new =>
    let h := k.h p
    let link := fun (k : KvPart) (v : Nat) => match prev with
      | some r => k.setSucc r v
      | none => k
    if pRef h ≤ 1 then k.cowPath readers seq g tail (some p) (if prev.isNone then p else leaf) ps new
    else
      match new with
      | [] => (k, leaf)
      | c :: cs =>
        let succ := if ps.isEmpty then tail else pSucc h
        let k1 := ((link (k.setH c succ seq g (pFirst h) (pNtok h) 1) c).release readers p)
        k1.cowPath readers seq g tail (some c) (if prev.isNone then c else leaf) ps cs

/-- New pages in number, no two the same. -/
def KvPart.newPages (k : KvPart) (spill : Bool) (n tag : Nat) : Nat → Option (List Nat)
  | 0 => some []
  | c + 1 =>
    match k.newPage spill n (tag + c) with
    | none => none
    | some p => ((k.setRef p 1).newPages spill n tag c).map (p :: ·)

/-- Bodies copied. -/
def State.copyBodies (s : State) (st part : Nat) : List (Nat × Nat) → State
  | [] => s
  | (p, c) :: t => (s.wrN (bodyKey st part c) (s.rdN (bodyKey st part p) 16384)).copyBodies st part t

/-- The result of `kv.cow` (13 R350). -/
def cowRes (code n : Nat) : Nat := n % 2 ^ 16 + put code 16

/-- Pages of a sequence replaced by their copies where no chain holds them. -/
def SeqSt.swapLoose (q : SeqSt) (g : Nat) (l : List (Nat × Nat)) : SeqSt :=
  q.setLoose g ((q.looseOf g).map (fun p => ((l.find? (fun e => e.1 == p)).map (·.2)).getD p))

/-- `kv.cow` and `kv.cow.spill` (13 R350). An invalid policy and a position of a trimmed page are answered as a bad position (log 62). -/
def State.kvCow (s : State) (st part a x g : Nat) (toSpill : Bool) : KvRes :=
  let k := s.kvp st part
  match k.named a, s.pol st part g with
  | some q0, some pol =>
    let q := k.shaped q0 g pol
    let loose := !q.definite g pol
    if q.appOf g ≤ x then ⟨s, cowRes 1 0⟩
    else
      match k.translate q pol g x s.free with
      | none => ⟨s, cowRes 1 0⟩
      | some pP =>
        let b := x / pol.blen
        let path := if loose then [pP] else (k.blockPages q g b).takeWhile (· ≠ pP) ++ [pP]
        let relinked := fun (leaf : Nat) (l : List (Nat × Nat)) => if loose then q.swapLoose g l else q.setLeaf g b (some leaf)
        let next := pFirst (k.h pP) + pol.t
        let tail := if next < q.appOf g && next / pol.blen = b then pSucc (k.h pP) else noPage
        let rd := s.atFired st
        if toSpill then
          let pred := path[path.length - 2]?
          if 1 < path.length && (match pred with
              | some r => decide (1 < pRef (k.h r))
              | none => false) then ⟨s, cowRes 3 0⟩
          else
            match anyOf s.free 0 k.freeSpill with
            | none => s.kvRefuse st part (cowRes 2 0)
            | some c =>
              let h := k.h pP
              let s1 := s.copyBodies st part [(pP, c)]
              ⟨s1.updKv st part (fun k =>
                let k1 := (k.setH c tail a g (pFirst h) (pNtok h) 1).release rd pP
                let k2 := { k1 with kvcowN := k1.kvcowN + 1 }
                if path.length = 1 then k2.setSeq a (some (relinked c [(pP, c)]))
                else match pred with
                  | some r => k2.setSucc r c
                  | none => k2), cowRes 0 1⟩
        else
          let shared := path.filter (fun p => 1 < pRef (k.h p))
          match k.newPages pol.spill s.free 0 shared.length with
          | none => s.kvRefuse st part (cowRes 2 0)
          | some new =>
            let s1 := s.copyBodies st part (List.zip shared new)
            ⟨s1.updKv st part (fun k =>
              let (k1, leaf) := k.cowPath rd a g tail none (path.headD noPage) path new
              { k1.setSeq a (some (relinked leaf (List.zip shared new))) with kvcowN := k1.kvcowN + BitVec.ofNat 64 shared.length }),
              cowRes 0 shared.length⟩
  | _, _ => ⟨s, cowRes 1 0⟩

/-! ### Lengths (13 R327, R351; 17 R407) -/

/-- One block trimmed: the pages that fall out of the window go, the leaf moves to the first kept page. -/
def trimBlock (limit t g : Nat) (rd : List (Nat × Nat × Nat)) (kq : KvPart × SeqSt) (b : Nat) : KvPart × SeqSt :=
  let (k, q) := kq
  let ps := k.blockPages q g b
  let gone := ps.filter (fun p => pFirst (k.h p) + t ≤ limit)
  if gone.isEmpty then kq
  else
    let kept := ps.filter (fun p => !decide (pFirst (k.h p) + t ≤ limit))
    (k.releaseAll rd gone, q.setLeaf g b kept.head?)

/-- Every group with a window trimmed at a commit. -/
def trimAll (gs : List (Nat × Policy)) (rd : List (Nat × Nat × Nat)) (kq : KvPart × SeqSt) : KvPart × SeqSt :=
  gs.foldl (fun kq g =>
    if g.2.win = 0 || kq.2.clen ≤ g.2.win then kq
    else
      let limit := kq.2.clen - g.2.win
      let (k, q) := (List.range 64).foldl (trimBlock limit g.2.t g.1 rd) kq
      let out := fun (p : Nat) => decide (pFirst (k.h p) + g.2.t ≤ limit)
      (k.releaseAll rd ((q.looseOf g.1).filter out), q.setLoose g.1 ((q.looseOf g.1).filter (fun p => !out p)))) kq

/-- Pages that hold a position of [lo, hi). -/
def KvPart.pagesIn (k : KvPart) (q : SeqSt) (lo hi : Nat) : List Nat :=
  (k.seqPages q).filter (fun p => decide (pFirst (k.h p) < hi) && decide (lo < pFirst (k.h p) + pNtok (k.h p)))

/-- The leaf image of a sequence (17 R406). -/
def SeqSt.leafImage (q : SeqSt) : List (Nat × Nat) := q.leaf.filterMap (fun e => e.2.map (fun p => (e.1, p)))

/-- `kv.len.commit` (13 R327, R351). -/
def State.kvCommit (s : State) (st part core a : Nat) : KvRes :=
  let k := s.kvp st part
  match k.named a with
  | none => ⟨s, 0xFFFFFFFFFFFFFFFF⟩
  | some q =>
    let gs := s.groups st part
    match gs.map (fun g => q.appOf g.1) with
    | [] => ⟨s, q.clen⟩
    | a0 :: as_ =>
      let c := as_.foldl min a0
      let (k1, q1) := trimAll gs (s.atFired st) (k, { q with clen := c })
      let s1 := s.updKv st part (fun _ => k1.setSeq a (some q1))
      if q.clen < c then
        let w := ((k1.pagesIn q1 q.clen c).map (fun p => pFirst (k1.h p))).foldl min q.clen
        ⟨s1.queueMirror { station := st, part := part, core := core, seq := a, free := false, len := c, pages := k1.pagesIn q1 w c
                          leaf := q1.leafImage, pol := ((List.range 64).map (fun g => leBytes (s.polEntry st part g) 8)).flatten }, c⟩
      else ⟨s1, c⟩

/-- One group cut back to CLEN (13 R327). -/
def cutGroup (free : Nat) (rd : List (Nat × Nat × Nat)) (kq : KvPart × SeqSt) (g : Nat × Policy) : KvPart × SeqSt :=
  let k := kq.1
  let q := k.shaped kq.2 g.1 g.2
  let c := q.clen
  let pC := if q.definite g.1 g.2 then k.translate q g.2 g.1 c free else none
  let gone := (k.groupPages q g.1).filter (fun p => c ≤ pFirst (k.h p))
  let k1 := k.releaseAll rd gone
  let q1 := (List.range 64).foldl (fun (q : SeqSt) b => if c ≤ g.2.blen * b then q.setLeaf g.1 b none else q) q
  let k2 := match pC with
    | some p =>
      if pFirst (k1.h p) < c && pRef (k1.h p) == 1 then (k1.setNtok p (c - pFirst (k1.h p))).setSucc p noPage else k1
    | none => k1
  (k2, (q1.setLoose g.1 ((q1.looseOf g.1).filter (fun p => !gone.contains p))).setApp g.1 c)

/-- `kv.len.restore` (13 R327, R351). -/
def State.kvRestore (s : State) (st part a : Nat) : KvRes :=
  let k := s.kvp st part
  match k.named a with
  | none => ⟨s, 0xFFFFFFFFFFFFFFFF⟩
  | some q =>
    let (k1, q1) := (s.groups st part).foldl (cutGroup s.free (s.atFired st)) (k, q)
    ⟨s.updKv st part (fun _ => k1.setSeq a (some q1)), q.clen⟩

/-! ### The prefix index (13 R330, R352) -/

/-- The set of a key. -/
def pfxSet (st : Nat) (key : Word) : Nat := 8192 * st + key.toNat % 8192

/-- The entry of a partition, group and key. -/
def State.pfxEnt (s : State) (st part g : Nat) (key : Word) : Option PfxEnt :=
  (Tab.get [] s.pfx (pfxSet st key)).find? (fun e => e.part == part && e.group == g && e.key == key)

def State.updPfx (s : State) (st : Nat) (key : Word) (f : List PfxEnt → List PfxEnt) : State :=
  { s with pfx := Tab.upd [] s.pfx (pfxSet st key) f }

/-- Pages of the block of an entry of the index: its chain up to the end of the block. -/
def KvPart.wholeBlock (k : KvPart) (e : PfxEnt) : List Nat := k.chain e.t (pFirst (k.h e.page) + e.blen) e.page k.fuel

/-- The block of an entry of the index attached to a sequence; where its pages are of another shape than the group's, in no defined order
(R324). -/
def KvPart.attach (k : KvPart) (q : SeqSt) (g b : Nat) (pol : Policy) (e : PfxEnt) : SeqSt :=
  let p := { pol with t := e.t, blen := e.blen }
  let q1 := k.shaped q g p
  if q1.definite g p then q1.setLeaf g b (some e.page) else q1.setLoose g (q1.looseOf g ++ k.wholeBlock e)

def KvPart.addRefs (k : KvPart) (ps : List Nat) : KvPart := ps.foldl (fun k p => k.setRef p (pRef (k.h p) + 1)) k

/-- `pfx.ins` (13 R352). -/
def State.pfxIns (s : State) (st part a : Nat) (key : Word) (g b : Nat) : KvRes :=
  let k := s.kvp st part
  match k.named a, s.pol st part g with
  | some q, some pol =>
    let ps := k.blockPages q g b
    match q.leafOf g b with
    | none => ⟨s, 4⟩
    | some p0 =>
      if q.clen < (b + 1) * pol.blen || pFirst (k.h p0) ≠ b * pol.blen then ⟨s, 4⟩
      else
        match s.pfxEnt st part g key with
        | some e =>
          if e.page = p0 then ⟨s, 0⟩
          else
            let es := k.wholeBlock e
            if es.any (fun p => pRef (k.h p) == 65535) then ⟨s, 3⟩
            else
              ⟨s.updKv st part (fun k =>
                { ((k.releaseAll (s.atFired st) ps).addRefs es).setSeq a (some (k.attach (q.setLeaf g b none) g b pol e)) with
                  pfxloseN := k.pfxloseN + 1 }), 1⟩
        | none =>
          if 8 ≤ (Tab.get [] s.pfx (pfxSet st key)).length || ps.any (fun p => pRef (k.h p) == 65535) then ⟨s, 3⟩
          else
            ⟨(s.updKv st part (fun k => { k.addRefs ps with pfxwinN := k.pfxwinN + 1 })).updPfx st key
              (· ++ [{ part := part, group := g, key := key, page := p0, t := pol.t, blen := pol.blen }]), 0⟩
  | _, _ => ⟨s, 4⟩

/-- `pfx.find` (13 R352). -/
def State.pfxFind (s : State) (st part a : Nat) (key : Word) (g b : Nat) : KvRes :=
  let k := s.kvp st part
  match k.named a, s.pol st part g with
  | some q, some pol =>
    if q.appOf g ≠ b * pol.blen then ⟨s, 2⟩
    else
      match s.pfxEnt st part g key with
      | none => ⟨s, 1⟩
      | some e =>
        let es := k.wholeBlock e
        if es.any (fun p => pRef (k.h p) == 65535) then ⟨s, 3⟩
        else
          ⟨s.updKv st part (fun k => (k.addRefs es).setSeq a (some ((k.attach q g b pol e).setApp g (q.appOf g + pol.blen)))), 0⟩
  | _, _ => ⟨s, 2⟩

/-- `pfx.find.drop` (13 R352). -/
def State.pfxDrop (s : State) (st part : Nat) (key : Word) (g : Nat) : KvRes :=
  let k := s.kvp st part
  match s.pfxEnt st part g key with
  | none => ⟨s, 1⟩
  | some e =>
    let es := k.wholeBlock e
    ⟨(s.updKv st part (fun k => k.releaseAll (s.atFired st) es)).updPfx st key (fun l => l.erase e), 0⟩

/-! ### Application and issue (13 R331) -/

/-- The KV commands (13 R331). -/
def kvCommand : Instr → Bool
  | .kvApp .. | .kvLk .. | .kvAlloc .. | .kvAllocFork .. | .kvRef .. | .kvFree .. | .kvFreeSeq .. | .kvCow .. | .kvCowSpill ..
  | .kvLenCommit .. | .kvLenRestore .. | .pfxIns .. | .pfxFind .. | .pfxFindDrop .. => true
  | _ => false

/-- Those that may touch many pages (13 R331). -/
def manyPages : Instr → Bool
  | .kvAllocFork .. | .kvFreeSeq .. | .kvCow .. | .kvCowSpill .. | .kvLenCommit .. | .kvLenRestore .. | .pfxIns .. | .pfxFind ..
  | .pfxFindDrop .. => true
  | _ => false

/-- Groups whose policy entries a command reads (13 R324, R327, R348). -/
def kvGroups : Instr → List Nat
  | .kvApp _ _ g _ | .kvLk _ _ _ g | .kvCow _ _ _ g | .kvCowSpill _ _ _ g | .pfxIns _ _ _ g _ | .pfxFind _ _ _ g _ => [g.toNat]
  | .kvAllocFork .. | .kvLenCommit .. | .kvLenRestore .. => List.range 64
  | _ => []

/-- A KV command at the KV units of the die: the state after it, and its result. -/
def State.kvApply (s0 : State) (m : Cmd) : KvRes :=
  let s := s0.notePols s0.part (kvGroups m.ins)
  let st := s.station
  let p := s.part
  let a := (m.caps.getD 0 0).toNat
  let b := (m.caps.getD 1 0).toNat
  match m.ins with
  | .kvApp _ _ g n => s.kvApp st p a g.toNat (n.toNat + 1)
  | .kvLk _ _ _ g => ⟨s, s.kvLk st p a b g.toNat⟩
  | .kvAlloc _ => s.kvAlloc st p
  | .kvAllocFork .. => s.kvFork st p a
  | .kvRef .. => s.kvRef st p a
  | .kvFree .. => s.kvFree st p a
  | .kvFreeSeq .. => (s.kvFreeSeq st p s.cix a).1
  | .kvCow _ _ _ g => s.kvCow st p a b g.toNat false
  | .kvCowSpill _ _ _ g => s.kvCow st p a b g.toNat true
  | .kvLenCommit .. => s.kvCommit st p s.cix a
  | .kvLenRestore .. => s.kvRestore st p a
  | .pfxIns _ _ _ g blk => s.pfxIns st p a (BitVec.ofNat 64 b) g.toNat blk.toNat
  | .pfxFind _ _ _ g blk => s.pfxFind st p a (BitVec.ofNat 64 b) g.toNat blk.toNat
  | .pfxFindDrop _ _ g => s.pfxDrop st p (m.caps.getD 0 0) g.toNat
  | _ => ⟨s, 0⟩

/-- A command to the KV units: its result lands by c+L. -/
def kvIssue (i : Instr) (d : Reg) (lat : Nat) (s : State) : Host.Outcome State Fault Refusal :=
  issue {} i (fun _ => lat) (fun s => s.askUnit i d lat) s

/-- `kv.app` (13 R346). -/
def execKvApp (d a : Reg) (g : BitVec 6) (n : BitVec 8) (s : State) : Host.Outcome State Fault Refusal := kvIssue (.kvApp d a g n) d 8 s

/-- `kv.lk` (13 R347). -/
def execKvLk (d a b : Reg) (g : BitVec 6) (s : State) : Host.Outcome State Fault Refusal := kvIssue (.kvLk d a b g) d 64 s

/-- `kv.alloc` (13 R348). -/
def execKvAlloc (d : Reg) (s : State) : Host.Outcome State Fault Refusal := kvIssue (.kvAlloc d) d 16 s

/-- `kv.alloc.fork` (13 R348). -/
def execKvAllocFork (d a : Reg) (s : State) : Host.Outcome State Fault Refusal := kvIssue (.kvAllocFork d a) d 16 s

/-- `kv.ref` (13 R349). -/
def execKvRef (d a : Reg) (s : State) : Host.Outcome State Fault Refusal := kvIssue (.kvRef d a) d 8 s

/-- `kv.free` (13 R349). -/
def execKvFree (d a : Reg) (s : State) : Host.Outcome State Fault Refusal := kvIssue (.kvFree d a) d 8 s

/-- `kv.free.seq` (13 R349). -/
def execKvFreeSeq (d a : Reg) (s : State) : Host.Outcome State Fault Refusal := kvIssue (.kvFreeSeq d a) d 8 s

/-- `kv.cow` (13 R350). -/
def execKvCow (d a b : Reg) (g : BitVec 6) (s : State) : Host.Outcome State Fault Refusal := kvIssue (.kvCow d a b g) d 16 s

/-- `kv.cow.spill` (13 R350). -/
def execKvCowSpill (d a b : Reg) (g : BitVec 6) (s : State) : Host.Outcome State Fault Refusal := kvIssue (.kvCowSpill d a b g) d 16 s

/-- `kv.len.commit` (13 R327, R351). -/
def execKvLenCommit (d a : Reg) (s : State) : Host.Outcome State Fault Refusal := kvIssue (.kvLenCommit d a) d 16 s

/-- `kv.len.restore` (13 R327, R351). -/
def execKvLenRestore (d a : Reg) (s : State) : Host.Outcome State Fault Refusal := kvIssue (.kvLenRestore d a) d 16 s

/-- `pfx.ins` (13 R352). -/
def execPfxIns (d a b : Reg) (g blk : BitVec 6) (s : State) : Host.Outcome State Fault Refusal := kvIssue (.pfxIns d a b g blk) d 16 s

/-- `pfx.find` (13 R352). -/
def execPfxFind (d a b : Reg) (g blk : BitVec 6) (s : State) : Host.Outcome State Fault Refusal := kvIssue (.pfxFind d a b g blk) d 16 s

/-- `pfx.find.drop` (13 R352). -/
def execPfxFindDrop (d b : Reg) (g : BitVec 6) (s : State) : Host.Outcome State Fault Refusal := kvIssue (.pfxFindDrop d b g) d 16 s

end Sys2Proof.Machine
end

