-- ==== Sys2Proof/Machine/Attention.lean ====
section
/-! DEFINITION. The attention engines: mask blocks, operations at the head of a queue share, the softmax walk, outputs (spec 13 R332 to R342, R345). -/

namespace Sys2Proof.Machine

/-- `at.mask` (13 R345). -/
def execAtMask (n : BitVec 4) (a : Reg) (s : State) : Host.Outcome State Fault Refusal :=
  issue famEng (.atMask n a) (fun _ => 1) (fun s => s.sendLoad (.atMask n a) 1) s

/-! ### Templates (13 R333 to R335) -/

def atKind (t : BitVec 512) : Nat := fld t 0 2
def atQkM8 (t : BitVec 512) : Bool := t.getLsbD 2
def atVM8 (t : BitVec 512) : Bool := t.getLsbD 3
def atOt (t : BitVec 512) : VTy := if t.getLsbD 4 then .bf16 else .f32
def atNorm (t : BitVec 512) : Bool := t.getLsbD 5
def atStats (t : BitVec 512) : Bool := t.getLsbD 6
def atQp (t : BitVec 512) : Bool := t.getLsbD 7
def atMaskBits (t : BitVec 512) : Nat := fld t 8 2
def atWh (t : BitVec 512) : Bool := t.getLsbD 10
def atCbq (t : BitVec 512) : Nat := fld t 16 4
def atCbo (t : BitVec 512) : Nat := fld t 20 4
def atGroup (t : BitVec 512) : Nat := fld t 24 6
def atDh (t : BitVec 512) : Nat := 32 * fld t 32 4
def atDv (t : BitVec 512) : Nat := 32 * fld t 36 4
def atKoff (t : BitVec 512) : Nat := 64 * tf t 3
def atVoff (t : BitVec 512) : Nat := 64 * tf t 4
def atQoff (t : BitVec 512) : Nat := 64 * tf t 5
def atQstr (t : BitVec 512) : Nat := 64 * tf t 6
def atOoff (t : BitVec 512) : Nat := 64 * tf t 7
def atOstr (t : BitVec 512) : Nat := 64 * tf t 8
def atSc (t : BitVec 512) : Fl := fp32.dec (fld t 144 32)
def atMsk (t : BitVec 512) : Nat := fld t 176 4
def atQpos (t : BitVec 512) : Nat := fld t 192 32
def atKpos (t : BitVec 512) : Nat := fld t 224 32
def atNkt (t : BitVec 512) : Nat := tf t 16
def atSeq (t : BitVec 512) : Nat := tf t 17

/-- Bytes of an M8 or BF16 vector of n elements, with its scales. -/
def atVecBytes (m8 : Bool) (n : Nat) : Nat := if m8 then n + n / 32 else 2 * n
def atQb (t : BitVec 512) : Nat := atVecBytes (atQkM8 t) (atDh t)
def atVb (t : BitVec 512) : Nat := atVecBytes (atVM8 t) (atDv t)
def atOes (t : BitVec 512) : Nat := stBytesTy (atOt t)
def atOb (t : BitVec 512) : Nat := atDv t * atOes t

/-- Query rows of an operation. -/
def AtOp.rows (o : AtOp) : Nat := if o.dae then fld o.tmpl 40 6 + 1 else 128

/-- The engine's code: in templates, and in buffer descriptors (13 R333, 07 R159). -/
def AtOp.eng (o : AtOp) : Nat := if o.dae then 2 else 1
def AtOp.cbCode (o : AtOp) : Nat := if o.dae then 4 else 3

/-- An issue enters the queue share with its snapshots (08 R181, 13 R345). -/
def State.issueAt (s : State) (dae : Bool) (T : BitVec 512) (num phase cmd : Nat) : State :=
  let x := s.core.ctx
  let o : AtOp :=
    { num := num, phase := phase, cmd := cmd, dae := dae, tmpl := T, mask := Tab.get [] x.mask (atMsk T)
      ent := s.entries [(x.cbk (atCbq T)).handle, (x.cbk (atCbo T)).handle].eraseDups }
  s.mapCtx (fun x => { x with atq := x.atq ++ [o] })

/-! ### At the head of a share (13 R339) -/

/-- The template fault (13 R339). -/
def AtOp.badTmpl (o : AtOp) (x : Ctx) : Bool :=
  let t := o.tmpl
  let trl := (x.cbk (atCbo t)).trl
  !t.getLsbD 496 || fld t 497 3 != o.eng || atKind t != (if o.dae then 1 else 2)
    || fld t 11 5 != 0 || fld t 30 2 != 0 || fld t 46 2 != 0 || fld t 180 12 != 0 || fld t 288 208 != 0 || fld t 500 12 != 0
    || atDh t == 0 || decide (256 < atDh t) || atDv t == 0 || decide (256 < atDv t)
    || (!o.dae && fld t 40 6 != 0) || (o.dae && atMaskBits t != 0) || (!o.dae && atNkt t == 0)
    || (decide (0 < trl) && decide (trl < 64)) || (tbit (atMaskBits t) 1 && o.mask.isEmpty) || (atWh t && atOoff t == 0)

/-- The cb-role fault (13 R339). -/
def AtOp.badRole (o : AtOp) (x : Ctx) : Bool :=
  !roleOk o.ent (x.cbk (atCbq o.tmpl)) spA o.cbCode false || !roleOk o.ent (x.cbk (atCbo o.tmpl)) spA o.cbCode true

/-- Fired operations of a core on one engine. -/
def Core.atOn (c : Core) (dae : Bool) : List AtRun := c.atRun.filter (fun a => a.op.dae == dae)

/-- Pops and slot completions that fired operations of the context still owe on the buffers. -/
def Core.atPops (c : Core) (k : Nat) : Nat :=
  (c.atRun.filter (fun a => a.owner == c.ctx.cid && atQp a.op.tmpl && atCbq a.op.tmpl == k)).length
def Core.atFills (c : Core) (k : Nat) : Nat :=
  (c.atRun.filter (fun a => a.owner == c.ctx.cid && atCbo a.op.tmpl == k)).length

/-- The counts an operation waits for. -/
def AtOp.counts (o : AtOp) (c : Core) : Bool :=
  let kq := atCbq o.tmpl
  let ko := atCbo o.tmpl
  decide (c.atPops kq + 1 ≤ c.cbSeen c.ctx kq) && decide (c.atFills ko + 1 ≤ (c.ctx.cbk ko).room)

/-- The slots of an operation as handle addresses. -/
def AtOp.qHa (o : AtOp) (c : Core) : Nat := let k := atCbq o.tmpl; (c.ctx.cbk k).ha ((c.ctx.cbk k).cptr + c.atPops k)
def AtOp.oHa (o : AtOp) (c : Core) : Nat := let k := atCbo o.tmpl; (c.ctx.cbk k).ha ((c.ctx.cbk k).pptr + c.atFills k)
def AtOp.oTrailer (o : AtOp) (c : Core) : Nat :=
  let k := atCbo o.tmpl
  (c.ctx.cbk k).trailer ((c.ctx.cbk k).pptr + c.atFills k)

/-- The operand-bounds fault (13 R335). -/
def AtOp.badBounds (o : AtOp) (c : Core) (rb : Nat) : Bool :=
  let t := o.tmpl
  let n := o.rows
  let orow := atOb t + (if atStats t then 64 * cdiv (atOb t) 64 + 8 - atOb t else 0)
  decide (rb < atKoff t + atQb t) || decide (rb < atVoff t + atVb t) || decide (atQstr t < 64 * cdiv (atQb t) 64)
    || decide (atOstr t < 64 * cdiv (atOb t) 64 + (if atStats t then 64 else 0))
    || decide (64 * (c.ctx.cbk (atCbq t)).slotsz < atQoff t + atQstr t * (n - 1) + atQb t)
    || decide (64 * (c.ctx.cbk (atCbo t)).slotsz < atOoff t + atOstr t * (n - 1) + orow)

/-- The parts of the slots that an operation touches: query rows, then output rows, header and trailer. -/
def AtOp.parts (o : AtOp) (c : Core) : List MePart :=
  let t := o.tmpl
  let rows := fun (op ha off str n : Nat) (wr : Bool) =>
    (rowOffs off str o.rows).map (fun r => ({ operand := op, ha := haAdd ha r, n := n, wr := wr, spaces := [spA] } : MePart))
  let trl := (c.ctx.cbk (atCbo t)).trl
  rows 0 (o.qHa c) (atQoff t) (atQstr t) (atQb t) false ++ rows 1 (o.oHa c) (atOoff t) (atOstr t) (atOb t) true
    ++ (if atStats t then rows 1 (o.oHa c) (atOoff t + 64 * cdiv (atOb t) 64) (atOstr t) 8 true else [])
    ++ (if 64 ≤ trl then [{ operand := 1, ha := o.oTrailer c, n := 64, wr := true, spaces := [spA] }] else [])
    ++ (if atWh t then [{ operand := 1, ha := o.oHa c, n := 64, wr := true, spaces := [spA] }] else [])

/-- The check of a part for the engine. -/
def AtOp.partFault (o : AtOp) (part : Nat) (p : MePart) : Option Nat :=
  checkEnt (entOf o.ent (haHandle p.ha)) (if o.dae then .dae else .pae) part p.ha p.n (!p.wr) p.wr p.spaces

/-- The checks of step 2 that follow the template and the roles (13 R339): the first fault. -/
def AtOp.lateFault (o : AtOp) (s : State) : Option QStop :=
  let c := s.core
  match (s.kvp s.station s.part).seq (atSeq o.tmpl), s.pol s.station s.part (atGroup o.tmpl) with
  | some _, some pol =>
    if o.badBounds c (16384 / pol.t) then some { code := 2 }
    else
      match firstBad (o.partFault s.part) (o.parts c) with
      | some e => some e
      | none => if (o.parts c).any (fun p => !p.wr && s.anyOff (p.keys s o.ent)) then some { code := 5 } else none
  | _, _ => some { code := 12 }

/-- Bank groups of an operand: 0 the queries, 1 the output. -/
def AtOp.groupsOf (o : AtOp) (s : State) (k : Nat) : List Nat :=
  (((o.parts s.core).filter (fun p => p.operand == k)).map (fun p => (keyGroups (p.keys s o.ent)).map (·.2))).flatten.eraseDups
def AtOp.groups (o : AtOp) (s : State) : List Nat := (o.groupsOf s 0 ++ o.groupsOf s 1).eraseDups

/-- The bank-conflict fault (07 R155, R156): a group that an operation of another queue owns, or queries and output in one group. -/
def AtOp.conflict (o : AtOp) (s : State) : Bool :=
  let c := s.core
  (o.groups s).any (fun g => c.me.any (fun m => m.groups.contains g) || (c.atOn (!o.dae)).any (fun a => a.groups.contains g))
    || (o.groupsOf s 0).any ((o.groupsOf s 1).contains)

/-- What an engine would do with the head of the share of the core in focus. -/
inductive AtAct where
  | none
  | stop (q : QStop)
  | ask
  | wake
  | fire
  deriving DecidableEq, Repr

/-- Head of a share. -/
def Ctx.atHead (x : Ctx) (dae : Bool) : Option AtOp :=
  if (if dae then x.daeStop else x.paeStop).isSome then none else x.atq.find? (fun o => o.dae == dae)

/-- KV commands of the core that are not yet applied and were issued before an operation (13 R339). -/
def Ctx.kvBefore (x : Ctx) (cmd : Nat) : Bool :=
  x.cmds.any (fun m => decide (m.serial < cmd) && kvCommand m.ins) || x.fl.defer.any (fun d => decide (d.serial < cmd) && kvCommand d.ins)

/-- The engine of a cluster runs an operation. -/
def State.atBusy (s : State) (dae : Bool) : Bool := (List.range 8).any (fun k => !((s.getCore (8 * s.cl + k)).atOn dae).isEmpty)

/-- The head of the core's share (13 R339), the engine itself apart. -/
def State.atAct (s : State) (dae : Bool) : AtAct :=
  let c := s.core
  match c.ctx.atHead dae with
  | none => .none
  | some o =>
    if o.badTmpl c.ctx then .stop { code := 1 }
    else if o.badRole c.ctx then .stop { code := 6 }
    else if !o.counts c || c.ctx.kvBefore o.cmd then .none
    else
      match o.lateFault s with
      | some e => .stop e
      | none =>
        let r := if dae then s.cluster.daeR else s.cluster.paeR
        if r.held = 0 then (if r.asked then .none else .ask)
        else if s.atBusy dae then .none
        else if o.conflict s then .stop { code := 4 }
        else
          let ks := ((o.parts c).filter (fun p => !p.wr)).map (fun p => p.keys s o.ent)
          if ks.any s.anyAsleep then (if ks.any (fun k => (keyBanks k).any (fun x => (s.getCore x.1).bank x.2.1 x.2.2 == .ret)) then .wake else .none)
          else .fire

/-- The round of an engine has come to this core: no core before it in the round could fire (13 R332). -/
def State.atTurn (s : State) (dae : Bool) : Bool :=
  let k := s.cluster
  let next := if dae then k.daeNext else k.paeNext
  let mine := (coreOf s.cix + 8 - next) % 8
  !((List.range mine).any (fun i => (s.focus (8 * s.cl + (next + i) % 8)).atAct dae == .fire))

/-- Positions that an operation walks: first and end. -/
def atRange (o : AtOp) (app win : Nat) : Nat × Nat :=
  if o.dae then (if win = 0 then 0 else app - win, app) else (atKpos o.tmpl, min (atKpos o.tmpl + 128 * atNkt o.tmpl) app)

/-- The pages of the walk, with their first positions and body keys, in chain order; where the policy has changed since the group took its
pages, some of them at some positions, but none of another sequence (R324). -/
def State.atPages (s : State) (part : Nat) (q : SeqSt) (pol : Policy) (g lo hi : Nat) : List (Nat × Nat) :=
  let k := s.kvp s.station part
  if !q.definite g pol then
    ((k.groupPages q g).mapIdx (fun i p => (Config.freeNat s.free (2 ^ 42 + i) % 2 ^ 32, bodyKey s.station part p))).filter (fun p =>
      Config.freeBool s.free p.2)
  else
  ((k.groupPages q g).filter (fun p => decide (pFirst (k.h p) < hi) && decide (lo < pFirst (k.h p) + pol.t))).map
    (fun p => (pFirst (k.h p), bodyKey s.station part p))

/-- The operation leaves its share and runs with its snapshot (13 R336, R339). It takes the time of its queries and of the headers and bodies
of its pages (R342). -/
def State.atStart (s : State) (o : AtOp) : State :=
  let c := s.core
  let part := s.part
  let q := ((s.kvp s.station part).seq (atSeq o.tmpl)).getD {}
  let g := atGroup o.tmpl
  let pol := (s.pol s.station part g).getD { t := 1, blen := 1, spill := false, win := 0 }
  let app := q.appOf g
  let (lo, hi) := atRange o app pol.win
  let pages := s.atPages part q pol g lo hi
  let key := fun (ha : Nat) =>
    let e := entOf o.ent (haHandle ha)
    localKey s.cix (hSpace e) (s.regionBase s.station part (haHandle ha) e + haOff ha)
  let a : AtRun :=
    { op := o, owner := c.ctx.cid, qKey := key (o.qHa c), oKey := key (o.oHa c), part := part, groups := o.groups s
      till := c.ccyc + 64 + cdiv (o.rows * atQb o.tmpl + pages.length * (64 + 16384)) 512, app := app, win := pol.win, recLen := 16384 / pol.t
      toks := pol.t, pages := pages }
  (s.mapCore (fun c => { c with atRun := c.atRun ++ [a], ctx := { c.ctx with atq := c.ctx.atq.erase o } })).updCluster s.cl (fun k =>
    let next := (coreOf s.cix + 1) % 8
    if o.dae then { k with daeNext := next } else { k with paeNext := next })

/-- ATTENTION_FIRE: the head of the core's share stops it, asks for the engine's reservation, wakes its banks, or fires. -/
def State.atFire (s : State) (dae : Bool) : State :=
  match s.core.ctx.atHead dae with
  | none => s
  | some o =>
    match s.atAct dae with
    | .none => s
    | .stop q => (s.logStop (if dae then .dae else .pae) q).stopQueue (if dae then 3 else 2) q.code false o.num
    | .ask => s.askAt dae
    | .wake => ((o.parts s.core).filter (fun p => !p.wr)).foldl (fun s p => s.startWakes (p.keys s o.ent)) s
    | .fire => if s.atTurn dae then s.atStart o else s

def execAttentionFire (dae : Bool) (s : State) : Host.Outcome State Fault Refusal := .next (s.atFire dae)

/-! ### The walk (13 R336 to R338) -/

/-- A vector of n elements at a key, as FP32 values, each with whether its scale is a NaN byte (03 R69, R75; 13 R335). -/
def State.atVec (s : State) (key : Nat) (m8 : Bool) (n : Nat) : List (Fl × Bool) :=
  if m8 then (List.range n).map (fun d =>
    let e := (s.rd1 (key + n + d / 32)).toNat
    (fp32.rnd .rne false (m8Scaled e (s.rd1 (key + d)).toNat), e == 255))
  else (List.range n).map (fun d => (bf16.dec (s.rdLE (key + 2 * d) 2), false))

/-- The dot product of a query row and a key, rounded to FP32 (13 R336). -/
def State.atDot (s : State) (t : BitVec 512) (qk kk : Nat) : Fl × Flags :=
  let n := atDh t
  let r :=
    if atQkM8 t then
      (List.range (n / 32)).foldl (fun acc b =>
        m8Accumulate acc (s.rdNats (qk + 32 * b) 32) (s.rdNats (kk + 32 * b) 32) (s.rd1 (qk + n + b)).toNat (s.rd1 (kk + n + b)).toNat)
        ((Fl.zero, {}) : Fl × Flags)
    else
      (List.range n).foldl (fun acc d => bf16Accumulate acc (s.rdLE (qk + 2 * d) 2) (s.rdLE (kk + 2 * d) 2)) ((Fl.zero, {}) : Fl × Flags)
  (fp32.rnd .rne false r.1, { inv := r.2.inv, scovf := r.2.scovf })

/-- Running state of a row (13 R336); `inv` tells that a NaN was formed from operands that are not NaN, and `scov` that a NaN scale byte
was read (03 R75), for the row or an element. -/
structure AtRow where
  m : Fl := .inf true
  l : Fl := Fl.zero
  o : List Fl := []
  inv : Bool := false
  invs : List Bool := []
  scov : Bool := false
  scovs : List Bool := []
  deriving DecidableEq, Repr

/-- A result that is NaN although no operand is. -/
def newNan (r : Fl) (ops : List Fl) : Bool := r.isNan && ops.all (fun x => !x.isNan)

/-- One attended record (13 R336). -/
def AtRow.step (r : AtRow) (sc : Fl) (dot : Fl × Flags) (val : List (Fl × Bool)) : AtRow :=
  let rnd := fp32.rnd .rne false
  let y := rnd (Fl.mul dot.1 sc)
  let mn := Fl.max2 r.m y
  let ex := fun (x : Fl) => fp32.dec (fp32.exp2 .rne false (rnd (Fl.add .rne x mn.neg)))
  let (a, w) := if mn = .inf true then (Fl.one, Fl.zero) else (ex r.m, ex y)
  let da := Fl.add .rne r.m mn.neg
  let dw := Fl.add .rne y mn.neg
  let expInv := mn != .inf true && (newNan da [r.m, mn] || newNan dw [y, mn])
  let la := Fl.mul r.l a
  let l := rnd (Fl.add .rne la w)
  let one := fun (o v : Fl) =>
    let p := Fl.mul o a
    let q := Fl.mul w v
    let z := Fl.add .rne p q
    (rnd z, newNan z [o, a, w, v])
  let os := List.zipWith one r.o (val.map (·.1))
  { m := mn, l := l, o := os.map (·.1)
    inv := r.inv || dot.2.inv || newNan y [dot.1, sc] || expInv || newNan l [r.l, a, w]
    invs := List.zipWith (fun (x : Bool) (o : Fl × Bool) => x || o.2) r.invs os, scov := r.scov || dot.2.scovf
    scovs := List.zipWith (fun (x : Bool) (v : Fl × Bool) => x || v.2) r.scovs val }

/-- A key is attended by a row (13 R336 to R338). -/
def AtRun.attends (a : AtRun) (i x : Nat) : Bool :=
  let t := a.op.tmpl
  if a.op.dae then true
  else
    let qp := atQpos t + i
    let b := leNat (a.op.mask.take 4)
    let n := ((a.op.mask.drop 4).headD 0).toNat
    let row := leNat ((a.op.mask.drop (64 + 16 * i)).take 16)
    (a.win = 0 || decide (qp < x + a.win)) && (!tbit (atMaskBits t) 0 || decide (x ≤ qp))
      && (!tbit (atMaskBits t) 1 || (if x < b then true else if b + n ≤ x then false else tbit row (x - b)))

/-- Records of the walk: position and key, in order. -/
def AtRun.records (a : AtRun) : List (Nat × Nat) :=
  let (lo, hi) := atRange a.op a.app a.win
  (a.pages.map (fun p => ((List.range a.toks).map (fun r => (p.1 + r, p.2 + a.recLen * r))))).flatten.filter
    (fun x => decide (lo ≤ x.1) && decide (x.1 < hi))

/-- A whole row. -/
def AtRun.row (a : AtRun) (s : State) (i : Nat) : AtRow :=
  let t := a.op.tmpl
  let qk := a.qKey + atQoff t + atQstr t * i
  let start : AtRow := { o := List.replicate (atDv t) Fl.zero, invs := List.replicate (atDv t) false, scovs := List.replicate (atDv t) false }
  a.records.foldl (fun r x =>
    if a.attends i x.1 then r.step (atSc t) (s.atDot t qk (x.2 + atKoff t)) (s.atVec (x.2 + atVoff t) (atVM8 t) (atDv t)) else r) start

/-- o / l rounded to the output type (13 R336; 03 R73). -/
def atQuot (f : Fmt) (o l : Fl) : Nat × Flags :=
  match o, l with
  | .nan, _ => (f.nanBits, { nanp := true })
  | _, .nan => (f.nanBits, { nanp := true })
  | .inf _, .inf _ => (f.nanBits, { nanp := true, inv := true })
  | .inf n, .fin m .. => (f.infOrSat false (n != m), {})
  | .fin n .., .inf m => (f.withSign (n != m) 0, {})
  | .fin n a ea, .fin m b eb =>
    let e := ea - eb
    f.encRat .rne false (n != m) (a * pow2 e) (b * pow2 (-e))

/-- Element d of a row's output, with its flags (13 R336, R340). -/
def AtRow.out (r : AtRow) (t : BitVec 512) (d : Nat) : Nat × Flags :=
  let f := fmtOf (atOt t)
  let o := r.o.getD d Fl.zero
  let (b, g) := if atNorm t then (if r.l.isZero then (0, {}) else atQuot f o r.l) else f.enc .rne false o
  (b, { g with inv := g.inv || r.inv || r.invs.getD d false, scovf := r.scov || r.scovs.getD d false })

/-- Bytes that a row writes. -/
def AtRun.rowBytes (a : AtRun) (i : Nat) (r : AtRow) : List (Nat × Byte) :=
  let t := a.op.tmpl
  let base := a.oKey + atOoff t + atOstr t * i
  let es := atOes t
  let els := ((List.range (atDv t)).map (fun d => List.zip (keysFrom (base + es * d) es) (leBytes (r.out t d).1 es))).flatten
  els ++ (if atStats t then
      List.zip (keysFrom (base + 64 * cdiv (atOb t) 64) 8) (leBytes (fp32.bits .rne false r.m) 4 ++ leBytes (fp32.bits .rne false r.l) 4)
    else [])

/-- Exceptions of the whole output (13 R340). -/
def AtRun.tileFlags (a : AtRun) (rows : List AtRow) : TileFlags :=
  let n := atDv a.op.tmpl
  (rows.mapIdx (fun i r => (i, r))).foldl (fun t p =>
    (List.range n).foldl (fun (t : TileFlags) d => t.add (n * p.1 + d) (p.2.out a.op.tmpl d).2) t) {}

/-- The queries and records of an operation are read: corrections are made, an uncorrectable word is reported (16 R393). -/
def State.atConsume (s : State) (a : AtRun) : State :=
  if s.chk.isEmpty then s
  else
    let t := a.op.tmpl
    let d := (s.core.ownerCtx a.owner).cbk (atCbq t)
    let s1 := (rowOffs (atQoff t) (atQstr t) a.op.rows).foldl (fun s r =>
      s.consumeFor a.owner (keysFrom (a.qKey + r) (atQb t)) spA (haAdd (d.ha d.cptr) r) a.op.phase) s
    let base := bodyKey s.station a.part 0
    a.records.foldl (fun s x =>
      (s.consumeFor a.owner (keysFrom (x.2 + atKoff t) (atQb t)) spK (5 * 2 ^ 52 + (x.2 + atKoff t - base)) a.op.phase).consumeFor a.owner
        (keysFrom (x.2 + atVoff t) (atVb t)) spK (5 * 2 ^ 52 + (x.2 + atVoff t - base)) a.op.phase) s1

/-- An operation of the core is over: its engine is idle from now, and the pages it held back are free. -/
def State.atEnd (s : State) (a : AtRun) (bad : Bool) : State :=
  let s1 := s.mapCore (fun c => { c.onOwner a.owner (fun x => { x with tlAt := x.tlAt.finish a.op.num bad }) with
    atRun := c.atRun.filter (fun o => !(o.op.num = a.op.num && o.owner = a.owner)) })
  (s1.updCluster s.cl (fun k =>
    if a.op.dae then { k with daeR := { k.daeR with idle := max k.clk s.core.ccyc } } else { k with paeR := { k.paeR with idle := max k.clk s.core.ccyc } })).atGone
    s.cix a.owner a.op.num

/-- ATTENTION_COMPLETE (13 R332, R340): output, status word and slot, the pop, the number. An operation with a residue mismatch or an
uncorrectable operand completes nothing (08 R190, 16 R390). -/
def State.atComplete (s : State) (dae : Bool) : State :=
  match s.core.atRun.find? (fun a => a.op.dae == dae && !a.bad && decide (a.till ≤ s.core.ccyc)) with
  | none => s
  | some a =>
    let t := a.op.tmpl
    let s0 := s.atConsume a
    if s.fails s0 then
      s0.mapCore (fun c => { c.onOwner a.owner (fun x => if dae then { x with daeMpc := 1 } else { x with paeMpc := 1 }) with
        atRun := c.atRun.map (fun o => if o.op.num = a.op.num && o.owner = a.owner then { o with bad := true } else o) })
    else
      let d := (s0.core.ownerCtx a.owner).cbk (atCbo t)
      let rows := (List.range a.op.rows).map (a.row s0)
      let s1 := if atWh t then s0.putVersion a.oKey oddVersion else s0
      let s2 := s1.store ((rows.mapIdx (fun i r => a.rowBytes i r)).flatten)
      let sw := statusWord (a.tileFlags rows) a.op.eng (tyCode (atOt t)) a.op.num
      let s3 := if 64 ≤ d.trl then s2.store (List.zip (keysFrom (a.oKey + 64 * d.slotsz) 64) (leBytes sw 64)) else s2
      let s4 := if atWh t then s3.putVersion a.oKey evenVersion else s3
      (s4.mapCore (fun c => c.onOwner a.owner (fun y =>
        let y1 := if atQp t then y.cbTake (atCbq t) 1 a.op.phase else y
        y1.cbFill (atCbo t) 1 a.op.phase))).atEnd a false

def execAttentionComplete (dae : Bool) (s : State) : Host.Outcome State Fault Refusal := .next (s.atComplete dae)

/-- ATTENTION_RESERVATION_RETURN (15 R368): 64 cycles with no operation queued or firing in any share of the cluster, counted from the last
cycle with one. -/
def State.atReturn (s : State) (dae : Bool) : State :=
  let k := s.cluster
  let r := if dae then k.daeR else k.paeR
  let busy := (List.range 8).any (fun i =>
    let c := s.getCore (8 * s.cl + i)
    !(c.atOn dae).isEmpty || c.ctx.atq.any (fun o => o.dae == dae))
  if busy then s.updCluster s.cl (fun k =>
    if dae then { k with daeR := { k.daeR with idle := k.clk } } else { k with paeR := { k.paeR with idle := k.clk } })
  else if r.held ≠ 0 && decide (r.idle + 64 ≤ k.clk) then s.releaseAt dae else s

def execAttentionReservationReturn (dae : Bool) (s : State) : Host.Outcome State Fault Refusal := .next (s.atReturn dae)

end Sys2Proof.Machine
end

