-- ==== Sys2Proof/Machine/Vector.lean ====
section
/-! DEFINITION. The instructions of slot V: operand reads, intake, results (spec 05 R107 to R115, 06 R128 to R151). -/

namespace Sys2Proof.Machine

/-! ### Operand blocks, ports, banks (05 R107, R108, R115) -/

/-- A vector operand that a bundle reads: field number, origin, height, width. -/
structure RBlock where
  field : Nat
  org : BitVec 8
  h : Nat
  w : Nat
  deriving DecidableEq, Repr

/-- A field of slot V as a block that is read. -/
def rblockOf (k : VKind) (field : Nat) (v : BitVec 8) : List RBlock :=
  match k with
  | .vec h w => [{ field := field, org := v, h := h, w := w }]
  | _ => []

/-- The vector source blocks of an operation: fields a, b and c of slot V (the scales of vquant are written, 06 R147), and the data
of `vst` (05 R108). -/
def srcBlocks (i : Instr) : List RBlock :=
  match i with
  | .vst m => [{ field := 0, org := m.v, h := m.h.toNat + 1, w := m.w.toNat + 1 }]
  | .vquant v => match vUse (.vquant v) with
    | some (v, u) => rblockOf u.a 1 v.a
    | none => []
  | i => match vUse i with
    | some (v, u) => rblockOf u.a 1 v.a ++ rblockOf u.b 2 v.b ++ rblockOf u.c 3 v.c
    | none => []

/-- The physical banks that a block touches. -/
def RBlock.banks (b : RBlock) (f : Flow) : List Nat := (List.range b.h).map (fun r => physRow f (b.org.toNat / 16 + r))

/-- Extra reads of a bundle beyond the two ports of each bank (05 R108). -/
def portExtra (f : Flow) (bs : List RBlock) : Nat :=
  let distinct := (bs.map (fun b => { b with field := 0 })).eraseDups
  ((List.range 16).map (fun k => (distinct.filter (fun b => (b.banks f).contains k)).length - 2)).foldl (· + ·) 0

/-- State of a vector bank now. -/
def State.vbank (s : State) (row : Nat) : Bank := (Tab.get .off s.core.ctx.r.bank row).at s.core.ccyc

/-- The register-drop fault of an operation (05 R115): the first block, in field order, that touches an OFF bank. -/
def dropFault (i : Instr) (s : State) : Option TrapInfo :=
  let hits := (srcBlocks i).filterMap (fun b =>
    ((b.banks s.core.ctx.f).find? (fun k => s.vbank k == .off)).map (fun k => (b.field, k)))
  match hits with
  | [] => none
  | (fd, k) :: _ => some { code := cRegDrop, part := (slotOf i).part, detail := Config.dropDetail (slotOf i).part fd k }

/-- Banks of a bundle's reads that are in RET or waking. -/
def State.sleepBanks (s : State) (bs : List RBlock) : List Nat :=
  ((bs.map (fun b => b.banks s.core.ctx.f)).flatten.eraseDups).filter (fun k => match s.vbank k with
    | .ret | .waking _ => true
    | _ => false)

/-- A vector bank starts a wake with its contents kept (05 R111, R112). -/
def State.wakeRow (s : State) (k : Nat) : State :=
  if s.vbank k = .ret then
    (s.mapRegs (fun r => { r with bank := Tab.set .off r.bank k (.waking (s.core.ccyc + 8)) })).mapCtr (fun c => { c with wakeN := c.wakeN + 1 })
  else s

/-! ### Latency and intake (06 R132, R133) -/

/-- Base latency (06 R132). -/
def vLb (i : Instr) : Nat :=
  match i with
  | .vadd v | .vsub v | .vmin v | .vmax v | .vabs v | .vneg v => if v.ty.isF then 4 else 2
  | .vmul v => if v.ty.isF then 4 else 3
  | .vfma .. => 4
  | .vand _ | .vor _ | .vxor _ | .vnot _ | .vshl _ | .vshr _ | .vsar _ | .vsel _ | .vmov _ | .ppopc _ => 2
  | .vcmp _ v => if v.ty.isF then 3 else 2
  | .vcvt .. | .vperm _ | .vbcast _ | .vext _ | .vins _ | .vpack _ | .vunpk _ | .vrot _ => 3
  | .vexp2 _ | .vlog2 _ | .vrcp _ | .vrsq _ | .vtanh _ | .vred .. | .vquant _ => 8
  | .vdeq _ => 4
  | .vdot _ => 5
  | .vsmx _ => 16
  | _ => 1

/-- Registers of a kind. -/
def kindRegs : VKind → Nat
  | .vec h w => h * w
  | _ => 0

/-- Intake length B: half the registers of the largest vector operand, rounded up (06 R133). -/
def vB (i : Instr) : Nat :=
  match vUse i with
  | some (_, u) => max 1 (cdiv (max (max (kindRegs u.d) (kindRegs u.a)) (max (kindRegs u.b) (kindRegs u.c))) 2)
  | none => 1

/-- The latency L = Lb + B - 1 (06 R133). -/
def vLat (i : Instr) : Nat := vLb i + vB i - 1

/-- Operations that need no reservation (06 R134). -/
def vFree (i : Instr) : Bool :=
  match i with
  | .pand _ | .por _ | .pxor _ | .pnot _ => true
  | _ => false

/-- An operation joins the pipe (06 R133, R134): the core cycle by which its results are there, or `none` where its intake waits for
the grant of the reservation or behind one that does. A reservation not held is asked for. -/
def State.intake (s : State) (i : Instr) : State × Option Nat :=
  let s := if vFree i then s else s.askVector
  let c := s.core
  if c.vpWait.isEmpty && (c.vpR.held != 0 || vFree i) then
    let st := max c.ccyc c.vpFree
    let rdy := st + vLat i
    (s.mapCore (fun c => { c with vpFree := st + vB i, vpLast := max c.vpLast rdy }), some rdy)
  else
    (s.mapCore (fun c => { c with vpWait := c.vpWait ++ [{ cid := c.ctx.cid, num := c.ctx.tlVp.issued + 1, b := vB i, lb := vLb i, need := !vFree i }] }), none)

/-! ### Reading the operands and writing the results -/

/-- A field as a block of values. -/
def State.vfield (s : State) (k : Nat) (kd : VKind) (v : BitVec 8) : List (List Vec) :=
  match kd with
  | .vec h w => s.rblock k v h w
  | _ => []

/-- A field as a scalar. -/
def State.sfield (s : State) (k : Nat) (kd : VKind) (v : BitVec 8) : Word :=
  match kd with
  | .scal => s.rs k (v.setWidth 6)
  | _ => 0

/-- A field as a predicate. -/
def State.pfield (s : State) (k : Nat) (kd : VKind) (v : BitVec 8) : Word :=
  match kd with
  | .pred => s.rp k v.toNat
  | _ => 0

/-- Operand values of slot V, all read at issue (04 R82). -/
def State.vin (s : State) (i : Instr) : VIn :=
  match vUse i with
  | none => {}
  | some (v, u) =>
    let t := srcTag .v
    { a := s.vfield (t 1) u.a v.a, b := s.vfield (t 2) u.b v.b
      c := (match i with
        | .vquant _ => []
        | _ => s.vfield (t 3) u.c v.c)
      pred := s.rp (t 4) v.pred.toNat
      sa := s.sfield (t 5) u.a v.a, sb := s.sfield (t 6) u.b v.b, sc := s.sfield (t 7) u.c v.c
      pa := s.pfield (t 8) u.a v.a, pb := s.pfield (t 9) u.b v.b, pc := s.pfield (t 10) u.c v.c }

/-- Puts a list of vector results into flight. -/
def State.putVs (s : State) (mask : Vec) (lat : Nat) (rdy : Option Nat) : List (Nat × Vec) → State
  | [] => s
  | (n, x) :: t =>
    State.putVs (s.push { dst := ⟨.v, physV s.core.ctx.f n⟩, val := x, mask := mask, iat := s.core.icyc, due := s.core.icyc + lat,
                          slot := .v, q := s.qOf .v, x := s.xOf .v, alts := [], unit := none, rdy := rdy, vpn := s.core.ctx.tlVp.issued }) mask lat rdy t

/-- Puts a list of predicate results into flight. -/
def State.putPs (s : State) (lat : Nat) (rdy : Option Nat) : List (Nat × Word) → State
  | [] => s
  | (n, x) :: t =>
    let s1 := s.push { dst := ⟨.p, physP s.core.ctx.f n⟩, val := x.setWidth 512, mask := BitVec.allOnes 512, iat := s.core.icyc,
                         due := s.core.icyc + lat, slot := .v, q := s.qOf .v, x := s.xOf .v, alts := [], unit := none, rdy := rdy, vpn := s.core.ctx.tlVp.issued }
    s1.putPs lat rdy t

/-- Rows of results with the logical numbers of their registers. -/
def numbered (org : BitVec 8) (rows : List (List Vec)) : List (Nat × Vec) :=
  (rows.mapIdx (fun r row => row.mapIdx (fun c x => (org.toNat + 16 * r + c, x)))).flatten

/-- The live bits that da clears (05 R113): every register of block a, at issue, or at c+L under Q. -/
def State.daClear (s : State) (i : Instr) : State :=
  match vUse i with
  | some (v, u) =>
    if v.da then
      match u.a with
      | .vec h w =>
        let regs := (blockRegs v.a h w).flatten.map (physV s.core.ctx.f)
        if s.qOf .v then s.mapFl (fun f => { f with das := f.das ++ [{ iat := s.core.icyc, due := s.core.icyc + vLat i, regs := regs }] })
        else s.mapRegs (fun r => { r with live := regs.foldl (fun t n => Tab.set false t n false) r.live })
      | _ => s
    else s
  | none => s

/-- The effect of an operation of slot V, given what it computes (06 R133, R136). -/
def State.vop (i : Instr) (f : VIn → VOut) (s : State) : State :=
  match vUse i with
  | none => s
  | some (v, _) =>
    let o := f (s.vin i)
    let lat := vLat i
    let (s1, rdy) := s.intake i
    let s2 := s1.mapCtx (fun x =>
      { x with tlVp := x.tlVp.take
               fl := { x.fl with vp := x.fl.vp ++ [{ num := x.tlVp.issued + 1, iat := s.core.icyc, due := s.core.icyc + lat, q := s.qOf .v }] } })
    let s3 := s2.putVs o.mask lat rdy (numbered v.d o.d)
    let s4 := s3.putVs (BitVec.allOnes 512) lat rdy (numbered v.c o.c)
    let s5 := s4.putPs lat rdy (o.p.mapIdx (fun j x => (v.d.toNat + j, x)))
    s5.daClear i

/-- The family of slot V: its faults come before issue as register drops and port and wake freezes, which the bundle's checks make. -/
def famVector : Family :=
  { fault := dropFault
    hold := fun i s =>
      match s.sleepBanks (srcBlocks i) with
      | [] => none
      | ks => some { cls := .wake, start := fun s => ks.foldl State.wakeRow s } }

/-- Issue of an operation of slot V: under Q its results land at c+L exactly, and nothing else waits. -/
def vIssue (i : Instr) (f : VIn → VOut) (s : State) : Host.Outcome State Fault Refusal :=
  if s.core.iss.checked then .next (s.vop i f)
  else
    match dropFault i s with
    | some t => .next (s.trapNow t)
    | none =>
      match famVector.hold i s with
      | some h => .next (s.holdFor h)
      | none => .next ((s.thaw).vop i f)

/-- `vadd` (06 R138). -/
def execVadd (v : VArgs) (s : State) : Host.Outcome State Fault Refusal := vIssue (.vadd v) (laneAdd v) s

/-- `vsub` (06 R138). -/
def execVsub (v : VArgs) (s : State) : Host.Outcome State Fault Refusal := vIssue (.vsub v) (laneSub v) s

/-- `vmul` (06 R138). -/
def execVmul (v : VArgs) (s : State) : Host.Outcome State Fault Refusal := vIssue (.vmul v) (laneMul v) s

/-- `vmin` (06 R138, 03 R60). -/
def execVmin (v : VArgs) (s : State) : Host.Outcome State Fault Refusal := vIssue (.vmin v) (laneMin v) s

/-- `vmax` (06 R138, 03 R60). -/
def execVmax (v : VArgs) (s : State) : Host.Outcome State Fault Refusal := vIssue (.vmax v) (laneMax v) s

/-- `vabs` (06 R138). -/
def execVabs (v : VArgs) (s : State) : Host.Outcome State Fault Refusal := vIssue (.vabs v) (laneAbs v) s

/-- `vneg` (06 R138). -/
def execVneg (v : VArgs) (s : State) : Host.Outcome State Fault Refusal := vIssue (.vneg v) (laneNeg v) s

/-- `vand` (06 R139). -/
def execVand (v : VArgs) (s : State) : Host.Outcome State Fault Refusal := vIssue (.vand v) (fun i => laneBits v i (· &&& ·)) s

/-- `vor` (06 R139). -/
def execVor (v : VArgs) (s : State) : Host.Outcome State Fault Refusal := vIssue (.vor v) (fun i => laneBits v i (· ||| ·)) s

/-- `vxor` (06 R139). -/
def execVxor (v : VArgs) (s : State) : Host.Outcome State Fault Refusal := vIssue (.vxor v) (fun i => laneBits v i (· ^^^ ·)) s

/-- `vnot` (06 R139). -/
def execVnot (v : VArgs) (s : State) : Host.Outcome State Fault Refusal := vIssue (.vnot v) (laneNot v) s

/-- `vshl` (06 R139). -/
def execVshl (v : VArgs) (s : State) : Host.Outcome State Fault Refusal := vIssue (.vshl v) (laneShl v) s

/-- `vshr` (06 R139). -/
def execVshr (v : VArgs) (s : State) : Host.Outcome State Fault Refusal := vIssue (.vshr v) (laneShr v) s

/-- `vsar` (06 R139). -/
def execVsar (v : VArgs) (s : State) : Host.Outcome State Fault Refusal := vIssue (.vsar v) (laneSar v) s

/-- `vsel` (06 R141). -/
def execVsel (v : VArgs) (s : State) : Host.Outcome State Fault Refusal := vIssue (.vsel v) (laneSel v) s

/-- `vexp2` (06 R143). -/
def execVexp2 (v : VArgs) (s : State) : Host.Outcome State Fault Refusal := vIssue (.vexp2 v) (laneFun Fmt.exp2 v) s

/-- `vlog2` (06 R143). -/
def execVlog2 (v : VArgs) (s : State) : Host.Outcome State Fault Refusal := vIssue (.vlog2 v) (laneFun Fmt.log2 v) s

/-- `vrcp` (06 R143). -/
def execVrcp (v : VArgs) (s : State) : Host.Outcome State Fault Refusal := vIssue (.vrcp v) (laneFun Fmt.rcp v) s

/-- `vrsq` (06 R143). -/
def execVrsq (v : VArgs) (s : State) : Host.Outcome State Fault Refusal := vIssue (.vrsq v) (laneFun Fmt.rsq v) s

/-- `vtanh` (06 R143). -/
def execVtanh (v : VArgs) (s : State) : Host.Outcome State Fault Refusal := vIssue (.vtanh v) (laneFun Fmt.tanh v) s

/-- `vperm` (06 R145). -/
def execVperm (v : VArgs) (s : State) : Host.Outcome State Fault Refusal := vIssue (.vperm v) (lanePerm v) s

/-- `vbcast` (06 R145). -/
def execVbcast (v : VArgs) (s : State) : Host.Outcome State Fault Refusal := vIssue (.vbcast v) (laneBcast v) s

/-- `vext` (06 R145). -/
def execVext (v : VArgs) (s : State) : Host.Outcome State Fault Refusal := vIssue (.vext v) (laneExt v) s

/-- `vins` (06 R145). -/
def execVins (v : VArgs) (s : State) : Host.Outcome State Fault Refusal := vIssue (.vins v) (laneIns v) s

/-- `vmov` (06 R141). -/
def execVmov (v : VArgs) (s : State) : Host.Outcome State Fault Refusal := vIssue (.vmov v) (laneMov v) s

/-- `vrot` (06 R145). -/
def execVrot (v : VArgs) (s : State) : Host.Outcome State Fault Refusal := vIssue (.vrot v) (laneRot v) s

/-- `vquant` (06 R147). -/
def execVquant (v : VArgs) (s : State) : Host.Outcome State Fault Refusal := vIssue (.vquant v) (laneQuant v) s

/-- `vdeq` (06 R148). -/
def execVdeq (v : VArgs) (s : State) : Host.Outcome State Fault Refusal := vIssue (.vdeq v) (laneDeq v) s

/-- `vdot` (06 R149). -/
def execVdot (v : VArgs) (s : State) : Host.Outcome State Fault Refusal := vIssue (.vdot v) (laneDot v) s

/-- `vsmx` (06 R150). -/
def execVsmx (v : VArgs) (s : State) : Host.Outcome State Fault Refusal := vIssue (.vsmx v) (laneSmx v) s

/-- `vpack` (06 R146). -/
def execVpack (v : VArgs) (s : State) : Host.Outcome State Fault Refusal := vIssue (.vpack v) (lanePack v) s

/-- `vunpk` (06 R146). -/
def execVunpk (v : VArgs) (s : State) : Host.Outcome State Fault Refusal := vIssue (.vunpk v) (laneUnpk v) s

/-- `pand` (06 R151). -/
def execPand (v : VArgs) (s : State) : Host.Outcome State Fault Refusal := vIssue (.pand v) (fun i => { p := [i.pa &&& i.pb] }) s

/-- `por` (06 R151). -/
def execPor (v : VArgs) (s : State) : Host.Outcome State Fault Refusal := vIssue (.por v) (fun i => { p := [i.pa ||| i.pb] }) s

/-- `pxor` (06 R151). -/
def execPxor (v : VArgs) (s : State) : Host.Outcome State Fault Refusal := vIssue (.pxor v) (fun i => { p := [i.pa ^^^ i.pb] }) s

/-- `pnot` (06 R151). -/
def execPnot (v : VArgs) (s : State) : Host.Outcome State Fault Refusal := vIssue (.pnot v) (fun i => { p := [~~~i.pa] }) s

/-- `ppopc` (06 R151). -/
def execPpopc (v : VArgs) (s : State) : Host.Outcome State Fault Refusal := vIssue (.ppopc v) (lanePopc v) s

/-- `vfma` (06 R138). -/
def execVfma (op : FmaOp) (v : VArgs) (s : State) : Host.Outcome State Fault Refusal := vIssue (.vfma op v) (laneFma op v) s

/-- `vcmp` (06 R140). -/
def execVcmp (op : CmpOp) (v : VArgs) (s : State) : Host.Outcome State Fault Refusal := vIssue (.vcmp op v) (laneCmp op v) s

/-- `vcvt` (06 R142). -/
def execVcvt (src : VTy) (v : VArgs) (s : State) : Host.Outcome State Fault Refusal := vIssue (.vcvt src v) (laneCvt src v) s

/-- `vred` (06 R144). -/
def execVred (op : RedOp) (v : VArgs) (s : State) : Host.Outcome State Fault Refusal := vIssue (.vred op v) (laneRed op v) s

/-- The results of an operation of slot V whose intake has begun, or of every one that waits, are there by a cycle, those that a trap holds
too. -/
def Ctx.intakeAt (x : Ctx) (num : Option Nat) (rdy : Nat) : Ctx :=
  let fix := fun (f : Flight) => { f with pend := f.pend.map (fun p =>
    if p.rdy.isNone && (num.isNone || num == some p.vpn) then { p with rdy := some rdy } else p) }
  { x with fl := fix x.fl, held := x.held.map (fun h => { h with fl := fix h.fl }) }

/-- VECTOR_INTAKE_START (06 R133, R134): the oldest operation that waits enters the pipe, where it needs no reservation or the pipe
holds it. -/
def State.intakeStart (s : State) : State :=
  match s.core.vpWait with
  | [] => s
  | w :: rest =>
    if w.need && s.core.vpR.held == 0 then s
    else
      let st := max s.core.ccyc s.core.vpFree
      let rdy := st + w.lb + w.b - 1
      s.mapCore (fun c =>
        { c.onOwner w.cid (fun x => x.intakeAt (some w.num) rdy) with vpWait := rest, vpFree := st + w.b, vpLast := max c.vpLast rdy })

def execVectorIntakeStart (s : State) : Host.Outcome State Fault Refusal := .next s.intakeStart

end Sys2Proof.Machine
end

