-- ==== Sys2Proof/Machine/Banks.lean ====
section
/-! DEFINITION. Bank instructions and wakes, the cluster's instruction cache, the invalidation of translations (spec 04 R92, R95, R96; 05 R111 to R114, R126, R127; 09 R215). -/

namespace Sys2Proof.Machine

/-! ### Vector banks (05 R126) -/

/-- A row driven to OFF: its registers are dead and their contents lost. -/
def Regs.rowOff (r : Regs) (row : Nat) : Regs :=
  { r with v := r.v.keep (fun k => k / 16 != row), live := r.live.keep (fun k => k / 16 != row), bank := Tab.set .off r.bank row .off }

/-- A row woken from OFF: zero contents, every register live. -/
def Regs.rowFresh (r : Regs) (row till : Nat) : Regs :=
  { r with v := r.v.keep (fun k => k / 16 != row)
           live := (List.range 16).foldl (fun t c => Tab.set false t (16 * row + c) true) r.live
           bank := Tab.set .off r.bank row (.waking till) }

/-- A register of a vector row. -/
def Dst.inRow (d : Dst) (row : Nat) : Bool := d.file == .v && d.reg / 16 == row

/-- A row put into RET or OFF. A result due in this cycle counts as landing behind the drop: what its landing did to the bank is undone
first, and it lands again (05 R114). -/
def State.dropRow (s : State) (off : Bool) (row : Nat) : State :=
  let again := s.core.ctx.fl.lately.filter (fun p => p.1.dst.inRow row)
  let was := again.head?.map (·.2)
  let s0 := if was == some .ret || was == some .off then s.mapCtr (fun c => { c with wakeN := c.wakeN - 1 }) else s
  let s1 := if off || was == some .off || s.vbank row == .off then s0.mapRegs (fun r => r.rowOff row) else s0
  let s2 := if off then s1 else s1.mapRegs (fun r => { r with bank := Tab.set .off r.bank row .ret })
  let s2 := s2.mapFl (fun f => { f with lately := f.lately.map (fun p => if p.1.dst.inRow row then (p.1, if off then .off else .ret) else p) })
  again.foldl (fun s p => s.putFile p.1.dst p.1.val p.1.mask) s2

/-- The state of a row without the results of this cycle, which count as landing behind what a bank instruction does (05 R114). -/
def State.rowWas (s : State) (row : Nat) : Bank :=
  ((s.core.ctx.fl.lately.find? (fun p => p.1.dst.inRow row)).map (·.2)).getD (s.vbank row)

/-- One row put into a state by `bank.vec`, which leaves an OFF row OFF under `ret` (05 R126): a result that is due wakes it, as its landing
has done. -/
def State.setRow (s : State) (st : BankSt) (row : Nat) : State :=
  match st, (if st = .ret then s.rowWas row else s.vbank row) with
  | .full, .ret => s.wakeRow row
  | .full, .off => (s.mapRegs (fun r => r.rowFresh row (s.core.ccyc + 8))).mapCtr (fun c => { c with wakeN := c.wakeN + 1 })
  | .full, _ => s
  | .ret, .off => s
  | .ret, _ => s.dropRow false row
  | .off, _ => s.dropRow true row

/-- Every row of a mask. -/
def rowsOf (mask : Nat) : List Nat := (List.range 16).filter (tbit mask)
def State.setRows (s : State) (st : BankSt) (mask : Nat) : State := (rowsOf mask).foldl (fun s row => s.setRow st row) s

/-- The header drop: the named rows enter RET or OFF, whatever they were in (02 R30, R31). -/
def State.dropRows (s : State) (off : Bool) (mask : Nat) : State := (rowsOf mask).foldl (fun s row => s.dropRow off row) s

/-- `bank.vec` (05 R126). -/
def execBankVec (st : BankSt) (rows : BitVec 16) (s : State) : Host.Outcome State Fault Refusal :=
  issue {} (.bankVec st rows) (fun _ => 1) (fun s => s.setRows st rows.toNat) s

/-- The all-dead rule (05 R113): a FULL or RET row whose registers are all dead, with no write in flight, enters OFF. A write that a trap holds
is in flight (16 R379). -/
def State.deadRows (s : State) : State :=
  let r := s.core.ctx.r
  let fls := s.core.ctx.flights
  let busy := fun row => fls.any (fun fl => fl.pend.any (fun p => p.dst.inRow row && !p.x)
    || fl.defer.any (fun d => !d.x && d.dests.any (·.inRow row)))
  let rows := (List.range 16).filter (fun row => (match s.vbank row with
    | .full | .ret => true
    | _ => false) && (List.range 16).all (fun c => !Tab.get false r.live (16 * row + c)) && !busy row)
  rows.foldl (fun s row => s.mapRegs (fun r => r.rowOff row)) s

/-! ### Buffer banks (05 R126, R127) -/

/-- Code of a buffer space. -/
def bufSpCode : BufSp → Nat
  | .w => spW
  | .a => spA
  | .c => spC
  | .p => spP

/-- Some byte of a bank lies in another partition's share of the cluster's cores (05 R127, 01 R21). -/
def State.bankShared (s : State) (sp b : Nat) : Bool :=
  (List.range 4).any (fun q =>
    q != s.part && tbit s.cluster.owner q &&
      (match fixedHandle sp with
       | some h =>
         let e := s.hEnt s.station q h
         hValid e && decide (hBase e < 262144 * (b + 1)) && decide (262144 * b < hBase e + hBound e)
       | none => false))

/-- The faults of `bank.buf` (05 R127). -/
def bankFaultOf (i : Instr) (s : State) : Option TrapInfo :=
  match i with
  | .bankBuf _ sp mask =>
    let bs := (List.range 16).filter (tbit mask.toNat)
    let c := bufSpCode sp
    if bs.any (s.bankShared c) then some { code := cBankShare, part := 4 }
    else if bs.any (fun b => s.core.owned.contains (groupOf c b)) then some { code := cBankConflict, part := 4 }
    else none
  | _ => none

/-- One buffer bank put into a state. -/
def State.setBuf (s : State) (st : BankSt) (sp b : Nat) : State :=
  let k := s.cix
  let lo := rBuf k sp + 262144 * b
  let put := fun (s : State) (x : Bank) => s.mapCore (fun c => { c with bbs := Tab.set .full c.bbs (bbKey sp b) x })
  match st, s.core.bank sp b with
  | .full, .full | .full, .waking _ => s
  | .full, _ => s.wakeBuf k sp b
  | .ret, .off => s
  | .ret, _ => put s .ret
  | .off, _ =>
    put { s with mem := Tab.keep s.mem (fun a => !(decide (lo ≤ a) && decide (a < lo + 262144)))
                 chk := Tab.keep s.chk (fun w => !(decide (lo / 8 ≤ w) && decide (w < (lo + 262144) / 8))) } .off

/-- `bank.buf` (05 R126, R127). -/
def execBankBuf (st : BankSt) (sp : BufSp) (banks : BitVec 16) (s : State) : Host.Outcome State Fault Refusal :=
  issue { fault := bankFaultOf } (.bankBuf st sp banks) (fun _ => 1) (fun s =>
    ((List.range 16).filter (tbit banks.toNat)).foldl (fun s b => s.setBuf st (bufSpCode sp) b) s) s

/-- Banks whose wake is over are FULL. -/
def wakesOver (now : Nat) (t : Tab Bank) (dflt : Bank) : Tab Bank :=
  (t.map (fun p => (p.1, p.2.at now))).filter (fun p => p.2 != dflt)

/-- BANK_WAKE_END (05 R112): every wake of the core that has run its cycles ends. -/
def State.endWakes (s : State) : State :=
  s.mapCore (fun c => { c with bbs := wakesOver c.ccyc c.bbs .full,
                               ctx := { c.ctx with r := { c.ctx.r with bank := wakesOver c.ccyc c.ctx.r.bank .off } } })

def execBankWakeEnd (s : State) : Host.Outcome State Fault Refusal := .next s.endWakes

/-! ### Fetch (04 R92, R95, R96, R104) -/

/-- Key of a fetch block in a cluster's cache: partition, handle, block. -/
def lineKey (part h block : Nat) : Nat := (4096 * part + h) * 2 ^ 42 + block

/-- A fault of a fetch at an address of the code region (04 R92). -/
def State.fetchFault (s : State) (pc : Nat) : Bool :=
  (checkEnt (s.hEnt s.station s.part s.core.ctx.f.codeh.toNat) .core s.part (put s.core.ctx.f.codeh.toNat 52 + pc / 64 * 64) 64 true false
    [spD, spG]).isSome

/-- Where the 64 bytes of a block lie: nowhere that can be read, at a page whose translation is missing, or under these keys (04 R92; 09 R205). -/
def State.blockKeys (s : State) (block : Nat) : TrB :=
  let h := s.core.ctx.f.codeh.toNat
  let e := s.hEnt s.station s.part h
  if s.fetchFault (64 * block) then .bad cFetch
  else if hSpace e = spG then trBytes (fun a => s.translateQ s.cix s.part a true false spG) spG (hBase e + 64 * block) 64
  else .ok (keysFrom (rD s.station + s.regionBase s.station s.part h e + 64 * block) 64)

/-- A translation is missing for a block. -/
def State.blockWalks (s : State) (block : Nat) : Bool :=
  match s.blockKeys block with
  | .miss _ => true
  | _ => false

/-- The walk of a page for fetch (09 R212, R213). -/
def State.fetchWalk (s : State) (va : Nat) (ahead : Bool) : Walk :=
  { core := s.cix, part := s.part, va := va, rd := true, wr := false, space := spG, ahead := ahead }

/-- The 64 bytes of a block: none where they cannot be read, where a word of them is uncorrectable (16 R393), or where they wait for a walk. -/
def State.blockBytes (s : State) (block : Nat) : State × Option (BitVec 512) :=
  let x := s.core.ctx
  match s.blockKeys block with
  | .bad _ => (s, none)
  | .miss va => (s.askWalk (s.fetchWalk va false), none)
  | .ok ks =>
    let s2 := s.consume ks (hSpace (s.hEnt s.station s.part x.f.codeh.toNat)) (put x.f.codeh.toNat 52 + 64 * block) x.phase
    if s.fails s2 then (s2, none) else (s2, some (BitVec.ofNat 512 (leNat (s2.rdKeys ks))))

/-- Ways and sets of a cluster's cache, and the set that holds a line (04 R95). -/
def icacheWays : Nat := 8
def icacheSets : Nat := 1024
def lineSet (key : Nat) : Nat := key % icacheSets

/-- A line enters its set of the cache; which line of a full set makes room is not specified (04 R95). -/
def State.putLine (s : State) (key : Nat) (v : BitVec 512) : State :=
  s.updCluster s.cl (fun c =>
    let set := c.lines.filter (fun l => lineSet l.1 == lineSet key && l.1 != key)
    let gone := if set.length < icacheWays then none else (set[Config.freeNat s.free 0xCAC4E % set.length]?).map (·.1)
    { c with lines := Tab.set none (Tab.keep c.lines (fun k => some k != gone)) key (some v) })

/-- A block of the running context is brought in, if it is absent and readable; true where it is then there. -/
def State.fill (s : State) (block : Nat) : State × Bool :=
  let key := lineKey s.part s.core.ctx.f.codeh.toNat block
  if (Tab.get none s.cluster.lines key).isSome then (s, true)
  else
    match s.blockBytes block with
    | (s1, some v) => (s1.putLine key v, true)
    | (s1, none) => (s1, false)

/-- A block asked for ahead: it comes in, waits for its page's walk, or is dropped, as it is where its walk found nothing or another context
runs. It never faults, and an uncorrectable word in it is consumed by nothing (04 R104; 16 R390). -/
def State.ahead1 (s : State) (a : Ahead) : State :=
  if lineKey s.part s.core.ctx.f.codeh.toNat a.block ≠ a.key then s
  else
    match s.blockKeys a.block with
    | .miss va =>
      let w := s.fetchWalk va true
      if a.asked = some va ∧ !s.walks.contains w then s
      else
        let s1 := s.askWalk w
        s1.mapCore (fun c => { c with ahead := c.ahead ++ [{ a with asked := if s1.walks.contains w then some va else none }] })
    | _ => ((s.fill a.block).1).mapCore (fun c => { c with err := s.core.err, errq := s.core.errq })

/-- Every block asked for ahead. -/
def State.aheadWork (s : State) : State := s.core.ahead.foldl State.ahead1 (s.mapCore (fun c => { c with ahead := [] }))

/-- ICACHE_FILL: the block of the next bundle. -/
def execIcacheFill (s : State) : Host.Outcome State Fault Refusal := .next (s.fill (s.core.ctx.f.pc / 64)).1

/-- A flush of the writer's partition starts, or joins the one that runs (04 R96). -/
def State.startFlush (s : State) : State :=
  s.updCluster s.cl (fun c => { c with flush := some ((c.flush.getD 0) ||| 2 ^ s.part) })

/-- ICFL_WRITE (04 R96): BUSY written as 1. -/
def execIcflWrite (s : State) : Host.Outcome State Fault Refusal := .next s.startFlush

/-- Partition of a line. -/
def linePart (key : Nat) : Nat := key / 2 ^ 42 / 4096

/-- ICACHE_FLUSH_DONE: the lines of the partitions being flushed are gone. -/
def State.flushDone (s : State) : State :=
  s.updCluster s.cl (fun c => match c.flush with
    | some m => { c with flush := none, lines := Tab.keep c.lines (fun k => !tbit m (linePart k)) }
    | none => c)

def execIcacheFlushDone (s : State) : Host.Outcome State Fault Refusal := .next s.flushDone

/-! ### Translations (09 R215) -/

/-- An invalidation of the writer's partition starts or joins the one that runs. -/
def State.startTlbInv (s : State) (all : Bool) : State :=
  let page := (fld (Tab.get 0 s.tlbflVa s.cix) 16 40)
  { s with tlbflAll := Tab.set false s.tlbflAll s.cix all, tlbinv := s.tlbinv ++ [(s.part, if all then none else some page)] }

/-- TLBFL_WRITE (09 R215): BUSY written as 1. -/
def execTlbflWrite (all : Bool) (s : State) : Host.Outcome State Fault Refusal := .next (s.startTlbInv all)

/-- TLB_INVALIDATE_DONE: on every die, the translations and queued walks that the invalidation covers are gone. -/
def State.tlbInvDone (s : State) : State :=
  let hit := fun (part va size : Nat) => s.tlbinv.any (fun w => w.1 == part && (match w.2 with
    | none => true
    | some p => decide (va ≤ 65536 * p) && decide (65536 * p < va + size)))
  { s with tlb := s.tlb.filter (fun t => !hit t.part t.va t.size)
           walks := s.walks.filter (fun w => !hit w.part (w.va / 65536 * 65536) 65536)
           tlbinv := [] }

def execTlbInvalidateDone (s : State) : Host.Outcome State Fault Refusal := .next s.tlbInvDone

end Sys2Proof.Machine
end

