-- ==== Sys2Proof/Machine/Branch.lean ====
section
/-! DEFINITION. Control flow: branches, calls, hardware loops, status branches, phase marks, prefetch (spec 04 R92 to R104; 16 R388). -/

namespace Sys2Proof.Machine

/-- Index of the fetch block of the bundle being issued. -/
def State.own (s : State) : Nat := s.core.ctx.f.pc / 64

/-- Bytes of the code space. -/
def codeSpace : Nat := 2 ^ 48

/-- Address of the block at a displacement (02 R36). -/
def State.blockAt (s : State) (disp : Int) : Nat := (((s.own : Int) + disp) % ((2 ^ 42 : Nat) : Int)).toNat * 64

/-- Control passes to a target `n` issue cycles later (04 R94). A branch squashes; `loop.end` does not (R87, R101). -/
def State.transfer (s : State) (target n : Nat) (sq : Bool) : State :=
  let s1 := if sq then s.squash else s
  (s1.mapCore (fun c => { c with iss := { c.iss with taken := some n }, ctr := { c.ctr with tknN := c.ctr.tknN + 1 } })).mapFlow
    (fun f => { f with pc := target % codeSpace, highPc := target / codeSpace, skip := none })

/-- A taken branch. -/
def State.branch (s : State) (target : Nat) : State := s.transfer target 3 true

/-- A branch whose condition is known. -/
def brIssue (i : Instr) (cond : State → Bool) (target : State → Nat) (s : State) : Host.Outcome State Fault Refusal :=
  issue {} i (fun _ => 1) (fun s => if cond s then s.branch (target s) else s) s

/-- A scalar source of slot B. -/
def State.rb (s : State) (r : Reg) : Word := s.rs (srcTag .b 0) r

/-- `br.z` (04 R97). -/
def execBrZ (r : Reg) (disp : BitVec 19) (s : State) : Host.Outcome State Fault Refusal :=
  brIssue (.brZ r disp) (fun s => s.rb r == 0) (fun s => s.blockAt disp.toInt) s

/-- `br.nz` (04 R97). -/
def execBrNz (r : Reg) (disp : BitVec 19) (s : State) : Host.Outcome State Fault Refusal :=
  brIssue (.brNz r disp) (fun s => s.rb r != 0) (fun s => s.blockAt disp.toInt) s

/-- Bits of a predicate that a width code selects (04 R97). -/
def brpMask (w : BitVec 2) : Word := if w = 0 then BitVec.allOnes 64 else if w = 1 then 0xFFFFFFFF else 0xFFFF

/-- A predicate source of slot B. -/
def State.pb (s : State) (p : Reg) : Word := s.rp (srcTag .b 1) p.toNat

/-- `brp.any` (04 R97). -/
def execBrpAny (p : Reg) (w : BitVec 2) (disp : BitVec 16) (s : State) : Host.Outcome State Fault Refusal :=
  brIssue (.brpAny p w disp) (fun s => s.pb p &&& brpMask w != 0) (fun s => s.blockAt disp.toInt) s

/-- `brp.all` (04 R97). -/
def execBrpAll (p : Reg) (w : BitVec 2) (disp : BitVec 16) (s : State) : Host.Outcome State Fault Refusal :=
  brIssue (.brpAll p w disp) (fun s => s.pb p &&& brpMask w == brpMask w) (fun s => s.blockAt disp.toInt) s

/-- `brp.none` (04 R97). -/
def execBrpNone (p : Reg) (w : BitVec 2) (disp : BitVec 16) (s : State) : Host.Outcome State Fault Refusal :=
  brIssue (.brpNone p w disp) (fun s => s.pb p &&& brpMask w == 0) (fun s => s.blockAt disp.toInt) s

/-- `jmp` (04 R97). -/
def execJmp (disp : BitVec 26) (s : State) : Host.Outcome State Fault Refusal :=
  brIssue (.jmp disp) (fun _ => true) (fun s => s.blockAt disp.toInt) s

/-- The link: the block after the call's block (04 R98). -/
def State.link (s : State) : State := s.setS .b 63 (BitVec.ofNat 64 ((s.own + 1) * 64)) 1

/-- `call` (04 R97, R98). -/
def execCall (disp : BitVec 26) (s : State) : Host.Outcome State Fault Refusal :=
  issue {} (.call disp) (fun _ => 1) (fun s => s.link.branch (s.blockAt disp.toInt)) s

/-- Target register of a register-held branch. -/
def targetReg : Instr → Option Reg
  | .jmpr r | .callr r => some r
  | .ret => some 63
  | _ => none

/-- The alignment trap of a register-held target (02 R34, 04 R98). -/
def alignFault (i : Instr) (s : State) : Option TrapInfo :=
  match targetReg i with
  | some r => if (s.rb r).toNat % 64 ≠ 0 then some { code := cAlign, part := 1, addr := (s.rb r).toNat } else none
  | none => none

def famJump : Family := { fault := alignFault }

/-- `jmpr` (04 R97, R98). -/
def execJmpr (r : Reg) (s : State) : Host.Outcome State Fault Refusal :=
  issue famJump (.jmpr r) (fun _ => 1) (fun s => s.branch (s.rb r).toNat) s

/-- `callr` (04 R97, R98): the target is read before the link is written. -/
def execCallr (r : Reg) (s : State) : Host.Outcome State Fault Refusal :=
  issue famJump (.callr r) (fun _ => 1) (fun s => s.link.branch (s.rb r).toNat) s

/-- `ret` (04 R97). -/
def execRet (s : State) : Host.Outcome State Fault Refusal :=
  issue famJump .ret (fun _ => 1) (fun s => s.branch (s.rb 63).toNat) s

/-! ### Status branches (04 R99) -/

/-- The access to the status word of the last visible slot; `none` where the word reads zero. -/
def State.tsbAccess (s : State) (cb : BitVec 4) : Option (Nat × Access) :=
  let d := s.core.ctx.cbk cb.toNat
  if !d.seen || d.trl == 0 then none else some (d.trailer d.last, s.access (d.trailer d.last) 8 true false [spW, spA, spC, spP])

/-- The word's flags. -/
def State.tsbBits (s : State) (cb : BitVec 4) : BitVec 6 :=
  match s.tsbAccess cb with
  | some (_, a) => BitVec.ofNat 6 (leNat (s.rdKeys a.keys))
  | none => 0

def tsbCb : Instr → Option (BitVec 4)
  | .tsbAny cb .. | .tsbNone cb .. => some cb
  | _ => none

def tsbFault (i : Instr) (s : State) : Option TrapInfo :=
  match (tsbCb i).bind s.tsbAccess with
  | some (ha, a) =>
    (match a with
     | .fault c => some c
     | a => if s.anyOff a.keys then some cBufDrop else if s.conflict a.keys then some cBankConflict else none).map
      (fun c => accessTrap .b c ha)
  | none => none

def tsbHold (i : Instr) (s : State) : Option Hold :=
  match (tsbCb i).bind s.tsbAccess with
  | some (_, a) => if s.anyAsleep a.keys then some { cls := .wake, start := fun s => s.startWakes a.keys } else none
  | none => none

def famTsb : Family := { fault := tsbFault, hold := tsbHold }

/-- The read of the status word: corrections are made, an uncorrectable word is reported. -/
def State.tsbRead (s : State) (cb : BitVec 4) : State :=
  match s.tsbAccess cb with
  | some (ha, a) => s.consume a.keys (s.spaceOf ha) ha s.core.ctx.phase
  | none => s

/-- `tsb.any` (04 R99). -/
def execTsbAny (cb : BitVec 4) (mask : BitVec 6) (disp : BitVec 15) (s : State) : Host.Outcome State Fault Refusal :=
  issue famTsb (.tsbAny cb mask disp) (fun _ => 1) (fun s =>
    let s1 := s.tsbRead cb
    if s1.tsbBits cb &&& mask != 0 then s1.branch (s1.blockAt disp.toInt) else s1) s

/-- `tsb.none` (04 R99). -/
def execTsbNone (cb : BitVec 4) (mask : BitVec 6) (disp : BitVec 15) (s : State) : Host.Outcome State Fault Refusal :=
  issue famTsb (.tsbNone cb mask disp) (fun _ => 1) (fun s =>
    let s1 := s.tsbRead cb
    if s1.tsbBits cb &&& mask == 0 then s1.branch (s1.blockAt disp.toInt) else s1) s

/-! ### Hardware loops (04 R100 to R102) -/

/-- The bundle being issued is the second of its block. -/
def State.secondBundle (s : State) : Bool := s.core.ctx.f.pc / 32 % 2 == 1

/-- A loop counter set; with a count of 0 the body is skipped after the block's last bundle. -/
def State.loopSet (s : State) (l : BitVec 2) (count : Nat) (off : Nat) : State :=
  let target := (s.own + off + 1) * 64 % codeSpace
  let s1 := (s.mapRegs (fun r => { r with l := Tab.set 0 r.l l.toNat (BitVec.ofNat 32 count) })).mapFlow
    (fun f => { f with ls := Tab.set 0 f.ls l.toNat ((s.own + 1) * 64 % codeSpace) })
  if count ≠ 0 then s1
  else if s.secondBundle then s1.branch target
  else s1.mapFlow (fun f => { f with skip := some target })

/-- `loop.set` (04 R100). -/
def execLoopSet (l : BitVec 2) (r : Reg) (off : BitVec 18) (s : State) : Host.Outcome State Fault Refusal :=
  issue {} (.loopSet l r off) (fun _ => 1) (fun s => s.loopSet l ((s.rb r).toNat % 2 ^ 32) off.toNat) s

/-- `loop.seti` (04 R100). -/
def execLoopSeti (l : BitVec 2) (count off : BitVec 12) (s : State) : Host.Outcome State Fault Refusal :=
  issue {} (.loopSeti l count off) (fun _ => 1) (fun s => s.loopSet l count.toNat off.toNat) s

/-- The rotation of `loop.end` (04 R101). -/
def Flow.rotate (f : Flow) : Flow :=
  let n := 16 - f.rotlo
  { f with rotb := if n = 0 then f.rotb else (f.rotb + n - 1) % n }

/-- `loop.end` (04 R101). -/
def State.loopEnd (s : State) (l : BitVec 2) : State :=
  let v := Tab.get 0 s.core.ctx.r.l l.toNat - 1
  let s1 := (s.mapRegs (fun r => { r with l := Tab.set 0 r.l l.toNat v })).mapFlow Flow.rotate
  if v ≠ 0 then s1.transfer (Tab.get 0 s.core.ctx.f.ls l.toNat) 1 false else s1

def execLoopEnd (l : BitVec 2) (s : State) : Host.Outcome State Fault Refusal :=
  issue {} (.loopEnd l) (fun _ => 1) (fun s => s.loopEnd l) s

/-! ### Phase marks and prefetch (04 R103, R104; 16 R388) -/

/-- A register whose write is due later is captured undefined. -/
def State.snapReg (s : State) (file : RFile) (n : Nat) (v : Word) : Word :=
  let fl := s.core.ctx.fl
  if fl.pend.any (fun p => p.dst == ⟨file, n⟩ && decide (s.core.icyc < p.due)) || fl.defer.any (fun d => d.dests.contains ⟨file, n⟩) then
    Config.freeWord s.free (0x51A9000 + 64 * (if file = .p then 1 else 0) + n) else v

/-- Entries of a register file as a snapshot takes them. -/
def State.snapFile (s : State) (file : RFile) (t : Tab Word) : Tab Word :=
  (List.range 64).foldl (fun u n => Tab.set 0 u n (s.snapReg file n (Tab.get 0 t n))) []

/-- The snapshot of a restart point (16 R388). -/
def State.snapshot (s : State) : Snap :=
  let r := s.core.ctx.r
  let f := s.core.ctx.f
  { s := s.snapFile .s r.s, l := r.l, p := s.snapFile .p r.p, ls := f.ls, rotlo := f.rotlo, rotb := f.rotb }

/-- The current phase takes a restart point, if it has none (16 R388). -/
def State.restartPoint (s : State) (pc : Nat) : State :=
  let x := s.core.ctx
  if x.phases.any (fun p => p.idx == x.phase) then s
  else
    let p : Phase := { idx := x.phase, restart := some pc, cyc := s.core.icyc, confirmAt := s.bundleNo, snap := some s.snapshot }
    s.mapCtx (fun x => { x with phases := x.phases ++ [p] })

/-- `phmark` (04 R103, 16 R388). -/
def execPhmark (disp : BitVec 26) (s : State) : Host.Outcome State Fault Refusal :=
  issue {} (.phmark disp) (fun _ => 1) (fun s =>
    let pc := s.blockAt disp.toInt
    (s.restartPoint pc).mapFlow (fun f => { f with phpc := pc })) s

/-- A block is asked for ahead, unless it is there (04 R104). -/
def State.prefetch1 (s : State) (block : Nat) : State :=
  let key := lineKey s.part s.core.ctx.f.codeh.toNat block
  if (Tab.get none s.cluster.lines key).isSome then s else s.ahead1 { block := block, key := key }

/-- Blocks brought in ahead. -/
def State.prefetch (s : State) (block : Nat) : Nat → State
  | 0 => s
  | n + 1 => (s.prefetch1 block).prefetch ((block + 1) % 2 ^ 42) n

/-- `ipf` (04 R104). -/
def execIpf (n : BitVec 4) (disp : BitVec 22) (s : State) : Host.Outcome State Fault Refusal :=
  issue {} (.ipf n disp) (fun _ => 1) (fun s => s.prefetch (s.blockAt disp.toInt / 64) (n.toNat + 1)) s

end Sys2Proof.Machine
end

