-- ==== Sys2Proof/Machine/Shake.lean ====
section
/-! DEFINITION. SHAKE256, which the digests of recovery records and context images use (spec 16 R394, 17 R409): the extendable-output function of FIPS 202, PRESUMED from that standard (log 8). -/

namespace Sys2Proof.Machine

/-- Rotation offsets of the 25 lanes, lane x + 5 * y. -/
def keccakRot : List Nat := [0, 1, 62, 28, 27, 36, 44, 6, 55, 20, 3, 10, 43, 25, 39, 41, 45, 15, 21, 8, 18, 2, 61, 56, 14]

/-- Round constants. -/
def keccakRc : List Word :=
  [0x0000000000000001, 0x0000000000008082, 0x800000000000808A, 0x8000000080008000, 0x000000000000808B, 0x0000000080000001,
   0x8000000080008081, 0x8000000000008009, 0x000000000000008A, 0x0000000000000088, 0x0000000080008009, 0x000000008000000A]
  ++ [0x000000008000808B, 0x800000000000008B, 0x8000000000008089, 0x8000000000008003, 0x8000000000008002, 0x8000000000000080,
   0x000000000000800A, 0x800000008000000A, 0x8000000080008081, 0x8000000000008080, 0x0000000080000001, 0x8000000080008008]

/-- A lane. -/
def lane (a : List Word) (i : Nat) : Word := a.getD i 0

/-- One round: theta, rho, pi, chi, iota. -/
def keccakRound (a : List Word) (rc : Word) : List Word :=
  let c := (List.range 5).map (fun x => lane a x ^^^ lane a (x + 5) ^^^ lane a (x + 10) ^^^ lane a (x + 15) ^^^ lane a (x + 20))
  let d := (List.range 5).map (fun x => lane c ((x + 4) % 5) ^^^ (lane c ((x + 1) % 5)).rotateLeft 1)
  let r := (List.range 25).map (fun i => (lane a i ^^^ lane d (i % 5)).rotateLeft (keccakRot.getD i 0))
  -- lane (x, y) of the permuted state comes from lane (x + 3y, x) of the rotated one
  let b := (List.range 25).map (fun i => let x := i % 5; let y := i / 5; lane r ((x + 3 * y) % 5 + 5 * x))
  (List.range 25).map (fun i =>
    let x := i % 5
    let y := 5 * (i / 5)
    let v := lane b i ^^^ (~~~(lane b ((x + 1) % 5 + y)) &&& lane b ((x + 2) % 5 + y))
    if i = 0 then v ^^^ rc else v)

/-- The permutation. -/
def keccakF (a : List Word) : List Word := keccakRc.foldl keccakRound a

/-- A block of 136 bytes absorbed. -/
def absorb (a : List Word) (blk : List Byte) : List Word :=
  keccakF (a.mapIdx (fun i v => if i < 17 then v ^^^ BitVec.ofNat 64 (((blk.drop (8 * i)).take 8).foldr (fun b n => b.toNat + 256 * n) 0) else v))

/-- All blocks of a message; the last is padded with 1111, the padding's first 1 and its last 1. -/
def absorbAll (a : List Word) (m : List Byte) : Nat → List Word
  | 0 => a
  | f + 1 =>
    if m.length < 136 then
      let p := m ++ (0x1F : Byte) :: List.replicate (135 - m.length) 0
      absorb a (p.mapIdx (fun i b => if i = 135 then b ||| 0x80 else b))
    else absorbAll (absorb a (m.take 136)) (m.drop 136) f

/-- The first 128 bits of SHAKE256 over a message. -/
def shake128 (m : List Byte) : Nat :=
  let a := absorbAll (List.replicate 25 0) m (m.length / 136 + 1)
  (lane a 0).toNat + (lane a 1).toNat * 2 ^ 64

end Sys2Proof.Machine
end

