-- ==== Sys2Proof/Machine/Csr.lean ====
section
/-! DEFINITION. Control and status registers: what each number reads and how it is written (spec 04 R91, R96; 05 R117 to R119; 09 R215, R221; 11 R283; 12 R313; 13 R343; 15 R373; 16 R383, R388, R393; 17 R411, R412). -/

namespace Sys2Proof.Machine

/-! ### Views -/

/-- VBS and BBS: two bits for each bank (05 R111, R118). -/
def bankCode : Bank → Nat
  | .full => 0
  | .ret | .waking _ => 1
  | .off => 2

def State.vbs (s : State) : Nat := ((List.range 16).map (fun r => put (bankCode (s.vbank r)) (2 * r))).foldl (· + ·) 0
def State.bbsWord (s : State) (sp n : Nat) : Nat := ((List.range n).map (fun b => put (bankCode (s.core.bank sp b)) (2 * b))).foldl (· + ·) 0

/-- VLIVEk (05 R113). -/
def Regs.liveWord (r : Regs) (k : Nat) : Nat := ((List.range 64).map (fun j => put (bit (Tab.get false r.live (64 * k + j))) j)).foldl (· + ·) 0

/-- Stations that the ring runs through, in ascending number: those the sluice does not pass (11 R279). -/
def Ring.stations (r : Ring) : List Nat := (List.range 32).filter (fun n => !tbit r.bridged n)

/-- Stations in service: those that are not fenced (01 R15). -/
def Ring.inService (r : Ring) : List Nat := (List.range 32).filter (fun n => !tbit r.fenced n)

/-- Position of a station on a race (11 R259): 0 E, 1 W. Position 0 is the origin on both. -/
def Ring.posOf (r : Ring) (race st : Nat) : Nat :=
  let l := r.stations
  let i := (l.findIdx? (· == st)).getD 0
  if race = 0 then i else (l.length - i) % l.length

/-- RING.CFG of a station. -/
def State.ringCfg (s : State) (st : Nat) : Nat :=
  let r := s.ring
  r.pe % 2 ^ 14 + put (r.pw % 2 ^ 14) 16 + put r.stations.length 32 + put (r.posOf 0 st) 40 + put (r.posOf 1 st) 48 + put (bit r.transE) 56
    + put (bit r.transW) 57

/-- The launch core of a partition on a die: the lowest-numbered core of the clusters that it holds alone (12 R312). -/
def State.launchCore (s : State) (st part : Nat) : Option Nat :=
  ((List.range 6).find? (fun c => (Tab.get {} s.clusters (6 * st + c)).owner == 2 ^ part)).map (fun c => 8 * (6 * st + c))

/-- The core in focus is a launch core (16 R383, R397). -/
def State.isLaunchCore (s : State) : Bool := (List.range 4).any (fun p => s.launchCore s.station p == some s.cix)

/-- CTX.STAT (16 R383). -/
def State.ctxStat (s : State) : Nat :=
  let h := s.core.shadow
  (match h.st with
   | .empty => 0
   | .full => 1
   | .filling => 2
   | .spilling => 3)
  + put (bit h.slotv) 2 + put (bit s.isLaunchCore) 3 + put (match h.bank with
    | some x => x.f.part % 4
    | none => 0) 4 + put (h.fres % 16) 6

/-- PHC (16 R388): the confirmed restart point of the current phase, and the phases that are not committed. -/
def Core.phc (c : Core) : Nat :=
  let x := c.ctx
  let p := x.phases.find? (fun p => p.idx == x.phase && p.restart.isSome && decide (p.confirmAt ≤ c.checked))
  (match p with
   | some p => (p.restart.getD 0) % 2 ^ 48 + put 1 48
   | none => 0) + put (min 4 x.openPhases) 49

/-- The entry that RQ.SEL names, as the running partition sees it: an entry of another partition shows as an empty one (12 R313). -/
def State.rqView (s : State) (r : Nat) : Req :=
  let e := (s.die s.station).req r
  if e.part = s.part then e else {}

/-- RQ.VIEW0. -/
def Req.view0 (e : Req) : Nat :=
  e.tag % 2 ^ 16 + put (e.state % 8) 16 + put (e.part % 4) 22 + put (e.cls % 16) 24 + put (e.missed % 256) 32 + put (e.sibg % 256) 40

/-- QUIET (12 R305). -/
def State.quiet (s : State) (st part : Nat) : Bool := (s.dpart st part).open_ == 0 && !((s.die st).lists.any (fun l => l.part == part))

/-- TERM.STAT. -/
def State.termStat (s : State) (st part : Nat) : Nat :=
  (s.dpart st part).open_ % 2 ^ 16 + put (bit (s.quiet st part)) 16 + put ((s.dpart st part).qepoch % 2 ^ 32) 32

/-- SEG.PINS (11 R283). -/
def Ctx.pinsWord (x : Ctx) : Nat :=
  ((List.range 4).map (fun i => match Tab.get none x.pins i with
    | some p => put (p.slot + 2 ^ 15) (16 * i)
    | none => 0)).foldl (· + ·) 0

/-- The parked copy of the running context that CP.SEL names (09 R221). -/
def State.selCopy (s : State) : Option Copy :=
  s.core.copies.find? (fun k => k.owner == s.core.ctx.cid && k.park.isSome && k.num == s.core.ctx.csr.cpSel.toNat)

/-- OPP, GOV.LVL, GOV.CAP (15 R373). -/
def Power.opp (p : Power) : Nat :=
  p.fcur + put p.vcur 12 + put p.ftgt 24 + put (bit p.ramp) 35 + put (p.pend.getD 0) 36 + put (bit p.pend.isSome) 47 + put p.fceil 48
def Power.levels (p : Power) : Nat := p.lvl + put p.held 9 + put p.flr 18 + put p.fifo.length 32
def GovCtx.word (g : GovCtx) : Nat := g.pool + put g.ptgt 9 + put g.bfloor 18 + put g.opfloor 32

/-- PRIV and COREID (05 R118). -/
def State.priv (s : State) : Nat := s.core.ctx.f.level + put s.part 4
def State.coreId (s : State) : Nat := coreOf s.cix + put (clusOf s.cix) 3 + put s.station 6

/-! ### Counters -/

/-- A counter of the core, with the change of it. -/
def coreCtr (n : Nat) : Option ((Counters → Word) × (Counters → Word → Counters)) :=
  if n = 0x400 then some ((·.frzN), fun c v => { c with frzN := v })
  else if n = 0x401 then some ((·.frzCyc), fun c v => { c with frzCyc := v })
  else if n = 0x402 then some ((·.slipN), fun c v => { c with slipN := v })
  else if n = 0x403 then some ((·.portN), fun c v => { c with portN := v })
  else if n = 0x404 then some ((·.wakeN), fun c v => { c with wakeN := v })
  else if n = 0x405 then some ((·.sqN), fun c v => { c with sqN := v })
  else if n = 0x406 then some ((·.issN), fun c v => { c with issN := v })
  else if n = 0x407 then some ((·.tknN), fun c v => { c with tknN := v })
  else if n = 0x450 then some ((·.sdeN), fun c v => { c with sdeN := v })
  else if n = 0x451 then some ((·.resN), fun c v => { c with resN := v })
  else if n = 0x452 then some ((·.ueN), fun c v => { c with ueN := v })
  else if n = 0x453 then some ((·.cerrN), fun c v => { c with cerrN := v })
  else if n = 0x454 then some ((·.replayN), fun c v => { c with replayN := v })
  else if n = 0x455 then some ((·.uncontN), fun c v => { c with uncontN := v })
  else if n = 0x456 then some ((·.trapsN), fun c v => { c with trapsN := v })
  else if n = 0x460 then some ((·.rpwN), fun c v => { c with rpwN := v })
  else if n = 0x461 then some ((·.mirwN), fun c v => { c with mirwN := v })
  else none

/-- A counter of the die and partition. -/
def partCtr (n : Nat) : Option ((DiePart → Word) × (DiePart → Word → DiePart)) :=
  if n = 0x410 then some ((·.segmissN), fun c v => { c with segmissN := v })
  else if n = 0x411 then some ((·.holdN), fun c v => { c with holdN := v })
  else if n = 0x412 then some ((·.segskipN), fun c v => { c with segskipN := v })
  else if n = 0x413 then some ((·.arrlateN), fun c v => { c with arrlateN := v })
  else if n = 0x414 then some ((·.arrnoentN), fun c v => { c with arrnoentN := v })
  else if n = 0x420 then some ((·.spawnN), fun c v => { c with spawnN := v })
  else if n = 0x421 then some ((·.cmpdropN), fun c v => { c with cmpdropN := v })
  else if n = 0x422 then some ((·.fantN), fun c v => { c with fantN := v })
  else none

/-- A counter of the KV units for a partition. -/
def kvCtr (n : Nat) : Option ((KvPart → Word) × (KvPart → Word → KvPart)) :=
  if n = 0x430 then some ((·.kvcowN), fun c v => { c with kvcowN := v })
  else if n = 0x431 then some ((·.pfxwinN), fun c v => { c with pfxwinN := v })
  else if n = 0x432 then some ((·.pfxloseN), fun c v => { c with pfxloseN := v })
  else if n = 0x433 then some ((·.kvfailN), fun c v => { c with kvfailN := v })
  else none

/-- A counter of the cluster. -/
def powerCtr (n : Nat) : Option ((Power → Word) × (Power → Word → Power)) :=
  if n = 0x440 then some ((·.grantN), fun c v => { c with grantN := v })
  else if n = 0x441 then some ((·.gwaitCyc), fun c v => { c with gwaitCyc := v })
  else if n = 0x442 then some ((·.balDuc), fun c v => { c with balDuc := v })
  else if n = 0x443 then some ((·.opchgN), fun c v => { c with opchgN := v })
  else if n = 0x444 then some ((·.droopN), fun c v => { c with droopN := v })
  else if n = 0x445 then some ((·.capstepN), fun c v => { c with capstepN := v })
  else none

/-- Any counter, as it reads; of the core's, a bundle sees what they were before its own events (05 R119). -/
def State.ctrRead (s : State) (n : Nat) : Word :=
  match coreCtr n, partCtr n, kvCtr n, powerCtr n with
  | some f, _, _, _ => f.1 (s.core.iss.ctr.getD s.core.ctr)
  | none, some f, _, _ => f.1 (s.dpart s.station s.part)
  | none, none, some f, _ => f.1 (s.kvp s.station s.part)
  | none, none, none, some f => f.1 s.cluster.pow
  | none, none, none, none => 0

/-- Any counter, written. -/
def State.ctrWrite (s : State) (n : Nat) (v : Word) : State :=
  match coreCtr n, partCtr n, kvCtr n, powerCtr n with
  | some f, _, _, _ => s.mapCtr (fun c => f.2 c v)
  | none, some f, _, _ => s.updDpart s.station s.part (fun c => f.2 c v)
  | none, none, some f, _ => s.updKv s.station s.part (fun c => f.2 c v)
  | none, none, none, some f => s.updPower s.cl (fun c => f.2 c v)
  | none, none, none, none => s

/-! ### Reading -/

/-- 0x000 to 0x0FF: core state (04 R96, 05 R118). -/
def State.csrCore (s : State) (n : Nat) : Nat :=
  let x := s.core.ctx
  let f := x.f
  if n = 0x000 then 0x10100
  else if n = 0x001 then s.coreId
  else if n = 0x002 then s.priv
  else if n = 0x010 then f.codeh.toNat
  else if n = 0x011 then bit (match s.cluster.flush with
    | some m => tbit m s.part
    | none => false)
  else if 0x012 ≤ n && n ≤ 0x015 then Tab.get 0 f.ls (n - 0x012)
  else if 0x016 ≤ n && n ≤ 0x019 then (Tab.get 0 x.r.l (n - 0x016)).toNat
  else if n = 0x01A then f.rotb
  else if n = 0x01B then f.rotlo
  else if n = 0x020 then s.vbs
  else if 0x021 ≤ n && n ≤ 0x024 then x.r.liveWord (n - 0x021)
  else if n = 0x025 then s.bbsWord spW 16
  else if n = 0x026 then s.bbsWord spA 12
  else if n = 0x027 then s.bbsWord spC 8
  else if n = 0x028 then s.bbsWord spP 4
  else 0

/-- 0x100 to 0x1FF: traps, contexts, translation, parked copies (09 R215, R221; 16 R383, R388, R393). -/
def State.csrTrap (s : State) (n : Nat) : Nat :=
  let c := s.core
  let x := c.ctx
  let t := c.trap
  if n = 0x100 then x.f.tvec.toNat
  else if n = 0x101 then t.cause.toNat
  else if n = 0x102 then t.detail.toNat
  else if n = 0x103 then t.addr.toNat
  else if n = 0x104 then t.pc.toNat
  else if n = 0x105 then bit x.f.act + put (bit x.f.step) 1 + put (bit x.f.brken) 2
  else if n = 0x106 then t.cutsel.toNat
  else if n = 0x107 then fld x.cut (64 * (t.cutsel.toNat % 32)) 64
  else if n = 0x108 then t.rot.toNat
  else if n = 0x109 then t.qctl.toNat
  else if n = 0x10A then s.ctxStat
  else if 0x10C ≤ n && n ≤ 0x10F then (Tab.get 0 t.scr (n - 0x10C)).toNat
  else if n = 0x110 then x.f.phpc
  else if n = 0x111 then t.errInfo.toNat
  else if n = 0x112 then t.errAddr.toNat
  else if n = 0x113 then c.phc
  else if n = 0x130 then (Tab.get 0 s.ptroot s.part).toNat
  else if n = 0x131 then (Tab.get 0 s.tlbflVa s.cix).toNat
  else if n = 0x132 then bit (s.tlbinv.any (fun w => w.1 == s.part)) + put (bit (Tab.get false s.tlbflAll s.cix)) 1
  else if n = 0x140 then (c.copies.filter (fun k => k.park.isSome)).length
  else if n = 0x141 then x.csr.cpSel.toNat
  else if n = 0x142 then (match s.selCopy with
    | some k => (k.park.getD (0, 0)).1 % 16 + 2 ^ 4 + put (k.pos % 2 ^ 48) 16
    | none => 0)
  else if n = 0x143 then (match s.selCopy with
    | some k => (k.park.getD (0, 0)).2
    | none => 0)
  else 0

/-- 0x200 to 0x3FF: power, ring, scheduler, KV (11 R283, 12 R313, 13 R343, 15 R373). -/
def State.csrUnit (s : State) (n : Nat) : Nat :=
  let x := s.core.ctx
  let c := x.csr
  let st := s.station
  let k := s.kvp st s.part
  if n = 0x200 then s.cluster.pow.opp
  else if n = 0x201 then s.cluster.pow.levels
  else if n = 0x202 then x.gov.word
  else if n = 0x203 then s.cluster.pow.capw + put s.cluster.pow.avgw 16
  else if n = 0x300 then s.stroke
  else if n = 0x301 then s.ringCfg st
  else if n = 0x302 then s.ring.s0e
  else if n = 0x303 then s.ring.s0w
  else if n = 0x304 then s.ring.rotE % 2 ^ 32
  else if n = 0x305 then s.ring.rotW % 2 ^ 32
  else if n = 0x306 then (s.dpart st s.part).avtb.toNat
  else if n = 0x307 then c.arrInfo.toNat
  else if n = 0x308 then c.arrBatch.toNat
  else if n = 0x309 then c.arrDep.toNat
  else if n = 0x30A then c.arrRot.toNat
  else if n = 0x30B then c.segEv
  else if n = 0x30C then x.pinsWord
  else if n = 0x320 then (s.dpart st s.part).schb.toNat
  else if n = 0x321 then (s.dpart st s.part).cmpb.toNat
  else if n = 0x322 then c.dmbClus ||| 2 ^ coreOf s.cix ||| put c.dmbMod 32
  else if n = 0x323 then c.dmbDie ||| 2 ^ (s.cix % 48)
  else if n = 0x324 then c.rqSel.toNat
  else if n = 0x325 then (s.rqView c.rqSel.toNat).view0
  else if n = 0x326 then (s.rqView c.rqSel.toNat).admitted
  else if n = 0x327 then (s.rqView c.rqSel.toNat).kvroot
  else if n = 0x328 then (s.rqView c.rqSel.toNat).rpha
  else if n = 0x329 then c.taskInfo.toNat
  else if n = 0x32A then c.taskRec.toNat
  else if n = 0x32B then c.taskArg.toNat
  else if n = 0x32C then c.taskJoin.toNat
  else if n = 0x32D then s.termStat st s.part
  else if n = 0x340 then k.kvpolb.toNat
  else if n = 0x341 then k.freeDie.length + put k.freeSpill.length 24
  else if n = 0x342 then k.npage + put k.nspill 24 + put k.nseq 48
  else 0

/-- 0x500 to 0x50D: recovery (17 R411). -/
def State.csrRec (s : State) (n : Nat) : Nat :=
  let c := s.core.ctx.csr
  let st := s.station
  let k := s.kvp st s.part
  if n = 0x500 then c.rpRq.toNat
  else if n = 0x501 then c.rpLen.toNat
  else if n = 0x502 then c.rpRot.toNat
  else if n = 0x503 then c.rpTag.toNat
  else if 0x504 ≤ n && n ≤ 0x507 then (Tab.get 0 c.rpSamp (n - 0x504)).toNat
  else if n = 0x508 then c.rpHash.toNat
  else if n = 0x509 then c.rpCtl.toNat / 2 * 2 + bit s.core.ctx.rp.isSome
  else if n = 0x50A then (s.rqView c.rpRq.toNat).hseq
  else if n = 0x50B then k.kvmirb.toNat
  else if n = 0x50C then
    ((s.mirq.filter (fun w => w.station == st && w.part == s.part && !w.free)).length) % 2 ^ 32 + put (bit k.mirErr) 32
  else if n = 0x50D then s.hub.ckptEp
  else 0

/-- A CSR as it reads (05 R117). -/
def State.csrRead (s : State) (n : Nat) : Word :=
  if n < 0x100 then BitVec.ofNat 64 (s.csrCore n)
  else if n < 0x200 then BitVec.ofNat 64 (s.csrTrap n)
  else if n < 0x400 then BitVec.ofNat 64 (s.csrUnit n)
  else if n < 0x500 then s.ctrRead n
  else BitVec.ofNat 64 (s.csrRec n)

/-! ### Writing -/

/-- ROTLO written (05 R110). -/
def Flow.setRotlo (f : Flow) (v : Nat) : Flow := { f with rotlo := min 16 (v % 32), rotb := 0 }

/-- ROTB written (05 R110). -/
def Flow.setRotb (f : Flow) (v : Nat) : Flow := { f with rotb := if f.rotlo = 16 then 0 else v % 16 % (16 - f.rotlo) }

/-- A code address with its low six bits dropped, of 48 bits. -/
def codeAddr (v : Word) : Nat := fld v 6 42 * 64

/-- TVEC as it is stored (16 R383). -/
def tvecOf (v : Word) : Word := BitVec.ofNat 64 (codeAddr v + put (fld v 48 12) 48)

/-- A table's handle address that a base register takes: aligned, under a handle in D of the running partition. -/
def State.baseOk (s : State) (v : Word) (align : Nat) : Bool :=
  let e := s.hEnt s.station s.part (haHandle v.toNat)
  v = 0 || (haOff v.toNat % align == 0 && haHandle v.toNat != 7 && hValid e && hPart e == s.part && hSpace e == spD)

/-- AVTB, SCHB, CMPB and KVPOLB: a write that is neither 0 nor an aligned address in D is ignored (11 R283, 12 R313, 13 R343). -/
def State.setAvtb (s : State) (v : Word) : State :=
  if s.baseOk v 65536 then s.updDpart s.station s.part (fun d => { d with avtb := v }) else s
def State.setSchb (s : State) (cmpb : Bool) (v : Word) : State :=
  if s.baseOk v 65536 then s.updDpart s.station s.part (fun d => if cmpb then { d with cmpb := v } else { d with schb := v }) else s
def State.setKvpolb (s : State) (v : Word) : State :=
  if s.baseOk v 512 then s.updKv s.station s.part (fun k => { k with kvpolb := v }) else s

/-- KVMIRB written: ERR is cleared, and the value reaches the recovery directory (17 R408, R414). -/
def State.setKvmirb (s : State) (v : Word) : State :=
  let st := s.station
  let k := s.kvp st s.part
  { s.updKv st s.part (fun k => { k with kvmirb := v, mirErr := false }) with
    recdir := Tab.set {} s.recdir (4 * st + s.part) { kvmirb := v.toNat, npage := k.npage, nspill := k.nspill, nseq := k.nseq } }

/-! ### A recovery-point write (17 R409, R412) -/

/-- The 512 bytes of a record pair, translated for a write as the TLBs have it. -/
def State.rpBytes (s : State) (ha : Nat) : TrB :=
  trBytes (fun a => s.translateQ s.cix s.part a false true spG) spG (hBase (s.hEnt s.station s.part (haHandle ha)) + haOff ha) 512

/-- Where a record pair lies: the keys of its 512 bytes, or that the address may not be used, with its violation logged. -/
def State.rpPlace (s : State) (ha : Nat) : State × Option (List Nat) :=
  let e := s.hEnt s.station s.part (haHandle ha)
  match checkEnt e .core s.part ha 512 false true [spG] with
  | some c => ((if logged c then s.logV (hViolation s.cix s.part .core ha c) else s), none)
  | none =>
    if ha % 512 ≠ 0 || !hDur e then (s, none)
    else
      match s.rpBytes ha with
      | .ok ks => (s, some ks)
      | _ => (s, none)

/-- The page that the write of a record must walk for before it issues (09 R214). -/
def State.rpMiss (s : State) : Option Nat :=
  let e := (s.die s.station).req (fld s.core.ctx.csr.rpRq 0 8)
  let ent := s.hEnt s.station s.part (haHandle e.rpha)
  if e.part ≠ s.part || e.state = 0 || e.state = 6 || (checkEnt ent .core s.part e.rpha 512 false true [spG]).isSome || e.rpha % 512 ≠ 0
      || !hDur ent then none
  else
    match s.rpBytes e.rpha with
    | .miss va => some va
    | _ => none

/-- Sequence index of a KV root. -/
def seqOfRoot (v : Nat) : Nat := v % 2 ^ 16

/-- The 256 bytes of a record. -/
def State.recordBytes (s : State) (r n : Nat) : List Byte :=
  let c := s.core.ctx.csr
  let d := s.die s.station
  let e := d.req r
  let g := d.group e.sibg
  let inGroup := decide (e.sibg < 64) && g.state != 0 && g.part == s.part
  let body := leBytes
    (n % 2 ^ 64 + put (r % 256) 64 + put s.station 72 + put s.part 77 + put (seqOfRoot e.kvroot) 80 + put (fld c.rpLen 0 32) 96
      + put (fld c.rpRot 0 32) 128 + put (fld c.rpTag 0 16) 160 + put (e.cls % 16) 176 + put (e.sibg % 256) 180
      + put (fld c.rpCtl 1 1) 188 + put c.rpHash.toNat 192
      + ((List.range 4).map (fun i => put (Tab.get 0 c.rpSamp i).toNat (256 + 64 * i))).foldl (· + ·) 0
      + (if inGroup then put g.n 512 + put g.q 518 else 0)) 224
  body ++ leBytes (shake128 body) 16 ++ leBytes n 8 ++ leBytes 0 8

/-- What a write of 1 to RP.CTL.BUSY does (17 R412): CODE, and where it is 0 the record that is on its way. -/
def State.startRecord (s : State) : State :=
  let st := s.station
  let r := fld s.core.ctx.csr.rpRq 0 8
  let e := (s.die st).req r
  let k := s.kvp st s.part
  let code := fun (s : State) (c : Nat) =>
    s.mapCsr (fun x => { x with rpCtl := BitVec.ofNat 64 (put (fld x.rpCtl 1 1) 1 + put c 2) })
  if e.part ≠ s.part || e.state = 0 || e.state = 6 then code s 1
  else
    match s.rpPlace e.rpha with
    | (s1, none) => code s1 2
    | (s1, some ks) =>
      if k.kvmirb = 0 || k.mirErr then code s1 4
      else
        let q := (k.seq (seqOfRoot e.kvroot)).getD {}
        if q.clen < fld s.core.ctx.csr.rpLen 0 32 then code s1 3
        else
          let n := e.hseq + 1
          let w : RpWrite :=
            { bytes := s.recordBytes r n, keys := (ks.drop (256 * (n % 2))).take 256, dir := 256 * (4 * st + s.part) + r, seq := seqOfRoot e.kvroot
              mir := (s.mirq.filter (fun w => w.station == st && w.part == s.part && w.seq == seqOfRoot e.kvroot && !w.free)).map (·.num)
              bundle := s.bundleNo, clk := s.core.ccyc }
          code ((s1.updDie st (fun d => d.updReq r (fun e => { e with hseq := n }))).mapCtx (fun x => { x with rp := some w })) 0

/-- RP.CTL written: POSTED, and the start of a record. -/
def State.writeRpCtl (s : State) (v : Word) (start : Bool) : State :=
  let s1 := s.mapCsr (fun x => { x with rpCtl := BitVec.ofNat 64 (put (fld v 1 1) 1 + put (fld x.rpCtl 2 4) 2) })
  if start && v.getLsbD 0 then s1.startRecord else s1

/-! ### The write of any CSR (05 R119) -/

/-- 0x000 to 0x0FF. -/
def State.writeCore (s : State) (n : Nat) (v : Word) : State :=
  if n = 0x010 then s.mapFlow (fun f => { f with codeh := v.setWidth 12 })
  else if n = 0x011 then (if v.getLsbD 0 then s.startFlush else s)
  else if 0x012 ≤ n && n ≤ 0x015 then s.mapFlow (fun f => { f with ls := Tab.set 0 f.ls (n - 0x012) (codeAddr v) })
  else if 0x016 ≤ n && n ≤ 0x019 then s.mapRegs (fun r => { r with l := Tab.set 0 r.l (n - 0x016) (v.setWidth 32) })
  else if n = 0x01A then s.mapFlow (fun f => f.setRotb v.toNat)
  else if n = 0x01B then s.mapFlow (fun f => f.setRotlo v.toNat)
  else s

/-- 0x100 to 0x1FF. -/
def State.writeTrap (s : State) (n : Nat) (v : Word) : State :=
  if n = 0x100 then s.mapFlow (fun f => { f with tvec := tvecOf v })
  else if n = 0x104 then s.mapTrap (fun t => { t with pc := BitVec.ofNat 64 (fld v 5 43 * 32 + put (fld v 48 12) 48) })
  else if n = 0x105 then s.mapFlow (fun f => { f with act := v.getLsbD 0, step := v.getLsbD 1, brken := v.getLsbD 2 })
  else if n = 0x106 then s.mapTrap (fun t => { t with cutsel := BitVec.ofNat 64 (fld v 0 5) })
  else if n = 0x108 then s.mapTrap (fun t => { t with rot := BitVec.ofNat 64 (fld v 0 5 + put (fld v 8 4) 8) })
  else if n = 0x109 then s.mapTrap (fun t => { t with qctl := BitVec.ofNat 64 (fld v 0 4) })
  else if 0x10C ≤ n && n ≤ 0x10F then s.mapTrap (fun t => { t with scr := Tab.set 0 t.scr (n - 0x10C) v })
  else if n = 0x110 then s.mapFlow (fun f => { f with phpc := codeAddr v })
  else if n = 0x131 then { s with tlbflVa := Tab.set 0 s.tlbflVa s.cix (BitVec.ofNat 64 (fld v 16 40 * 65536)) }
  else if n = 0x132 then
    (if v.getLsbD 0 then s.startTlbInv (v.getLsbD 1) else { s with tlbflAll := Tab.set false s.tlbflAll s.cix (v.getLsbD 1) })
  else if n = 0x141 then s.mapCsr (fun c => { c with cpSel := v })
  else s

/-- 0x300 to 0x3FF. -/
def State.writeUnit (s : State) (n : Nat) (v : Word) : State :=
  if n = 0x306 then s.setAvtb v
  else if n = 0x30B then s.mapCsr (fun c => { c with segEv := c.segEv &&& (15 - fld v 0 4) })
  else if n = 0x320 then s.setSchb false v
  else if n = 0x321 then s.setSchb true v
  else if n = 0x324 then s.mapCsr (fun c => { c with rqSel := BitVec.ofNat 64 (fld v 0 8) })
  else if n = 0x340 then s.setKvpolb v
  else s

/-- 0x500 to 0x50D. -/
def State.writeRec (s : State) (n : Nat) (v : Word) (start : Bool) : State :=
  if n = 0x500 then s.mapCsr (fun c => { c with rpRq := BitVec.ofNat 64 (fld v 0 8) })
  else if n = 0x501 then s.mapCsr (fun c => { c with rpLen := BitVec.ofNat 64 (fld v 0 32) })
  else if n = 0x502 then s.mapCsr (fun c => { c with rpRot := BitVec.ofNat 64 (fld v 0 32) })
  else if n = 0x503 then s.mapCsr (fun c => { c with rpTag := BitVec.ofNat 64 (fld v 0 16) })
  else if 0x504 ≤ n && n ≤ 0x507 then s.mapCsr (fun c => { c with rpSamp := Tab.set 0 c.rpSamp (n - 0x504) v })
  else if n = 0x508 then s.mapCsr (fun c => { c with rpHash := v })
  else if n = 0x509 then s.writeRpCtl v start
  else if n = 0x50B then s.setKvmirb v
  else s

/-- A CSR written under the rules of its fields: read-only and reserved fields ignore the write. `start`: the instruction is `csrw` or
`csrs`, which start a record. -/
def State.csrWrite (s : State) (n : Nat) (v : Word) (start : Bool) : State :=
  if n < 0x100 then s.writeCore n v
  else if n < 0x200 then s.writeTrap n v
  else if n < 0x300 then s
  else if n < 0x400 then s.writeUnit n v
  else if n < 0x500 then s.ctrWrite n v
  else s.writeRec n v start

/-! ### The instructions (05 R119) -/

/-- The value an instruction writes: none for `csrr`. -/
def csrNew (i : Instr) (s : State) : Option (Nat × Word) :=
  match i with
  | .csrw n a => some (n.toNat, s.rb a)
  | .csrs n a => some (n.toNat, s.csrRead n.toNat ||| s.rb a)
  | .csrc n a => some (n.toNat, s.csrRead n.toNat &&& ~~~(s.rb a))
  | _ => none

/-- `csrw` and `csrs` start a record (17 R412). -/
def csrStarts : Instr → Bool
  | .csrw .. | .csrs .. => true
  | _ => false

/-- A write of 1 to RP.CTL.BUSY waits while a record is being written, and then for the walks of its place (09 R214; 17 R412). -/
def csrHold (i : Instr) (s : State) : Option Hold :=
  match csrNew i s with
  | some (n, v) =>
    if n = 0x509 && v.getLsbD 0 && csrStarts i then
      if s.core.ctx.rp.isSome then some { cls := .wait }
      else s.rpMiss.map (fun va =>
        { cls := .late, start := fun s => s.askWalk { core := s.cix, part := s.part, va := va, rd := false, wr := true, space := spG } })
    else none
  | none => none

def famCsr : Family := { hold := csrHold }

/-- The effect of a CSR write. -/
def State.csrEff (s : State) (i : Instr) : State :=
  match csrNew i s with
  | some (n, v) => s.csrWrite n v (csrStarts i)
  | none => s

/-- `csrr` (05 R119). -/
def execCsrr (d : Reg) (csr : BitVec 12) (s : State) : Host.Outcome State Fault Refusal :=
  issue famCsr (.csrr d csr) (fun _ => 2) (fun s => s.setS .b d (s.csrRead csr.toNat) 2) s

/-- `csrw` (05 R119). -/
def execCsrw (csr : BitVec 12) (a : Reg) (s : State) : Host.Outcome State Fault Refusal :=
  issue famCsr (.csrw csr a) (fun _ => 1) (fun s => s.csrEff (.csrw csr a)) s

/-- `csrs` (05 R119). -/
def execCsrs (csr : BitVec 12) (a : Reg) (s : State) : Host.Outcome State Fault Refusal :=
  issue famCsr (.csrs csr a) (fun _ => 1) (fun s => s.csrEff (.csrs csr a)) s

/-- `csrc` (05 R119). -/
def execCsrc (csr : BitVec 12) (a : Reg) (s : State) : Host.Outcome State Fault Refusal :=
  issue famCsr (.csrc csr a) (fun _ => 1) (fun s => s.csrEff (.csrc csr a)) s

/-! ### The writes that the table lists as steps of their own -/

/-- ROTLO_WRITE (05 R110). -/
def execRotloWrite (v : Word) (s : State) : Host.Outcome State Fault Refusal := .next (s.writeCore 0x01B v)

/-- ROTB_WRITE (05 R110). -/
def execRotbWrite (v : Word) (s : State) : Host.Outcome State Fault Refusal := .next (s.writeCore 0x01A v)

/-- LC_WRITE (04 R102, 05 R118). -/
def execLcWrite (l : BitVec 2) (v : Word) (s : State) : Host.Outcome State Fault Refusal := .next (s.writeCore (0x016 + l.toNat) v)

/-- AVTB_WRITE (11 R283). -/
def execAvtbWrite (v : Word) (s : State) : Host.Outcome State Fault Refusal := .next (s.setAvtb v)

/-- SCHB_WRITE (12 R313), of SCHB or of CMPB. -/
def execSchbWrite (cmpb : Bool) (v : Word) (s : State) : Host.Outcome State Fault Refusal := .next (s.setSchb cmpb v)

/-- KVPOLB_WRITE (13 R343). -/
def execKvpolbWrite (v : Word) (s : State) : Host.Outcome State Fault Refusal := .next (s.setKvpolb v)

/-- KVMIRB_WRITE (17 R408, R411, R414). -/
def execKvmirbWrite (v : Word) (s : State) : Host.Outcome State Fault Refusal := .next (s.setKvmirb v)

/-- TVEC_WRITE (16 R383). -/
def execTvecWrite (v : Word) (s : State) : Host.Outcome State Fault Refusal := .next (s.writeTrap 0x100 v)

/-- SEG_EV_WRITE (11 R283). -/
def execSegEvWrite (v : Word) (s : State) : Host.Outcome State Fault Refusal := .next (s.writeUnit 0x30B v)

/-- RP_CTL_WRITE (17 R412). -/
def execRpCtlWrite (v : Word) (s : State) : Host.Outcome State Fault Refusal := .next (s.writeRpCtl v true)

end Sys2Proof.Machine
end

