-- ==== Sys2Proof/Machine/Phase.lean ====
section
/-! DEFINITION. Cancelling buffer phases: engine operations, copies, publications and commands of the phases go, and the buffers are rolled back (spec 07 R164; 08 R189; 09 R222; 10 R255; 13 R332; 16 R390). -/

namespace Sys2Proof.Machine

/-- Timeline numbers that a command carries: engine and number (08 R184; 09 R216; 13 R332). -/
def cmdNums (m : Cmd) : List (Nat × Nat) :=
  match m.ins with
  | .mm .. => [(0, m.nums.headD 0)]
  | .cp .. | .cpM .. | .cp2d .. | .gat .. | .sca .. => [(3, m.nums.headD 0)]
  | .patchPair hi lo => List.zip ((if hi.issue then [hi.eng.toNat] else []) ++ (if lo.issue then [lo.eng.toNat] else [])) m.nums
  | _ => []

/-- A number of an engine's timeline completes as abandoned. -/
def Ctx.abandon (x : Ctx) (p : Nat × Nat) : Ctx :=
  if p.1 = 0 then { x with tlMe := x.tlMe.finish p.2 true }
  else if p.1 = 3 then { x with tlCe := x.tlCe.finish p.2 true }
  else { x with tlAt := x.tlAt.finish p.2 true }

/-- A command of an engine or of a publication, which a cancelled phase takes with it. -/
def cmdOfPhase (m : Cmd) : Bool :=
  match m.ins with
  | .tlPub .. => true
  | i => (cmdFronts i).any (!·.isUnit) && (match i with
      | .cpRes .. | .cpResDrop .. => false
      | _ => true)

/-- A result that a dropped command was to deliver never lands. -/
def Flight.dropUnits (f : Flight) (l : List Nat) : Flight :=
  { f with pend := f.pend.filter (fun p => match p.unit with
      | some n => !l.contains n
      | none => true) }

/-- Publications of the cancelled phases are discarded. -/
def Timeline.cutPubs (t : Timeline) (p : Nat) : Timeline := { t with pubs := t.pubs.filter (fun u => decide (u.phase < p)) }

/-- A buffer goes back to what was committed (07 R164). -/
def CbDesc.back (d : CbDesc) : CbDesc :=
  if !d.valid then d
  else if d.prod = 6 then { d with cptr := d.fptr, npend := 0 }
  else { d with pptr := d.kptr, vptr := d.kptr, cptr := d.fptr, npend := 0 }

/-- Every buffer goes back, and the pending records are discarded. -/
def Ctx.rollback (x : Ctx) : Ctx := { x with cb := x.cb.map (fun p => (p.1, p.2.back)), commits := [] }

/-- Fired ME operations of the running context of the phases are abandoned; the accumulator is then undefined (08 R189). -/
def State.dropMe (s : State) (p : Nat) : State :=
  let x := s.core.ctx
  let gone := s.core.me.filter (fun m => m.owner == x.cid && decide (p ≤ m.op.phase))
  let s1 := gone.foldl (fun s m => s.meDone m true) s
  let q := x.meq.filter (fun o => decide (p ≤ o.phase))
  let s2 := s1.mapCtx (fun y => (q.map (fun o => (0, o.num))).foldl Ctx.abandon { y with meq := y.meq.filter (fun o => decide (o.phase < p)) })
  if gone.isEmpty && q.isEmpty then s2 else s2.mapCtx (fun y => { y with accFree := some s.free, meCut := true })

/-- PAE and DAE operations of the phases are abandoned (13 R332). -/
def State.dropAt (s : State) (p : Nat) : State :=
  let x := s.core.ctx
  let s1 := (s.core.atRun.filter (fun a => a.owner == x.cid && decide (p ≤ a.op.phase))).foldl (fun s a => s.atEnd a true) s
  let q := x.atq.filter (fun o => decide (p ≤ o.phase))
  s1.mapCtx (fun y => (q.map (fun o => (1, o.num))).foldl Ctx.abandon { y with atq := y.atq.filter (fun o => decide (o.phase < p)) })

/-- Copies of the phases are abandoned, parked ones too (09 R222). A stage that is being rewritten is still rewritten. -/
def State.dropCopies (s : State) (p : Nat) : State :=
  (s.core.copies.filter (fun k => k.owner == s.core.ctx.cid && !k.re && decide (p ≤ k.phase))).foldl (fun s k => s.endCopy k true) s

/-- Commands of the phases go: all of them at a containment, those of engines and publications otherwise. -/
def State.dropCmds (s : State) (p : Nat) (every : Bool) : State :=
  let x := s.core.ctx
  let gone := x.cmds.filter (fun m => decide (p ≤ m.phase) && (every || cmdOfPhase m))
  s.mapCtx (fun y =>
    let y1 := ((gone.map cmdNums).flatten).foldl Ctx.abandon y
    { y1 with cmds := y1.cmds.filter (fun m => !gone.any (fun g => g.serial == m.serial))
              fl := y1.fl.dropUnits (gone.map (·.serial)) })

/-- The phases from `p` on of the running context are cancelled (07 R164, 16 R390). -/
def State.cancelPhases (s : State) (p : Nat) (every : Bool) : State :=
  let s1 := (((s.dropCmds p every).dropCopies p).dropAt p).dropMe p
  let s2 := s1.mapCtx (fun x =>
    { x.rollback with
      tlMe := x.tlMe.cutPubs p, tlCe := x.tlCe.cutPubs p, tlVp := x.tlVp.cutPubs p, tlAt := x.tlAt.cutPubs p
      rqs := x.rqs.filter (fun r => decide (r.phase < p)), phase := p
      posts := x.posts.map (fun b => if p ≤ b.phase then { b with again := true } else b)
      phases := x.phases.filter (fun f => decide (f.idx < p)) })
  s2.mapCore (fun c => c.dropRefetch c.ctx)

end Sys2Proof.Machine
end

