-- ==== Sys2Proof/Machine/Sched.lean ====
section
/-! DEFINITION. The die scheduler: batches, arrival tasks, tile tasks, offers, task ends, the fantail, requests, compaction, termination, barriers (spec 11 R266, R268, R273 to R275, R285; 12 R287 to R321). -/

namespace Sys2Proof.Machine

/-! ### Cadence (11 R259) -/

def Ring.per (r : Ring) (race : Nat) : Nat := if race = 0 then r.pe else r.pw
def Ring.s0 (r : Ring) (race : Nat) : Nat := if race = 0 then r.s0e else r.s0w
def Ring.trans (r : Ring) (race : Nat) : Bool := if race = 0 then r.transE else r.transW

/-- The cadence departure of slot j at a position in rotation k. -/
def Ring.dep (r : Ring) (race pos j k : Nat) : Nat := r.s0 race + k * r.per race + j + pos * r.per race / r.stations.length

/-- The dwell of a position. -/
def Ring.dwell (r : Ring) (race pos : Nat) : Nat :=
  let p := r.per race
  let n := r.stations.length
  if pos = 0 then p - (n - 1) * p / n else pos * p / n - (pos - 1) * p / n

/-- The rotation in which a resident segment departs a position next: at the origin the one after its ROT (11 R262), unless it has not departed
there in that one since the positions were recounted (R280). -/
def segRot (g : Seg) (pos : Nat) : Nat := if pos = 0 ∧ !g.again then g.rot + 1 else g.rot

/-- The cadence departure of a resident segment. -/
def Ring.segDep (r : Ring) (st : Nat) (g : Seg) : Nat :=
  let pos := r.posOf g.race st
  r.dep g.race pos g.cidx (segRot g pos)

/-- The cadence arrival of a slot at a position in the rotation of its departure there. -/
def Ring.arrAt (r : Ring) (race pos j k : Nat) : Nat :=
  if pos = 0 then (if k = 0 then r.s0 race + j else r.dep race (r.stations.length - 1) j (k - 1)) else r.dep race (pos - 1) j k

/-- Cadence slots of a race that hold a segment, wherever it is. -/
def State.filled (s : State) (race : Nat) : List Nat :=
  (s.pond.filterMap (fun p => p.2.bind (fun g => if g.seg.race = race && g.staging.isNone then some g.seg.cidx else none))).eraseDups

/-- The cadence arrival at a station of the next slot that is not empty, for an attention gap (11 R275). -/
def State.gapJoin (s : State) (st : Nat) (g : Seg) : Nat :=
  let r := s.ring
  let pos := r.posOf g.race st
  let k := segRot g pos
  let js := s.filled g.race
  match ((js.filter (fun j => decide (g.cidx < j))).min?, js.min?) with
  | (some j, _) => r.arrAt g.race pos j k
  | (none, some j) => r.arrAt g.race pos j (k + 1)
  | (none, none) => r.segDep st g

/-! ### The arrival vector table (11 R266, R267) -/

/-- The AVT entry of a tag: 0, which is not valid, where there is no table. -/
def State.avt (s : State) (st part tag : Nat) : Nat :=
  match s.tableKeys st part (s.dpart st part).avtb.toNat (8 * tag) 8 with
  | some ks => leNat (s.rdKeys ks)
  | none => 0

/-- The entry is valid. -/
def avtValid (e : Nat) : Bool := tbit e 41 && e / 2 ^ 42 % 64 == 0
def avtHold (e : Nat) : Bool := avtValid e && tbit e 39
def avtOpt (e c : Nat) : Bool := avtValid e && tbit e (48 + c)

/-! ### Quiescence (12 R305) -/

/-- A change of OPEN or of the lists; a change of QUIET from 0 to 1 counts in QEPOCH. -/
def State.quieting (s : State) (st part : Nat) (f : State → State) : State :=
  let s1 := f s
  if !s.quiet st part && s1.quiet st part then s1.updDpart st part (fun d => { d with qepoch := (d.qepoch + 1) % 2 ^ 32 }) else s1

/-- The list bound to a tag. -/
def Die.listOf (d : Die) (part tag : Nat) : Option CmpList := d.lists.find? (fun l => l.part == part && l.tag == tag)

/-- The items of a tag's list replaced; an empty list is bound to no tag. -/
def Die.setItems (d : Die) (part tag : Nat) (xs : List Nat) : Die :=
  let rest := d.lists.filter (fun l => !(l.part == part && l.tag == tag))
  { d with lists := if xs.isEmpty then rest else rest ++ [{ part := part, tag := tag, items := xs }] }

/-! ### Batches (11 R266, 12 R290) -/

/-- A request in its place: those missed twice first, then by admission stroke, then by index. -/
def rqBefore (d : Die) (a b : Nat) : Bool :=
  let k := fun (r : Nat) => (bit (decide ((d.req r).missed < 2)), (d.req r).admitted, r)
  let x := k a
  let y := k b
  if x.1 ≠ y.1 then decide (x.1 < y.1) else if x.2.1 ≠ y.2.1 then decide (x.2.1 < y.2.1) else decide (x.2.2 ≤ y.2.2)

def rqInsert (d : Die) (r : Nat) : List Nat → List Nat
  | [] => [r]
  | q :: qs => if rqBefore d r q then r :: q :: qs else q :: rqInsert d r qs

/-- The READY requests of a partition whose next tag is the tag, in batch order. -/
def Die.ready (d : Die) (part tag : Nat) : List Nat :=
  ((List.range 256).filter (fun r => let e := d.req r; e.state == 1 && e.part == part && e.tag == tag)).foldr (rqInsert d) []

/-- An item whose request may still run. -/
def Die.itemOk (d : Die) (part item : Nat) : Bool :=
  let e := d.req (item % 256)
  e.part == part && e.state != 0 && e.state != 5 && e.state != 6

/-- Cuts a batch into tasks of at most n entries. -/
def cut {α : Type} (n : Nat) (l : List α) : Nat → List (List α)
  | 0 => []
  | f + 1 => if l.isEmpty then [] else l.take n :: cut n (l.drop n) f

/-- The partition owns a cluster on the die (11 R266, 01 R20). -/
def State.ownsDie (s : State) (st part : Nat) : Bool := (List.range 6).any (fun c => tbit (Tab.get {} s.clusters (6 * st + c)).owner part)

/-- An arrival event: the segment in a pond slot has become usable (11 R266, 12 R290). -/
def State.arrive (s : State) (st slot : Nat) (g : Seg) : State :=
  if !s.ownsDie st g.part then s
  else
    let e := s.avt st g.part g.tag
    if !avtValid e then s.updDpart st g.part (fun d => { d with arrnoentN := d.arrnoentN + 1 })
    else
      let d := s.die st
      let items := match d.listOf g.part g.tag with
        | some l => l.items
        | none => []
      let kept := items.filter (d.itemOk g.part)
      let rs := d.ready g.part g.tag
      let ents := rs.map (fun r => ({ rq := r, src := false, cls := (d.req r).cls, missed := (d.req r).missed, item := 0, uid := (d.req r).uid } : BatchEnt))
        ++ kept.map (fun x => ({ rq := x % 256, src := true, cls := (d.req (x % 256)).cls, missed := (d.req (x % 256)).missed, item := x,
                                  uid := (d.req (x % 256)).uid } : BatchEnt))
      let bcls := e / 2 ^ 35 % 16
      let gap := tbit e 40
      let dep := s.ring.segDep st g
      let tasks := (cut (4 * (bcls + 1)) ents ents.length).mapIdx (fun i es =>
        ({ id := d.nextId + i, part := g.part, race := g.race, tag := g.tag, entry := e % 2 ^ 24, gap := gap, trans := s.ring.trans g.race
           tset := e / 2 ^ 29 % 64, ftb := e / 2 ^ 24 % 32, bcls := bcls, slot := slot, sid := g.sid, late := g.late, dep := dep, rot := g.rot
           ents := es, join := if gap then s.gapJoin st g else dep } : ArrTask))
      s.quieting st g.part (fun s =>
        (s.updDie st (fun d =>
          let d1 := rs.foldl (fun d r => d.updReq r (fun q => { q with state := 2, adv := none, done := false })) d
          { d1.setItems g.part g.tag [] with arrs := d1.arrs ++ tasks, nextId := d1.nextId + tasks.length })).updDpart st g.part
          (fun p => { p with cmpdropN := p.cmpdropN + BitVec.ofNat 64 (items.length - kept.length) }))

/-! ### The end of an arrival task (11 R273, R274; 12 R289, R292) -/

/-- Items go back to the front of the list of their tag, as many as it has room for; the rest are dropped and counted. -/
def State.giveBack (s : State) (st part tag : Nat) (xs : List Nat) : State :=
  if xs.isEmpty then s
  else
    let d := s.die st
    let old := match d.listOf part tag with
      | some l => l.items
      | none => []
    let room := if old.isEmpty && decide (256 ≤ (d.lists.filter (fun l => l.part == part)).length) then 0 else 1024 - old.length
    let back := xs.take room
    (s.updDie st (fun d => d.setItems part tag (back ++ old))).updDpart st part
      (fun p => { p with cmpdropN := p.cmpdropN + BitVec.ofNat 64 (xs.length - back.length) })

/-- An arrival task counts once for each member in its batch (14 R359). -/
def State.countSegs (s : State) (st : Nat) (rs : List (Nat × Nat)) : State :=
  rs.eraseDups.foldl (fun s r =>
    s.updDie st (fun d => d.work r.1 r.2 (fun e => { e with cSeg := e.cSeg + 1 }) (fun g => { g with seg := g.seg + 1 }))) s

/-- One request of a batch when its task ends. -/
def State.endReq (s : State) (st tag avt : Nat) (missed : Bool) (r : Nat) : State :=
  let e := (s.die st).req r
  let set := fun (s : State) (f : Req → Req) => s.updDie st (fun d => d.updReq r (fun e => { f e with adv := none, done := false }))
  if e.state ≠ 2 then set s id
  else if missed then
    let skip := avtOpt avt e.cls
    let s1 := set s (fun e => { e with state := 1, missed := min 255 (e.missed + 1), tag := if skip then (tag + 1) % 65536 else e.tag })
    if skip then s1.updDpart st e.part (fun p => { p with segskipN := p.segskipN + 1 }) else s1
  else
    match e.adv with
    | some t => set s (fun e => { e with state := 1, tag := t, missed := 0 })
    | none => if e.done then set s (fun e => { e with state := 4 }) else set s (fun e => { e with state := 1 })

/-- An arrival task ends: its batch is released (12 R289); what a missed or withdrawn one took from a list goes back (R292). -/
def State.endArr (s : State) (st : Nat) (t : ArrTask) (missed : Bool) : State :=
  let avt := s.avt st t.part t.tag
  let s1 := (t.ents.filter (fun e => !e.src)).foldl (fun s e => s.endReq st t.tag avt missed e.rq) (s.countSegs st (t.ents.map (fun e => (e.rq, e.uid))))
  let s2 := if missed then s1.giveBack st t.part t.tag ((t.ents.filter (·.src)).map (·.item)) else s1
  s2.updDie st (fun d => { d with arrs := d.arrs.filter (fun o => o.id != t.id) })

/-! ### The full/empty directory (12 R294 to R297) -/

/-- FULL and CLAIM of a tracked header. -/
def Die.fe (d : Die) (k : Nat) : Bool × Bool := (Tab.get none d.dir k).getD (false, false)

/-- A header's first word with FULL and CLAIM. -/
def State.putFe (s : State) (k : Nat) (full claim : Bool) : State :=
  s.wrLE k 8 (s.rdLE k 8 / 4 * 4 + bit full + put (bit claim) 1)

/-- The directory changes a tracked header, in itself and in D. -/
def State.setFe (s : State) (st k : Nat) (full claim : Bool) : State :=
  (s.updDie st (fun d => { d with dir := Tab.set none d.dir k (some (full, claim)) })).putFe k full claim

/-- Headers that a queued or running task names. -/
def TileTask.headers (t : TileTask) : List Nat := (t.ins ++ t.outs).eraseDups

/-- Headers that no task names any more leave the directory. -/
def Die.untrack (d : Die) : Die := { d with dir := Tab.keep d.dir (fun k => d.tiles.any (fun t => t.headers.contains k)) }

/-- A task is eligible (12 R297). -/
def Die.eligible (d : Die) (t : TileTask) : Bool :=
  t.ins.all (fun k => (d.fe k).1) && t.outs.all (fun k => !(d.fe k).1 && !(d.fe k).2)

/-! ### The fantail (12 R301) -/

/-- The frequency that a task asks for, from its estimate in units of 256 cycles and its join stroke. -/
def fantailFreq (est stroke : Nat) (join : Option Nat) : Nat :=
  match join with
  | none => 0
  | some j =>
    if est = 0 then 0
    else if j ≤ stroke + 2 then 1600
    else min 1600 (max 400 (25 * cdiv (est * 2560000) (25 * 3938 * (j - stroke - 2))))

/-- A task issue or end that changes the demand asks the governor (12 R301, 15 R366). -/
def State.fantail (s : State) (k part : Nat) : State :=
  let cl := clusterOf k
  let d := s.demandBut cl none
  if (s.power cl).demand = d then s
  else
    (s.updPower cl (fun p => { p with demand := d }.retarget)).updDpart (stationOf k) part (fun p => { p with fantN := p.fantN + 1 })

/-- The estimate of an arrival task. -/
def State.estOf (s : State) (st part tset : Nat) : Nat :=
  match s.tableKeys st part (s.dpart st part).schb.toNat (0x18000 + 8 * tset) 8 with
  | some ks => leNat (s.rdKeys ks) % 2 ^ 16
  | none => 0

/-! ### `rq.next` (12 R317) -/

/-- The operation may act on an entry in a state. -/
def rqAllowed (i : Instr) (st : Nat) : Bool :=
  match i with
  | .rqNextAdv .. | .rqNextDone .. => st == 1 || st == 2
  | .rqNextSusp .. => st == 1
  | .rqNextResume .. => st == 3
  | .rqNextRelease .. => st == 4 || st == 5
  | _ => false

/-- The effect of an operation on its entry. -/
def rqEffect (i : Instr) (tag : Nat) (e : Req) : Req :=
  match i with
  | .rqNextAdv .. => if e.state = 2 then { e with adv := some tag } else { e with tag := tag, missed := 0 }
  | .rqNextDone .. => if e.state = 2 then { e with done := true } else { e with state := 4 }
  | .rqNextSusp .. => { e with state := 3 }
  | .rqNextResume .. => { e with state := 1, tag := tag }
  | .rqNextRelease .. => { e with state := 0 }
  | _ => e

/-- A held operation is applied, or dropped where it no longer applies, as in a request that a stopped ring holds (01 R16); a release clears
the entry of the recovery directory (17 R414). -/
def State.rqApply (s : State) (st part : Nat) (h : HeldRq) : State :=
  let r := (h.caps.getD 0 0).toNat % 256
  let tag := (h.caps.getD 1 0).toNat % 65536
  let e := (s.die st).req r
  if e.part ≠ part || !rqAllowed h.ins e.state then s
  else
    let s1 := match h.ins with
      | .rqNextAdv .. => s.updDie st (fun d => d.work r e.uid (fun e => { e with cTok := e.cTok + 1 }) (fun g => { g with tok := g.tok + 1 }))
      | .rqNextRelease .. => { s with rdir := Tab.set {} s.rdir (256 * (4 * st + part) + r) { rpha := e.rpha } }
      | _ => s
    match h.ins with
    | .rqNextRelease .. => s1.updDie st (fun d => d.releaseReq r)
    | _ => s1.updDie st (fun d => d.updReq r (rqEffect h.ins tag))

/-- Held operations of a context whose `cb.rel` has issued, and every record before it applied, are applied in order. -/
def State.flushRq (s : State) (cid : Nat) : State :=
  let x := s.core.ownerCtx cid
  let due := x.rqs.filter (fun h => decide (h.phase < x.phase) && x.commits.all (fun r => decide (h.phase ≤ r.phase)))
  let s1 := due.foldl (fun s h => s.rqApply s.station x.f.part h) s
  s1.mapCore (fun c => c.onOwner cid (fun y => { y with rqs := y.rqs.filter (fun h => !due.any (fun g => g.serial == h.serial)) }))

/-- `rq.next` at the scheduler: its code, and the core holds it where it applies. -/
def State.rqCheck (s : State) (m : Cmd) : State × Nat :=
  let e := (s.die s.station).req ((m.caps.getD 0 0).toNat % 256)
  if e.part = s.part && rqAllowed m.ins e.state then
    ((s.mapCtx (fun x => { x with rqs := x.rqs ++ [{ ins := m.ins, caps := m.caps, phase := m.phase, serial := m.serial }] })).flushRq s.core.ctx.cid, 0)
  else (s, 1)

def execRqNextAdv (d a b : Reg) (s : State) : Host.Outcome State Fault Refusal :=
  issue {} (.rqNextAdv d a b) (fun _ => 8) (fun s => s.askUnit (.rqNextAdv d a b) d 8) s
def execRqNextDone (d a b : Reg) (s : State) : Host.Outcome State Fault Refusal :=
  issue {} (.rqNextDone d a b) (fun _ => 8) (fun s => s.askUnit (.rqNextDone d a b) d 8) s
def execRqNextSusp (d a b : Reg) (s : State) : Host.Outcome State Fault Refusal :=
  issue {} (.rqNextSusp d a b) (fun _ => 8) (fun s => s.askUnit (.rqNextSusp d a b) d 8) s
def execRqNextResume (d a b : Reg) (s : State) : Host.Outcome State Fault Refusal :=
  issue {} (.rqNextResume d a b) (fun _ => 8) (fun s => s.askUnit (.rqNextResume d a b) d 8) s
def execRqNextRelease (d a b : Reg) (s : State) : Host.Outcome State Fault Refusal :=
  issue {} (.rqNextRelease d a b) (fun _ => 8) (fun s => s.askUnit (.rqNextRelease d a b) d 8) s

/-! ### The end of a task (12 R302) -/

/-- A tile task ends: CLAIM is cleared on outputs that are not full, and its headers are no longer tracked for it. -/
def State.endTile (s : State) (st : Nat) (t : TileTask) : State :=
  let s1 := t.outs.foldl (fun s k => if ((s.die st).fe k).1 then s else s.setFe st k false false) s
  s1.updDie st (fun d => { d with tiles := d.tiles.filter (fun o => o.id != t.id) }.untrack)

/-- The arrival task and the tile task of a context's task. -/
def State.arrOf (s : State) (st : Nat) (t : Task) : Option ArrTask := t.arr.bind (fun i => (s.die st).arrs.find? (fun o => o.id == i))
def State.tileOf (s : State) (st : Nat) (t : Task) : Option TileTask := t.tile.bind (fun i => (s.die st).tiles.find? (fun o => o.id == i))

/-- Steps 2 and 3 of R302 for the task of the running context. -/
def State.endTask (s : State) : State :=
  let st := s.station
  let t := s.core.ctx.task
  let arr := s.arrOf st t
  let dropped := fun (h : HeldRq) => t.missed && (match arr with
    | some a => a.ents.any (fun e => e.rq == (h.caps.getD 0 0).toNat % 256)
    | none => false)
  let s1 := (s.core.ctx.rqs.filter (fun h => !dropped h)).foldl (fun s h => s.rqApply st s.part h) s
  let s2 := match arr with
    | some a => s1.endArr st a t.missed
    | none => s1
  let s3 := match s.tileOf st t with
    | some a => s2.endTile st a
    | none => s2
  let s4 := s3.mapCtx (fun x => { x with rqs := [], task := { launch := t.launch, entry := t.entry, addr := t.addr, dreg := t.dreg, ended := true, ending := t.ending } })
  let s5 := if t.launch then
      { s4 with hub := { s4.hub with launches := s4.hub.launches.filter (fun l => !(l.station == st && l.part == s.part && l.started)) } }
    else s4
  s5.fantail s.cix s.part

/-- The timelines that a trailer mask names have reached the last numbers issued. -/
def Ctx.trailerDone (x : Ctx) (mask : Nat) : Bool :=
  let ok := fun (i : Nat) (t : Timeline) => !tbit mask i || decide (t.issued ≤ t.value)
  ok 0 x.tlMe && ok 1 x.tlCe && ok 2 x.tlVp && ok 3 x.tlAt

/-! ### Offers (12 R298 to R300) -/

/-- A core may be offered a task: it waits for one, has none offered, and no boundary cause comes first. -/
def Core.waits (c : Core) (part : Nat) : Bool :=
  !c.halted && c.offer.isNone && c.ctx.f.part == part && !c.ctx.task.launch && c.err.isNone && c.ctx.topCause.isNone
    && (match c.wait with
        | some w => w.kind != 0
        | none => false)

/-- The core is free for an arrival task on a race (12 R300, 11 R285). -/
def Core.freeArr (c : Core) (t : ArrTask) : Bool :=
  c.waits t.part && (match c.wait with
    | some w => w.kind == 2 || tbit w.races t.race
    | none => false)

/-- The core is free for a tile task of an engine class. -/
def Core.freeTile (c : Core) (t : TileTask) : Bool :=
  c.waits t.part && (match c.wait with
    | some w => w.kind == 2
    | none => false)
    && (match t.eng with
        | 1 => c.ctx.meq.isEmpty && c.me.isEmpty
        | 2 => c.ctx.atq.all (·.dae) && c.atRun.all (·.op.dae)
        | 3 => c.ctx.atq.all (!·.dae) && c.atRun.all (!·.op.dae)
        | _ => true)

/-- The first core of a die that passes a test, starting after the one served last. -/
def State.nextCore (s : State) (st : Nat) (f : Core → Bool) : Option Nat :=
  ((List.range 48).map (fun i => 48 * st + ((s.die st).rr + 1 + i) % 48)).find? (fun k => f (s.getCore k))

/-- Tasks that are offered and not taken. -/
def State.offered (s : State) (st : Nat) : List Nat := (List.range 48).filterMap (fun i => (s.getCore (48 * st + i)).offer)

/-- A tile task in rank order: by deadline or inherited join stroke, then by acceptance. -/
def tileInsert (t : TileTask) : List TileTask → List TileTask
  | [] => [t]
  | q :: qs =>
    let key := fun (t : TileTask) => t.deadline.or t.join
    let before := match key t, key q with
      | some a, some b => decide (a ≤ b)
      | some _, none => true
      | none, some _ => false
      | none, none => true
    if before then t :: q :: qs else q :: tileInsert t qs

/-- Tile tasks that may be offered, in rank order. -/
def State.offerable (s : State) (st : Nat) : List TileTask :=
  let d := s.die st
  let off := s.offered st
  let heldOuts := ((d.tiles.filter (fun t => off.contains t.id)).map (·.outs)).flatten
  (d.tiles.filter (fun t => t.taker.isNone && !off.contains t.id && d.eligible t && !t.headers.any heldOuts.contains)).foldr tileInsert []

/-- The request list of a task is written for a core before it is offered the task; its handle address, 0 without an area (12 R291). -/
def State.listKeys (s : State) (k : Nat) (t : ArrTask) (n : Nat) : Option (List Nat) :=
  s.tableKeys (stationOf k) t.part (s.dpart (stationOf k) t.part).schb.toNat (2048 * (k % 48)) n

/-- An entry of the request list (12 R291). -/
def BatchEnt.bits (e : BatchEnt) : Nat := e.rq % 256 + put (bit e.src) 8 + put (e.cls % 16) 9 + put (e.missed % 256) 16 + put (if e.src then e.item else 0) 64

def ArrTask.list (t : ArrTask) : List Byte := leBytes t.ents.length 16 ++ (t.ents.map (fun e => leBytes e.bits 16)).flatten

def State.writeList (s : State) (k : Nat) (t : ArrTask) : State :=
  match s.listKeys k t t.list.length with
  | some ks => s.wrKeys (List.zip ks t.list)
  | none => s

/-- A task is offered to a core. -/
def State.offerTo (s : State) (st k id : Nat) : State :=
  (s.updCore k (fun c => { c with offer := some id })).updDie st (fun d => { d with rr := k % 48 })

/-- TASK_OFFER (12 R299): the first task in order for which a core is free is offered to that core. While the ring is stopped the requests
are held, and no task that works for one is offered (01 R16). -/
def State.offerTask (s : State) (st : Nat) : State :=
  if tbit s.ring.fenced st then s
  else
    let off := s.offered st
    let arrs := if s.ring.stopped then [] else (s.die st).arrs.filter (fun t => t.taker.isNone && !off.contains t.id)
    let tiles := (s.offerable st).filter (fun t => !s.ring.stopped || t.rq.isNone)
    match arrs.findSome? (fun t => (s.nextCore st (fun c => c.freeArr t)).map (fun k => (k, t))) with
    | some (k, t) => (s.writeList k t).offerTo st k t.id
    | none =>
      match tiles.findSome? (fun t => (s.nextCore st (fun c => c.freeTile t)).map (fun k => (k, t.id))) with
      | some (k, id) => s.offerTo st k id
      | none => s

def execTaskOffer (s : State) : Host.Outcome State Fault Refusal := .next (s.offerTask s.station)

/-! ### Taking a task (11 R283, R285; 12 R291, R302) -/

/-- ARR.INFO of a task. -/
def ArrTask.info (t : ArrTask) : Nat :=
  t.tag % 2 ^ 16 + put (t.part % 4) 16 + put (t.race % 2) 18 + put (bit t.gap) 19 + put (bit t.trans) 20 + put (t.tset % 64) 22
    + put (t.ftb % 32) 28 + put (t.bcls % 16) 33 + put (t.ents.length % 128) 37 + put (t.slot % 1024) 44 + put (t.late % 32) 54

/-- All ones: no join stroke. -/
def noJoin : Word := BitVec.allOnes 64

/-- A task start opens the phase anew at the task's entry (16 R388). -/
def State.taskPhase (s : State) (entry : Nat) : State :=
  (s.mapCtx (fun x => { x with phases := x.phases.filter (fun p => p.idx != x.phase) })).restartPoint (64 * entry)

/-- The core in focus takes an arrival task; the value of S[D]. -/
def State.takeArr (s : State) (t : ArrTask) (d : Nat) : State × Word :=
  let st := s.station
  let ha := if (s.listKeys s.cix t t.list.length).isSome then haAdd (s.dpart st t.part).schb.toNat (2048 * (s.cix % 48)) else 0
  let freq := fantailFreq (s.estOf st t.part t.tset) s.stroke (some t.join)
  let s2 := (s.updDie st (fun d => { d with arrs := d.arrs.map (fun o => if o.id = t.id then { o with taker := some s.cix } else o) })).mapCtx (fun x =>
    { x with task := { arr := some t.id, entry := t.entry, dreg := d, freq := freq, missed := t.missed }
             csr := { x.csr with
               arrInfo := BitVec.ofNat 64 t.info, arrBatch := BitVec.ofNat 64 ha, arrDep := BitVec.ofNat 64 t.dep
               arrRot := BitVec.ofNat 64 (t.rot % 2 ^ 32), taskInfo := 1, taskRec := 0, taskArg := 0
               taskJoin := BitVec.ofNat 64 t.join } })
  ((s2.fantail s.cix t.part).taskPhase t.entry, BitVec.ofNat 64 (6 * 2 ^ 52 + 2 ^ 21 * t.slot))

/-- The core in focus takes a tile task: its issue sets CLAIM on its outputs. -/
def State.takeTile (s : State) (t : TileTask) (d : Nat) : State × Word :=
  let st := s.station
  let join := t.deadline.or t.join
  let s1 := t.outs.foldl (fun s k => s.setFe st k ((s.die st).fe k).1 true) s
  let s2 := (s1.updDie st (fun d => { d with tiles := d.tiles.map (fun o => if o.id = t.id then { o with taker := some s.cix } else o) })).mapCtx (fun x =>
    { x with task := { tile := some t.id, entry := t.entry, rq := t.rq, uid := t.uid, dreg := d, freq := fantailFreq t.est s.stroke join }
             csr := { x.csr with
               taskInfo := BitVec.ofNat 64 (2 + (match t.rq with
                 | some r => put r 2 + put 1 10
                 | none => 0))
               taskRec := BitVec.ofNat 64 t.recHa, taskArg := BitVec.ofNat 64 t.arg
               taskJoin := match join with
                 | some j => BitVec.ofNat 64 j
                 | none => noJoin } })
  ((s2.fantail s.cix t.part).taskPhase t.entry, BitVec.ofNat 64 t.recHa)

/-- The task offered to the core in focus is taken: S[D] gets its value, and control passes to its entry. -/
def State.takeOffer (s : State) (d : Reg) : State :=
  let id := s.core.offer.getD 0
  let s0 := s.mapCore (fun c => { c with offer := none })
  let go := fun (r : State × Word) (entry : Nat) => (r.1.setS .e d r.2 1).branch (64 * entry)
  match (s0.die s.station).arrs.find? (fun t => t.id == id) with
  | some t => go (s0.takeArr t d.toNat) t.entry
  | none =>
    match (s0.die s.station).tiles.find? (fun t => t.id == id) with
    | some t => go (s0.takeTile t d.toNat) t.entry
    | none => s0

/-- A command of `rq.next`. -/
def rqNextCmd : Instr → Bool
  | .rqNextAdv .. | .rqNextDone .. | .rqNextSusp .. | .rqNextResume .. | .rqNextRelease .. => true
  | _ => false

/-- One cycle of steps 1 to 3 of R302: the task ends once the timelines of the mask are there and every `rq.next` of the core has
reached the scheduler. Behind them the operations with Q of a launch context come to their due cycles before it gives the core back. -/
def State.endingStep (mask : Nat) (s : State) : State :=
  let x := s.core.ctx
  if x.task.ended then (if x.task.launch then s.hastenAll else s)
  else if x.trailerDone mask && !x.cmds.any (fun m => rqNextCmd m.ins) then s.endTask
  else s

/-- What the task waits hold for. At a `task.end` the check core runs on to the bundle before it, so that the commands of those
bundles reach their units (12 R302; log 20). -/
def taskHold (i : Instr) (s : State) : Option Hold :=
  if s.core.offer.isSome then none
  else
    match i with
    | .arrWait _ _ races => some { cls := .wait, bound := (s.arg i 0).toNat, kind := 1, races := races.toNat }
    | .taskEnd _ mask =>
      let x := s.core.ctx
      some { cls := .wait, kind := if x.task.ended && !x.task.launch then 2 else 0
             start := State.catchUp, each := State.endingStep mask.toNat }
    | _ => none

/-- `arr.wait` (11 R285): 0 where its bound has passed. -/
def execArrWait (d b : Reg) (races : BitVec 2) (s : State) : Host.Outcome State Fault Refusal :=
  issue { hold := taskHold } (.arrWait d b races) (fun _ => 1) (fun s => if s.core.offer.isSome then s.takeOffer d else s.setS .e d 0 1) s

/-- ARR_WAIT_TIMEOUT (11 R285). -/
def execArrWaitTimeout (s : State) : Host.Outcome State Fault Refusal := .next s.expireWait

/-- `task.end` (12 R302). -/
def execTaskEnd (d : Reg) (mask : BitVec 4) (s : State) : Host.Outcome State Fault Refusal :=
  issue { hold := taskHold } (.taskEnd d mask) (fun _ => 1) (fun s => s.takeOffer d) s

/-- A cycle of a context whose task ends without a `task.end`: steps 1 to 4 of R302 with mask 0xF; the register of the wait that took
the old task gets the value for the new one. -/
def State.endingCycle (s : State) : State :=
  match s.core.offer with
  | some _ => s.thaw.takeOffer (BitVec.ofNat 6 s.core.ctx.task.dreg)
  | none =>
    let x := s.core.ctx
    s.holdFor { cls := .wait, kind := if x.task.ended && !x.task.launch then 2 else 0
                start := State.catchUp, each := State.endingStep 15 }

/-! ### `cb.rel` and the commits (07 R163, R171; 11 R273; 14 R358) -/

/-- `cb.rel`: the phase ends with its record; in a task marked missed, or one whose request is cancelled, the phase is cancelled and
the task ends. -/
def execCbRel (mask : BitVec 16) (s : State) : Host.Outcome State Fault Refusal :=
  let i : Instr := .cbRel mask
  issue famCb i (fun _ => 1) (fun s =>
    if s.core.ctx.task.missed then
      (s.cancelPhases s.core.ctx.phase false).mapCtx (fun x => { x with task := { x.task with ending := true } })
    else ((s.mapCtx (fun x => x.endPhase mask.toNat s.bundleNo s.issueClk)).sendCmd i []).flushRq s.core.ctx.cid) s

/-- COMMIT_APPLY (07 R163, 12 R317, 16 R388): the next record of a context of the core applies, if nothing holds it. -/
def State.commitNext (s : State) : State :=
  match s.core.contexts.findSome? (fun x => (s.core.readyCommit x).map (fun r => (x.cid, r))) with
  | none => s
  | some (cid, r) =>
    let s1 := s.mapCore (fun c => (c.onOwner cid (fun x => x.applyCommit r)))
    (s1.mapCore (fun c => c.dropRefetch (c.ownerCtx cid))).flushRq cid

def execCommitApply (s : State) : Host.Outcome State Fault Refusal := .next s.commitNext

/-! ### `spawn` (12 R293 to R298, R316) -/

/-- Faults of an operand in D: aligned, readable or writable by the core (12 R314). -/
def dOperand (i : Instr) (s : State) (n : Nat) (wr : Bool) : MemReq :=
  { ha := (s.arg i 0).toNat, n := n, align := 64, rd := !wr, wr := wr, spaces := [spD] }

def schedFault (i : Instr) (s : State) : Option TrapInfo :=
  let one := fun (r : MemReq) => ((firstMisaligned [r]).or (firstFault s [r])).map (fun x => accessTrap .e x.1 x.2)
  match i with
  | .spawn .. => one (dOperand i s 64 false)
  | .feSetFull .. | .feSetEmpty .. => one (dOperand i s 64 true)
  | .dmSet lvl _ =>
    let v := (s.arg i 0).toNat
    let bad := match lvl with
      | .clus => decide (2 ^ 8 ≤ v) || !tbit v (coreOf s.cix)
      | .die => decide (2 ^ 48 ≤ v) || !tbit v (s.cix % 48)
      | .mod => decide (2 ^ 32 ≤ v) || (v != 0 && !tbit v s.station)
    if bad then some { code := cDomainMask, part := 4 } else none
  | _ => none

/-- The header that `spawn` and `fe.set` name. -/
def schedReqs (i : Instr) (s : State) : List MemReq :=
  match i with
  | .spawn .. => [dOperand i s 64 false]
  | .feSetFull .. | .feSetEmpty .. => [dOperand i s 64 true]
  | _ => []

/-- `fe.set` waits for tl.me, tl.ce and tl.at (12 R318). -/
def feHold (i : Instr) (s : State) : Option Hold :=
  match i with
  | .feSetFull .. | .feSetEmpty .. => if s.core.ctx.trailerDone 0xB then none else some { cls := .wait }
  | _ => none

/-- The family of the scheduler instructions with an operand in D or a mask. -/
def famSched : Family := { fault := schedFault, hold := feHold, reqs := schedReqs }

/-- The keys of a header that a record names, where it may be named: 64 bytes, aligned, in D, readable (12 R316). -/
def State.headerKey (s : State) (part ha : Nat) : Option Nat :=
  let st := s.station
  let e := s.hEnt st part (haHandle ha)
  if haOff ha % 64 ≠ 0 || (checkEnt e .core part ha 64 true false [spD]).isSome then none
  else some (rD st + s.regionBase st part (haHandle ha) e + haOff ha)

/-- A list of headers, if all may be named. -/
def State.headerKeys (s : State) (part : Nat) : List Nat → Option (List Nat)
  | [] => some []
  | h :: t =>
    match s.headerKey part h, s.headerKeys part t with
    | some k, some ks => some (k :: ks)
    | _, _ => none

/-- `spawn` at the scheduler (12 R316): `join` is the stroke that a task of an arrival task hands on, less one where there is none. A task
that works for a cancelled request is withdrawn at once (14 R358). -/
def State.spawnTask (s : State) (m : Cmd) : State × Nat :=
  let st := s.station
  let part := s.part
  let r := leNat (s.rdKeys m.keys)
  let f := fun (lo n : Nat) => r / 2 ^ lo % 2 ^ n
  let eng := f 24 3
  let nin := f 27 2
  let nout := f 29 2
  let rqv := tbit r 40
  let rqOk := let e := (s.die st).req (f 32 8); e.state != 0 && e.part == part
  match s.headerKeys part (([f 128 64, f 192 64, f 256 64].take nin)), s.headerKeys part (([f 320 64, f 384 64].take nout)) with
  | some ins, some outs =>
    if 4 ≤ eng || nout = 3 || f 41 23 ≠ 0 || (rqv && !rqOk) then (s, 2)
    else
      let d := s.die st
      let new := (ins ++ outs).eraseDups.filter (fun k => (Tab.get none d.dir k).isNone)
      if 1024 ≤ (d.tiles.filter (fun t => t.part == part)).length || 4096 < d.dir.length + new.length then (s, 1)
      else if rqv && (d.req (f 32 8)).state == 5 then (s.updDpart st part (fun p => { p with spawnN := p.spawnN + 1 }), 0)
      else
        let t : TileTask :=
          { id := d.nextId, part := part, entry := f 0 24, eng := eng, ins := ins, outs := outs, deadline := if tbit r 31 then some (f 64 48) else none
            rq := if rqv then some (f 32 8) else none, uid := (d.req (f 32 8)).uid, est := f 112 16, arg := f 448 64, recHa := (m.caps.getD 0 0).toNat
            join := match m.nums.headD 0 with
              | 0 => none
              | j + 1 => some j }
        let s1 := s.updDie st (fun d =>
          { d with tiles := d.tiles ++ [t], nextId := d.nextId + 1,
                   dir := new.foldl (fun (x : Tab (Option (Bool × Bool))) k => Tab.set none x k (some (tbit (s.rd1 k).toNat 0, false))) d.dir })
        (s1.updDpart st part (fun p => { p with spawnN := p.spawnN + 1 }), 0)
  | _, _ => (s, 2)

/-- `spawn` (12 R316). -/
def execSpawn (d a : Reg) (s : State) : Host.Outcome State Fault Refusal :=
  let i : Instr := .spawn d a
  issue famSched i (fun _ => 16) (fun s =>
    let join := match s.arrOf s.station s.core.ctx.task with
      | some t => t.join + 1
      | none => 0
    (s.sendCmd i [join] (s.reqAccess (dOperand i s 64 false)).keys).awaitS .e d 16 s.nextSerial) s

/-! ### `fe.set` (12 R318) -/

/-- `fe.set` at the directory: a tracked header is changed there and in D, another in D. -/
def State.applyFe (s : State) (m : Cmd) : State :=
  let k := m.keys.headD 0
  let full := match m.ins with
    | .feSetFull _ => true
    | _ => false
  match Tab.get none (s.die s.station).dir k with
  | some fe => s.setFe s.station k full (if full then false else fe.2)
  | none => s.putFe k full (if full then false else tbit (s.rd1 k).toNat 1)

def execFeSetFull (a : Reg) (s : State) : Host.Outcome State Fault Refusal :=
  issue famSched (.feSetFull a) (fun _ => 1) (fun s =>
    s.sendCmd (.feSetFull a) [] (s.reqAccess (dOperand (.feSetFull a) s 64 true)).keys) s
def execFeSetEmpty (a : Reg) (s : State) : Host.Outcome State Fault Refusal :=
  issue famSched (.feSetEmpty a) (fun _ => 1) (fun s =>
    s.sendCmd (.feSetEmpty a) [] (s.reqAccess (dOperand (.feSetEmpty a) s 64 true)).keys) s

/-! ### Compaction (12 R303, R304, R319) -/

/-- Bytes of the compaction area hold what the spec does not say: eight of them change at an append. -/
def State.scribble (s : State) (st part : Nat) : State :=
  match s.tableKeys st part (s.dpart st part).cmpb.toNat (8 * (Config.freeNat s.free 0xC0 % 2 ^ 18)) 8 with
  | some ks => s.wrKeys (List.zip ks (leBytes (Config.freeNat s.free 0xC1) 8))
  | none => s

/-- `cmp.app` at the scheduler: its code. -/
def State.cmpAppend (s : State) (m : Cmd) : State × Nat :=
  let st := s.station
  let part := s.part
  let d := s.die st
  let tag := (m.caps.getD 0 0).toNat % 65536
  let x := (m.caps.getD 1 0).toNat
  if tbit x 8 then (s, 3)
  else if (s.dpart st part).cmpb = 0 then (s, 2)
  else
    match d.listOf part tag with
    | some l =>
      if 1024 ≤ l.items.length then (s, 1)
      else ((s.updDie st (fun d => d.setItems part tag (l.items ++ [x]))).scribble st part, 0)
    | none =>
      if 256 ≤ (d.lists.filter (fun l => l.part == part)).length then (s, 2)
      else ((s.updDie st (fun d => d.setItems part tag [x])).scribble st part, 0)

/-- `cmp.take` at the scheduler: the oldest item, or all ones. -/
def State.cmpTake (s : State) (m : Cmd) : State × Word :=
  let st := s.station
  let tag := (m.caps.getD 0 0).toNat % 65536
  match (s.die st).listOf s.part tag with
  | some l =>
    match l.items with
    | x :: xs => (s.quieting st s.part (fun s => s.updDie st (fun d => d.setItems s.part tag xs)), BitVec.ofNat 64 x)
    | [] => (s, BitVec.allOnes 64)
  | none => (s, BitVec.allOnes 64)

/-- `cmp.app` (12 R319). -/
def execCmpApp (d a b : Reg) (s : State) : Host.Outcome State Fault Refusal :=
  issue {} (.cmpApp d a b) (fun _ => 8) (fun s => s.askUnit (.cmpApp d a b) d 8) s

/-- `cmp.take` (12 R319). -/
def execCmpTake (d a : Reg) (s : State) : Host.Outcome State Fault Refusal :=
  issue {} (.cmpTake d a) (fun _ => 8) (fun s => s.askUnit (.cmpTake d a) d 8) s

/-! ### Termination (12 R305, R306, R320) -/

/-- `term.open` and `term.close` at the scheduler. -/
def State.termApply (s : State) (opening : Bool) : State × Nat :=
  let st := s.station
  let n := (s.dpart st s.part).open_
  if opening then
    (if n = 65535 then (s, 1) else (s.updDpart st s.part (fun d => { d with open_ := n + 1 }), 0))
  else
    (if n = 0 then (s, 1) else (s.quieting st s.part (fun s => s.updDpart st s.part (fun d => { d with open_ := n - 1 })), 0))

def execTermOpen (d : Reg) (s : State) : Host.Outcome State Fault Refusal :=
  issue {} (.termOpen d) (fun _ => 8) (fun s => s.askUnit (.termOpen d) d 8) s
def execTermClose (d : Reg) (s : State) : Host.Outcome State Fault Refusal :=
  issue {} (.termClose d) (fun _ => 8) (fun s => s.askUnit (.termClose d) d 8) s

/-- `term.wait` waits for QUIET. -/
def termHold (i : Instr) (s : State) : Option Hold :=
  match i with
  | .termWait .. => if s.quiet s.station s.part then none else some { cls := .wait, bound := (s.arg i 0).toNat }
  | _ => none

/-- `term.wait` (12 R320). -/
def execTermWait (d b : Reg) (s : State) : Host.Outcome State Fault Refusal :=
  issue { hold := termHold } (.termWait d b) (fun _ => 1) (fun s =>
    s.setS .e d (BitVec.ofNat 64 (put ((s.dpart s.station s.part).qepoch % 2 ^ 32) 32 + bit (!s.quiet s.station s.part))) 1) s

/-- TERM_WAIT_TIMEOUT (12 R320). -/
def execTermWaitTimeout (s : State) : Host.Outcome State Fault Refusal := .next s.expireWait

/-! ### Domains and barriers (12 R307, R308, R321; 10 R239) -/

def levelCode : Level → Nat
  | .clus => 0
  | .die => 1
  | .mod => 2

def barKey (k lvl : Nat) : Nat := 3 * k + lvl
def State.barSt (s : State) (k lvl : Nat) : BarSt := Tab.get {} s.bars (barKey k lvl)
def State.updBar (s : State) (k lvl : Nat) (f : BarSt → BarSt) : State := { s with bars := Tab.upd {} s.bars (barKey k lvl) f }

/-- `dm.set` (12 R321): the mask is seen from the next bundle on. -/
def execDmSet (lvl : Level) (a : Reg) (s : State) : Host.Outcome State Fault Refusal :=
  let i : Instr := .dmSet lvl a
  issue famSched i (fun _ => 1) (fun s =>
    let v := (s.arg i 0).toNat
    let less := fun (n : Nat) => if tbit v n then v - 2 ^ n else v
    (s.mapCsr (fun c => match lvl with
      | .clus => { c with dmbClus := less (coreOf s.cix) }
      | .die => { c with dmbDie := less (s.cix % 48) }
      | .mod => { c with dmbMod := v })).sendCmd i []) s

/-- `dm.set` at the barrier: the arrival count starts anew (12 R307). -/
def State.applyDm (s : State) (lvl : Level) : State := s.updBar s.cix (levelCode lvl) (fun _ => {})

/-- Cores that a core's mask names at a level. -/
def State.members (s : State) (k lvl : Nat) : List Nat :=
  let x := (s.getCore k).ctx
  if lvl = 0 then k :: ((List.range 8).filter (tbit x.csr.dmbClus)).map (fun i => 8 * clusterOf k + i)
  else if lvl = 1 then k :: ((List.range 48).filter (tbit x.csr.dmbDie)).map (fun i => 48 * stationOf k + i)
  else
    (((List.range 32).filter (tbit x.csr.dmbMod)).map (fun st => (List.range 48).map (fun i => 48 * st + i))).flatten.filter (fun m =>
      let y := (s.getCore m).ctx
      y.f.part == x.f.part && y.csr.dmbMod == x.csr.dmbMod)

/-- The `.ph` flag of a copy command. -/
def cmdPh (T : Nat → BitVec 512) : Instr → Bool
  | .cp f .. | .cp2d f .. | .gat f .. | .sca f .. => f.ph
  | .cpM _ ph .. => ph
  | .patchPair hi lo => (hi.issue && hi.eng == 3 && (T hi.tmpl.toNat).getLsbD 2) || (lo.issue && lo.eng == 3 && (T lo.tmpl.toNat).getLsbD 2)
  | _ => false

/-- What R239 asks of a member: its `.ph` copies issued before its `bar` are complete, its accesses before it performed. -/
def Core.settled (c : Core) (b : BarSt) : Bool :=
  c.copies.all (fun k => !(k.owner == b.cid && k.parm.ph && decide (k.bundle < b.bundle)))
    && (c.ownerCtx b.cid).cmds.all (fun m => !(cmdPh ((c.ownerCtx b.cid).template 3) m.ins && decide (m.bundle < b.bundle)))
    && (c.ownerCtx b.cid).defers.all (fun d => !((accesses d.ins || cmdPh ((c.ownerCtx b.cid).template 3) d.ins) && decide (d.bundle < b.bundle)))
    && c.leases.all (fun l => decide (b.bundle ≤ l.bundle))

/-- The arrival of a core may pass (12 R308). -/
def State.barOpen (s : State) (k lvl : Nat) : Bool :=
  let b := s.barSt k lvl
  let ms := s.members k lvl
  b.pend && ms.all (fun m => decide (b.count ≤ (s.barSt m lvl).count) && (s.getCore m).settled (s.barSt m lvl))
    && (lvl != 2 || (s.getCore k).ctx.csr.dmbMod != 0 && ((List.range 32).filter (tbit (s.getCore k).ctx.csr.dmbMod)).all (fun st => ms.any (fun m => stationOf m == st)))

/-- `bar` at the barrier: the next arrival is registered, unless one is pending. -/
def State.applyBar (s : State) (m : Cmd) (lvl : Level) : State :=
  s.updBar s.cix (levelCode lvl) (fun b =>
    if b.pend then b
    else { count := b.count + 1, pend := true, cid := s.core.ctx.cid, bundle := m.bundle })

/-- The core's wait in `bar` ends with a code. -/
def State.endBar (s : State) (code : Nat) : State :=
  match s.core.bar with
  | none => s
  | some (_, n) => ((s.deliver n (BitVec.ofNat 64 code)).mapCore (fun c => { c with bar := none })).thaw

/-- `bar` (12 R308): the core is frozen from the next cycle. -/
def execBar (lvl : Level) (d b : Reg) (s : State) : Host.Outcome State Fault Refusal :=
  let i : Instr := .bar lvl d b
  issue {} i (fun _ => 1) (fun s =>
    let n := s.nextSerial
    ((s.sendCmd i []).awaitS .e d 1 n).mapCore (fun c =>
      { c with bar := some (levelCode lvl, n), wait := some { bound := (s.arg i 0).toNat } })) s

/-- BARRIER_PASS: the barrier in which the core waits opens, if every condition holds. -/
def State.barPass (s : State) : State :=
  match s.core.bar with
  | some (lvl, _) => if s.barOpen s.cix lvl then (s.updBar s.cix lvl (fun b => { b with pend := false })).endBar 0 else s
  | none => s

def execBarrierPass (s : State) : Host.Outcome State Fault Refusal := .next s.barPass

/-- BAR_TIMEOUT: the bound passes, and the arrival stays pending. -/
def State.barTimeout (s : State) : State :=
  if s.core.bar.isSome && s.core.wait.any (fun w => w.bound != 0 || w.boundM != 0) then s.expireWait.endBar 1 else s

def execBarTimeout (s : State) : Host.Outcome State Fault Refusal := .next s.barTimeout

end Sys2Proof.Machine
end

