-- ==== Sys2Proof/Machine/Ring.lean ====
section
/-! DEFINITION. The millrace: pins and hold targets, the stroke boundary with departures, holds, missed events and arrivals, staging, injection, fences (spec 01 R15, R16; 11 R257 to R286). -/

namespace Sys2Proof.Machine

/-! ### Stations and residents -/

/-- The station a race sends to next (11 R259). -/
def Ring.next (r : Ring) (race st : Nat) : Nat :=
  let l := r.stations
  let n := l.length
  let i := (l.findIdx? (· == st)).getD 0
  (l[(if race = 0 then i + 1 else i + n - 1) % n]?).getD st

def State.pondAt (s : State) (st slot : Nat) : Option PondSeg := Tab.get none s.pond (640 * st + slot)
def State.setPond (s : State) (st slot : Nat) (p : Option PondSeg) : State := { s with pond := Tab.set none s.pond (640 * st + slot) p }

/-- What a station's pond holds, by slot. -/
def State.pondOf (s : State) (st : Nat) : List (Nat × PondSeg) :=
  s.pond.filterMap (fun e => if e.1 / 640 = st then e.2.map (fun p => (e.1 % 640, p)) else none)

/-- Slots of a station that hold nothing. -/
def State.freeSlots (s : State) (st : Nat) : List Nat := (List.range 640).filter (fun i => (s.pondAt st i).isNone)

/-- The FIFO of a race at a station: what is resident and not being staged (11 R260). -/
def State.fifo (s : State) (st race : Nat) : List (Nat × PondSeg) :=
  (s.pondOf st).filter (fun e => e.2.seg.race == race && e.2.staging.isNone && decide (e.2.since ≤ s.stroke))

/-- The resident with the smallest cadence departure among those that pass a test. -/
def State.earliest (s : State) (st : Nat) (l : List (Nat × PondSeg)) : Option (Nat × PondSeg) :=
  l.foldl (fun b e => match b with
    | none => some e
    | some c => if s.ring.segDep st e.2.seg < s.ring.segDep st c.2.seg then some e else b) none

/-! ### Pins (11 R271) -/

/-- A context's pin on a segment. -/
def Ctx.pinOf (x : Ctx) (sid : Nat) : Option Nat :=
  (List.range 4).find? (fun i => match Tab.get none x.pins i with
    | some p => p.sid == sid
    | none => false)

/-- Cores of a die. -/
def dieCores (st : Nat) : List Nat := (List.range 48).map (48 * st + ·)

/-- A core of the die pins the segment. -/
def State.pinned (s : State) (st sid : Nat) : Bool := (dieCores st).any (fun k => (s.getCore k).contexts.any (fun x => (x.pinOf sid).isSome))

/-- A copy still reads a range of S that begins at `lo`: body bytes of a slot, or its header. -/
def State.readsRange (s : State) (k : Copy) (x : Ctx) (lo n : Nat) : Bool :=
  let p := k.parm
  let e := entOf k.ent (haHandle (k.base x s.cix).1)
  hSpace e == spS && k.begun && k.park.isNone && (List.range p.rows).any (fun r =>
    let from_ := max k.pos (r * p.len)
    decide (from_ < (r + 1) * p.len) && (
      let a := s.copyAt k x from_
      let off := s.regionBase s.station x.f.part a.1.h e + a.1.off
      decide (off < lo + n) && decide (lo < off + a.2.2)))

/-- The copies of the core in focus that still read a pond slot complete as discarded. -/
def State.cutReaders (s : State) (owner slot : Nat) : State :=
  (s.core.copies.filter (fun k => k.owner == owner && (
    let x := s.core.ownerCtx owner
    s.readsRange k x (2 ^ 21 * slot) (2 ^ 21) || s.readsRange k x (0x50000000 + 64 * slot) 64))).foldl (fun s k => s.endCopy k true) s

/-- The missed event of one context: its SEG.EV bit, its pin, its task (11 R271). -/
def Ctx.miss (x : Ctx) (i : Nat) : Ctx :=
  { x with pins := Tab.set none x.pins i none, csr := { x.csr with segEv := x.csr.segEv ||| 2 ^ i }
           task := if x.task.arr.isSome then { x.task with missed := true } else x.task }

/-- An arrival task is marked missed. -/
def Die.missArr (d : Die) (t : Nat) : Die :=
  { d with arrs := d.arrs.map (fun (o : ArrTask) => if o.id = t then { o with missed := true } else o) }

/-- Every pin on a departing segment is removed, each with its missed event. -/
def State.missPins (s : State) (st slot sid : Nat) : State :=
  ((dieCores st).map (fun k => ((s.getCore k).contexts.filterMap (fun x => (x.pinOf sid).map (fun i => (k, x.cid, i, x)))))).flatten.foldl
    (fun s e =>
      let (k, cid, i, x) := e
      let s1 := s.onCore k (fun s => (s.cutReaders cid slot).mapCore (fun c => c.onOwner cid (fun x => x.miss i)))
      let s2 := match x.task.arr with
        | some t => s1.updDie st (fun d => d.missArr t)
        | none => s1
      s2.updDpart st x.f.part (fun d => { d with segmissN := d.segmissN + 1 })) s

/-! ### Departure of a segment (11 R261, R268, R270, R272) -/

/-- Arrival tasks of the segment that no core has taken are withdrawn. -/
def State.withdraw (s : State) (st sid : Nat) : State :=
  ((s.die st).arrs.filter (fun t => t.sid == sid && t.taker.isNone)).foldl (fun s t =>
    let s1 := (dieCores st).foldl (fun s k => if (s.getCore k).offer = some t.id then s.updCore k (fun c => { c with offer := none }) else s) s
    (s1.endArr st t true).updDpart st t.part (fun d => { d with arrlateN := d.arrlateN + 1 })) s

/-- What a station does on a race in a stroke: the segment that leaves, and the one that is held. -/
structure Sending where
  go : Option (Nat × PondSeg)
  hold : Option (Nat × PondSeg)
  deriving DecidableEq, Repr

/-- A hold target is posted that is not met. -/
def PondSeg.wanted (p : PondSeg) : Bool := decide (p.held < (p.targets.map (·.2)).foldl max 0)

/-- A core wants the segment held (11 R270). -/
def State.wantHeld (s : State) (st : Nat) (p : PondSeg) : Bool := s.pinned st p.seg.sid || p.wanted

/-- The successor of a held segment: the resident that is due next after it, unless its cadence slot is empty; or that no hold is
possible (11 R270). -/
def State.successor (s : State) (st : Nat) (p : PondSeg) : Option (Option (Nat × PondSeg)) :=
  let r := s.ring
  let race := p.seg.race
  let due := r.segDep st p.seg + p.held + 1
  let per := r.per race
  let j := (due - r.s0 race - r.posOf race st * per / r.stations.length) % per
  match (s.fifo st race).find? (fun e => r.segDep st e.2.seg == due && e.2.seg.sid != p.seg.sid) with
  | some e => if s.pinned st e.2.seg.sid || e.2.wanted then none else some (some e)
  | none => if (s.filled race).contains j then none else some none

/-- The conditions of a hold for one more stroke (11 R270), besides the successor. -/
def State.mayHold (s : State) (st : Nat) (p : PondSeg) : Bool :=
  let r := s.ring
  let race := p.seg.race
  let pos := r.posOf race st
  avtHold (s.avt st p.seg.part p.seg.tag) && decide (p.held < 8) && decide (p.seg.late + 1 ≤ 16)
    && decide (p.held + 2 ≤ r.dwell race ((pos + 1) % r.stations.length)) && decide (2 ≤ r.dwell race pos)
    && (s.fifo st race).all (fun e => e.2.seg.sid == p.seg.sid || e.2.held == 0)

/-- What a station sends in the present stroke on a race (11 R261, R270, R280). -/
def State.sending (s : State) (st race : Nat) : Sending :=
  let r := s.ring
  let l := s.fifo st race
  let full := r.trans race && decide (r.dwell race (r.posOf race st) < l.length)
  match s.earliest st (if full then l else l.filter (fun e => decide (r.segDep st e.2.seg ≤ s.stroke))) with
  | none => { go := none, hold := none }
  | some c =>
    if r.trans race || !s.wantHeld st c.2 || !s.mayHold st c.2 then { go := some c, hold := none }
    else
      match s.successor st c.2 with
      | none => { go := some c, hold := none }
      | some next => { go := next, hold := some c }

/-- A segment leaves its station. -/
def State.depart (s : State) (st : Nat) (e : Nat × PondSeg) : State :=
  ((s.missPins st e.1 e.2.seg.sid).withdraw st e.2.seg.sid).setPond st e.1 none

/-- A segment is held for the stroke (11 R270). -/
def State.holdSeg (s : State) (st : Nat) (e : Nat × PondSeg) : State :=
  (s.setPond st e.1 (some { e.2 with held := e.2.held + 1, seg := { e.2.seg with late := e.2.seg.late + 1 } })).updDpart st e.2.seg.part
    (fun d => { d with holdN := d.holdN + 1 })

/-- The header as the station sends it: the origin writes ROT and clears LATE (11 R262). -/
def Ring.sent (r : Ring) (st : Nat) (g : Seg) : Seg :=
  if r.posOf g.race st = 0 then { g with rot := segRot g 0, late := 0, again := false } else g

/-- A segment crosses to the next station, into the slot that a departure of its race leaves there, or another free one (11 R257, R260). -/
def State.cross (s : State) (left : List (Nat × Nat × Nat)) (st : Nat) (p : PondSeg) : State :=
  if p.drop then s
  else
    let g := s.ring.sent st p.seg
    let dst := s.ring.next g.race st
    let used := (left.filter (fun l => l.1 == dst)).map (fun l => l.2.2)
    let slot := match left.find? (fun l => l.1 == dst && l.2.1 == g.race) with
      | some l => some l.2.2
      | none => anyOf s.free (0x40000 + 64 * dst + g.race) ((s.freeSlots dst).filter (fun i => !used.contains i))
    match slot with
    | some i => s.setPond dst i (some { seg := g, since := s.stroke + 1 })
    | none => s

/-- A slot's segment has still to depart the origin in a rotation (11 R262): an idle stroke is then none of that slot. -/
def State.owed (s : State) (race j k : Nat) : Bool :=
  s.pond.any (fun p => match p.2 with
    | some g => g.seg.race == race && g.seg.cidx == j && g.staging.isNone && decide (segRot g.seg 0 ≤ k)
    | none => false)

/-- The cadence slots that leave the origin of a race in a stroke, with their rotations (11 R262): that of the segment it sends, and one with
no segment there whose cadence departure it is, or whose idle stroke is sent early for a held segment. -/
def State.leaving (s : State) (race : Nat) (p : Sending) : List (Nat × Nat) :=
  let r := s.ring
  let due := match p.hold with
    | some e => r.segDep (r.stations.headD 0) e.2.seg + e.2.held + 1
    | none => s.stroke
  let j := (due - r.s0 race) % r.per race
  let k := (due - r.s0 race) / r.per race
  (p.go.map (fun e => (e.2.seg.cidx, segRot e.2.seg 0))).toList ++ (if r.s0 race ≤ due && r.per race != 0 && !s.owed race j k then [(j, k)] else [])

/-- The rotation of a race, and whether its transition rotation goes on, after the slots that have left the origin (11 R262, R280). -/
def turned (rot : Nat) (trans : Bool) (l : List (Nat × Nat)) : Nat × Bool :=
  ((l.head?.map (·.2)).getD rot, trans && !l.any (fun p => p.1 == 0))

/-- The state of the races after a stroke. -/
def Ring.turn (r : Ring) (e w : List (Nat × Nat)) : Ring :=
  let (re, te) := turned r.rotE r.transE e
  let (rw, tw) := turned r.rotW r.transW w
  { r with rotE := re, transE := te, rotW := rw, transW := tw }

/-- Stagings that have lasted 42 strokes end: their segments are usable and raise arrival events (11 R277). -/
def State.stagingEnd (s : State) : State :=
  let l := s.pond.filterMap (fun e => e.2.bind (fun p => match p.staging with
    | some t => if t ≤ s.stroke then some (e.1, p) else none
    | none => none))
  l.foldl (fun s e =>
    (s.setPond (e.1 / 640) (e.1 % 640) (some { e.2 with staging := none, since := s.stroke })).arrive (e.1 / 640) (e.1 % 640) e.2.seg) s

/-- Arrival events of the segments that have become usable with this stroke. -/
def State.arrivals (s : State) : State :=
  (s.pond.filterMap (fun e => e.2.bind (fun p => if p.staging.isNone && p.since == s.stroke then some (e.1, p) else none))).foldl
    (fun s e => s.arrive (e.1 / 640) (e.1 % 640) e.2.seg) s

/-- A segment is lost: its image is to be injected again (11 R281). -/
def State.lose (s : State) (e : Nat × PondSeg) : State :=
  let r := s.ring
  let img := r.images.find? (fun g => g.race == e.2.seg.race && g.cidx == e.2.seg.cidx)
  { s with pond := Tab.set none s.pond e.1 none
           ring := if e.2.drop then r else { r with todo := r.todo ++ (match img with
             | some g => [(g, 2)]
             | none => []) } }

/-- What the next station of race E holds departs it as its origin in its present rotation, where the origin is fenced (11 R259, R280). -/
def State.newOrigin (s : State) (st : Nat) : State :=
  if s.ring.stations.head? = some st then
    { s with pond := s.pond.map (fun e => (e.1, e.2.map (fun p =>
        if e.1 / 640 = s.ring.next 0 st ∧ p.seg.race = 0 then { p with seg := { p.seg with again := true } } else p))) }
  else s

/-- The sluice switches round a station (11 R279, R280): it leaves the cadence, and what is in its pond, or has crossed out of it in the
stroke that ends, is lost. -/
def State.sluice (s : State) (st : Nat) : State :=
  let r := s.ring
  let out := fun (e : Nat × PondSeg) => r.next e.2.seg.race st == e.1 / 640 && e.2.since == s.stroke
  let lost := s.pond.filterMap (fun e => e.2.bind (fun p => if e.1 / 640 = st ∨ out (e.1, p) then some (e.1, p) else none))
  let s1 := (lost.foldl State.lose s).newOrigin st
  { s1 with ring := { s1.ring with bridged := s1.ring.bridged ||| 2 ^ st, transE := s1.ring.running, transW := s1.ring.running } }

/-- The stations fenced since the last stroke boundary are switched over (11 R279). -/
def State.switch (s : State) : State :=
  if s.ring.stopped then s
  else ((List.range 32).filter (fun st => tbit s.ring.fenced st && !tbit s.ring.bridged st)).foldl State.sluice s

/-- STROKE_BOUNDARY (11 R257, R261, R266, R270): the next stroke begins. Segments that crossed are usable and raise their events; then
every station sends one segment or an idle stroke on each race. -/
def State.strokeBoundary (s : State) : State :=
  let s0 := { s with stroke := s.stroke + 1, free := s.free + 1, log := { s.log with since := s.log.head } }.switch
  if !s0.ring.running || s0.ring.stopped then s0
  else
    let s1 := s0.arrivals.stagingEnd
    let out := fun (race : Nat) => s1.leaving race (s1.sending (s1.ring.stations.headD 0) race)
    let plan := (s1.ring.stations.map (fun st => [(st, s1.sending st 0), (st, s1.sending st 1)])).flatten
    let s2 := plan.foldl (fun s p => match p.2.hold with
      | some e => s.holdSeg p.1 e
      | none => s) s1
    let gone := plan.filterMap (fun p => p.2.go.map (fun e => (p.1, e)))
    let s3 := gone.foldl (fun s g => s.depart g.1 g.2) s2
    let left := gone.map (fun g => (g.1, g.2.2.seg.race, g.2.1))
    let s4 := gone.foldl (fun s g => s.cross left g.1 g.2.2) s3
    { s4 with ring := s4.ring.turn (out 0) (out 1) }

/-- STAGING_END (11 R277). -/
def execStagingEnd (s : State) : Host.Outcome State Fault Refusal := .next s.stagingEnd

/-! ### Injection (11 R276, R277, R281) -/

/-- Cadence slots of a race that are filled, staged or waiting for injection. -/
def State.taken (s : State) (race : Nat) : List Nat :=
  s.pond.filterMap (fun p => p.2.bind (fun g => if g.seg.race = race then some g.seg.cidx else none))
    ++ s.ring.todo.filterMap (fun t => if t.1.race = race then some t.1.cidx else none)

/-- The next rotation in which slot j departs a position at or after a stroke. -/
def Ring.nextRot (r : Ring) (race pos j stroke : Nat) : Nat :=
  let base := r.dep race pos j 0
  if stroke ≤ base then 0 else cdiv (stroke - base) (r.per race)

/-- The rotation in which a segment staged from now on departs a station, where the station may take it: its slot departs there
within 42 strokes of the end of the staging, and there is room. -/
def State.stageAt (s : State) (g : SegImg) (st : Nat) : Option Nat :=
  let r := s.ring
  let pos := r.posOf g.race st
  let ready := s.stroke + 42
  let k := r.nextRot g.race pos g.cidx (ready + 1)
  let staged := ((s.pondOf st).filter (fun e => e.2.staging.isSome)).length
  if r.dep g.race pos g.cidx k ≤ ready + 42 && !(pos = 0 && k = 0) && decide (staged + r.dwell 0 (r.posOf 0 st) + r.dwell 1 (r.posOf 1 st) < 640)
      && !(s.freeSlots st).isEmpty then some k
  else none

/-- The header and the body of a loaded segment. -/
def State.imageSeg (s : State) (g : SegImg) (kind sid rot : Nat) : Seg :=
  { sid := sid, tag := g.tag, part := g.part, kind := kind, race := g.race, cidx := g.cidx, late := 0, rot := rot, gen := g.gen
    user := s.rdLE (rG + g.addr + 12) 8 }

/-- The bytes of a body are copied; bytes that read as unlisted are not written. -/
def State.copyBody (s : State) (from_ sid : Nat) : State :=
  (s.mem.filter (fun c => decide (from_ ≤ c.1) && decide (c.1 < from_ + 2 ^ 21))).foldl (fun s c => s.wr1 (rSeg sid + (c.1 - from_)) c.2) s

/-- RE_INJECTION: the hub begins to stage the next segment of those to be injected for which a station has room in time: first injections
of a load (11 R277), with KIND 1, and re-injections of lost segments, with KIND 2 (R281). -/
def State.inject (s : State) : State :=
  let r := s.ring
  if !r.running || r.stopped then s
  else
    match r.todo.findSome? (fun t =>
        let l := r.stations.filterMap (fun st => (s.stageAt t.1 st).map (fun k => (st, k)))
        (l[Config.freeNat s.free 0x50 % l.length]?).map (fun p => (t, p.1, p.2))) with
    | none => s
    | some (t, st, k) =>
      match anyOf s.free 0x51 (s.freeSlots st) with
      | none => s
      | some slot =>
        let pos := r.posOf t.1.race st
        let g := s.imageSeg t.1 t.2 r.nextSid (if pos = 0 then k - 1 else k)
        let s1 := (s.copyBody (rG + t.1.addr + 64) r.nextSid).setPond st slot (some { seg := g, since := 0, staging := some (s.stroke + 42) })
        { s1 with free := s1.free + 1, ring := { r with nextSid := r.nextSid + 1, todo := r.todo.erase t } }

def execReInjection (s : State) : Host.Outcome State Fault Refusal := .next s.inject

/-! ### Fences (01 R15, R16; 11 R279 to R281) -/

/-- Sum of the dwells at a station. -/
def Ring.dwells (r : Ring) (st : Nat) : Nat := r.dwell 0 (r.posOf 0 st) + r.dwell 1 (r.posOf 1 st)

/-- Two fenced stations are adjacent. -/
def Ring.adjacent (r : Ring) : Bool := (List.range 32).any (fun n => tbit r.fenced n && tbit r.fenced ((n + 1) % 32))

/-- The ring as it will be without the fenced stations. -/
def Ring.cut (r : Ring) : Ring := { r with bridged := r.fenced }

/-- The ring can run on with the stations that are in service (01 R16; 11 R280). -/
def Ring.carries (r : Ring) : Bool := !r.adjacent && !r.cut.stations.isEmpty && r.cut.stations.all (fun st => decide (r.cut.dwells st ≤ 640))

/-! ### The ring instructions (11 R284 to R286) -/

/-- The body address of an instruction, whose entry is read at issue (09 R206; 11 R284). -/
def segReq (i : Instr) (s : State) : MemReq :=
  { ha := (s.arg i 0).toNat, n := 1, align := 2 ^ 21, rd := false, wr := false, spaces := [spS] }

/-- Faults of a body address (11 R284). -/
def segFault (i : Instr) (s : State) : Option TrapInfo :=
  let r := segReq i s
  let f := ((firstMisaligned [r]).or (firstFault s [r])).or (if 640 * 2 ^ 21 ≤ haOff r.ha then some (cBound, r.ha) else none)
  f.map (fun x => accessTrap .e x.1 x.2)

def famSeg : Family := { fault := segFault, reqs := fun i s => [segReq i s] }

/-- The bytes that a body address names. -/
def State.segKeys (s : State) (i : Instr) : List Nat := (s.reqAccess (segReq i s)).keys

/-- `seg.pin` (11 R286). -/
def execSegPin (d a b : Reg) (s : State) : Host.Outcome State Fault Refusal :=
  let i : Instr := .segPin d a b
  issue famSeg i (fun _ => 8) (fun s => s.askUnit i d 8 (s.segKeys i)) s

/-- `seg.unpin` (11 R286). -/
def execSegUnpin (a : Reg) (s : State) : Host.Outcome State Fault Refusal :=
  let i : Instr := .segUnpin a
  issue famSeg i (fun _ => 1) (fun s => s.sendCmd i [] (s.segKeys i)) s

/-- `seg.hold` (11 R286). -/
def execSegHold (d a b : Reg) (k : BitVec 4) (s : State) : Host.Outcome State Fault Refusal :=
  let i : Instr := .segHold d a b k
  issue famSeg i (fun _ => 8) (fun s => s.askUnit i d 8 (s.segKeys i)) s

/-- The pond slot that a command names by its body address. -/
def Cmd.slot (m : Cmd) (st : Nat) : Nat := (m.keys.headD 0 - rS st) / 2 ^ 21

/-- The segment that a pin or a target names, if the tests of code 1 pass: usable, of this partition, with the key's TAG and ROT. A segment
whose departure stroke has begun has left its slot. -/
def State.keyedSeg (s : State) (m : Cmd) : Option PondSeg :=
  let key := (m.caps.getD 1 0).toNat
  match s.segAt s.station (m.slot s.station) with
  | some p => if p.seg.part = s.part ∧ p.seg.tag = key % 2 ^ 16 ∧ p.seg.rot % 2 ^ 32 = key / 2 ^ 16 % 2 ^ 32 then some p else none
  | none => none

/-- `seg.pin` at the station: its code. -/
def State.segPin (s : State) (m : Cmd) : State × Nat :=
  match s.keyedSeg m with
  | none => (s, 1)
  | some p =>
    if (s.core.ctx.pinOf p.seg.sid).isSome then (s, 0)
    else
      match (List.range 4).find? (fun i => (Tab.get none s.core.ctx.pins i).isNone) with
      | none => (s, 2)
      | some i => (s.mapCtx (fun x => { x with pins := Tab.set none x.pins i (some { slot := m.slot s.station, sid := p.seg.sid }) }), 0)

/-- `seg.unpin` at the station. -/
def State.segUnpin (s : State) (m : Cmd) : State :=
  let slot := m.slot s.station
  s.mapCtx (fun x => { x with pins := x.pins.filter (fun p => match p.2 with
    | some q => q.slot != slot
    | none => false) })

/-- `seg.hold` at the station: its code. -/
def State.segHold (s : State) (m : Cmd) (k : Nat) : State × Nat :=
  match s.keyedSeg m with
  | none => (s, 1)
  | some p =>
    if (s.dpart s.station s.part).avtb = 0 || !avtHold (s.avt s.station s.part p.seg.tag) then (s, 3)
    else (s.setPond s.station (m.slot s.station) (some { p with targets := Tab.set 0 p.targets s.cix k }), 0)

end Sys2Proof.Machine
end

