-- ==== Sys2Proof/Machine/Ballot.lean ====
section
/-! DEFINITION. Sibling groups and the ballot (spec 14 R354 to R362). -/

namespace Sys2Proof.Machine

/-- Members of a group of a partition (14 R354). -/
def Die.members (d : Die) (part g : Nat) : List Nat :=
  (List.range 256).filter (fun r => let e := d.req r; e.state != 0 && e.part == part && e.sibg == g)

/-- `blt.open`: its code (14 R362). A named quorum of 0 stands for the strict majority (R355). -/
def State.bltOpen (s : State) (a b : Nat) : State × Nat :=
  let st := s.station
  let g := a % 64
  let n := b % 64
  let q := b / 64 % 64
  if 64 ≤ a || 2 ^ 12 ≤ b || n = 0 || 32 < n || n < q then (s, 2)
  else if ((s.die st).group g).state ≠ 0 then (s, 1)
  else
    (s.updDie st (fun d =>
      let d1 := d.updGroup g (fun _ => { n := n, q := if q = 0 then n / 2 + 1 else q, state := 1, part := s.part })
      (d1.members s.part g).foldl (fun d r => d.updReq r (fun e => { e with cTok := 0, cSeg := 0, cMe := 0 })) d1), 0)

/-- A member enters CANC: its work joins the group's counters, and its sequence is released (14 R358, R359). -/
def State.cancelMember (s : State) (st core g r : Nat) : State :=
  let e := (s.die st).req r
  let s1 := s.updDie st (fun d => (d.updReq r (fun e => { e with state := 5 })).updGroup g (fun x =>
    { x with tok := x.tok + e.cTok, seg := x.seg + e.cSeg, me := x.me + e.cMe }))
  if e.kvroot / 2 ^ 16 % 2 = 1 then
    let (k, n) := s1.kvFreeSeq st e.part core (seqOfRoot e.kvroot)
    k.s.updDie st (fun d => d.updGroup g (fun x => { x with pages := x.pages + n }))
  else s1

/-- A core stops being offered a task. -/
def State.unoffer (s : State) (st id : Nat) : State :=
  (dieCores st).foldl (fun s k => if (s.getCore k).offer = some id then s.updCore k (fun c => { c with offer := none }) else s) s

/-- Tile tasks of cancelled requests: queued ones are withdrawn, the cores of issued ones end at their next `cb.rel` (14 R358). -/
def State.cancelTiles (s : State) (st part : Nat) (rs : List Nat) : State :=
  let hit := (s.die st).tiles.filter (fun t => t.part == part && (match t.rq with
    | some r => rs.contains r
    | none => false))
  let s1 := hit.foldl (fun s t => if t.taker.isNone then s.unoffer st t.id else s) s
  let s2 := s1.updDie st (fun d =>
    { d with tiles := d.tiles.filter (fun t => !(t.taker.isNone && hit.any (fun h => h.id == t.id))) }.untrack)
  (dieCores st).foldl (fun s k => s.updCore k (fun c => c.eachCtx (fun x =>
    match x.task.tile with
    | some i => if hit.any (fun h => h.id == i) then { x with task := { x.task with missed := true } } else x
    | none => x))) s2

/-- BALLOT_DECISION (14 R358, R359). -/
def State.ballotDecide (s : State) (st core part g : Nat) : State :=
  let d := s.die st
  let rs := (d.members part g).filter (fun r =>
    !(d.group g).posted.contains r && ((d.req r).state == 1 || (d.req r).state == 2 || (d.req r).state == 3))
  (rs.foldl (fun s r => s.cancelMember st core g r) s).cancelTiles st part rs

/-- A post that counts: the slot of its hash, 8 for none, and the count there (14 R357). -/
def Group.vote (x : Group) (r : Nat) (h : Word) : Group × Nat × Nat :=
  let y := { x with posted := x.posted ++ [r] }
  match x.slots.findIdx? (fun p => p.1 == h) with
  | some k =>
    let n := ((x.slots[k]?).map (·.2)).getD 0 + 1
    ({ y with slots := x.slots.set k (h, n) }, k, n)
  | none =>
    if x.slots.length < 8 then ({ y with slots := x.slots ++ [(h, 1)] }, x.slots.length, 1)
    else ({ y with untrk := x.untrk + 1 }, 8, 0)

/-- A post of a request is a replay: one that this context made stays applied, though its phase was cancelled (14 R361). -/
def Ctx.replays (x : Ctx) (r : Nat) : Bool := x.posts.any (fun p => p.rq == r && p.again)

/-- A post that a phase of the context has made. -/
def Ctx.post (x : Ctx) (phase r : Nat) : Ctx := { x with posts := x.posts.filter (fun p => p.rq != r) ++ [{ phase := phase, rq := r, again := false }] }

/-- `blt.post`: its result (14 R362); the replay of a post that a cancelled phase made returns 5 whatever the group has become (R361). -/
def State.bltPost (s : State) (phase a : Nat) (h : Word) : State × Nat :=
  let st := s.station
  let r := a % 256
  let d := s.die st
  let e := d.req r
  let x := d.group e.sibg
  if 256 ≤ a || e.state = 0 || e.part ≠ s.part || 63 < e.sibg || x.state = 0 || x.part ≠ s.part then (s, 4)
  else if x.posted.contains r && s.core.ctx.replays r then (s.mapCtx (fun x => x.post phase r), 5)
  else if x.state ≠ 1 then (s, 3)
  else if x.posted.contains r then (s, 5)
  else if x.posted.length = x.n then (s, 6)
  else
    let (y, k, n) := x.vote r h
    let s := s.mapCtx (fun x => x.post phase r)
    let set := fun (y : Group) => s.updDie st (fun d => d.updGroup e.sibg (fun _ => y))
    let out := fun (c : Nat) => put n 8 + put k 4 + c
    if n = y.q then ((set { y with state := 2, win := k, stroke := s.stroke }).ballotDecide st s.cix s.part e.sibg, out 1)
    else if y.posted.length = y.n then (set { y with state := 3, stroke := s.stroke }, out 2)
    else (set y, out 0)

/-- The status word of a group (14 R360). -/
def Group.status (x : Group) : Nat :=
  x.n + put x.q 6 + put x.state 12 + put x.part 14 + put x.posted.length 16 + put (if x.state = 2 then x.win else 0) 22 + put (bit (x.state == 2)) 25
    + put x.slots.length 26 + put x.untrk 30

/-- The word of a selector (14 R360). -/
def Group.word (x : Group) (sel : Nat) : Nat :=
  if sel = 0 then x.status
  else if sel = 1 then x.stroke
  else if sel ≤ 9 then (match x.slots[sel - 2]? with
    | some p => p.1.toNat
    | none => 0)
  else if sel = 10 then (x.slots.mapIdx (fun k p => put p.2 (6 * k))).foldl (· + ·) 0
  else if sel = 11 then x.tok
  else if sel = 12 then x.seg
  else if sel = 13 then x.me
  else if sel = 14 then x.pages
  else 0

/-- `blt.read`: its word. -/
def State.bltRead (s : State) (a sel : Nat) : Word :=
  let x := (s.die s.station).group (a % 64)
  if x.state = 0 || x.part ≠ s.part then 0 else BitVec.ofNat 64 (x.word sel)

/-- `blt.close`: its code. -/
def State.bltClose (s : State) (a : Nat) : State × Nat :=
  let st := s.station
  let g := a % 64
  let x := (s.die st).group g
  if x.state = 0 || x.part ≠ s.part then (s, 1)
  else
    (s.updDie st (fun d => ((d.members s.part g).foldl (fun d r => d.updReq r (fun e => { e with sibg := 0xFF })) d).updGroup g (fun _ => {})), 0)

/-- `blt.open` (14 R361). -/
def execBltOpen (d a b : Reg) (s : State) : Host.Outcome State Fault Refusal :=
  issue {} (.bltOpen d a b) (fun _ => 8) (fun s => s.askUnit (.bltOpen d a b) d 8) s

/-- `blt.post` (14 R361). -/
def execBltPost (d a b : Reg) (s : State) : Host.Outcome State Fault Refusal :=
  issue {} (.bltPost d a b) (fun _ => 8) (fun s => s.askUnit (.bltPost d a b) d 8) s

/-- `blt.read` (14 R361): it goes to the ballot unit in order with the core's other commands. -/
def execBltRead (d a : Reg) (sel : BitVec 4) (s : State) : Host.Outcome State Fault Refusal :=
  issue {} (.bltRead d a sel) (fun _ => 8) (fun s => s.askUnit (.bltRead d a sel) d 8) s

/-- `blt.close` (14 R361). -/
def execBltClose (d a : Reg) (s : State) : Host.Outcome State Fault Refusal :=
  issue {} (.bltClose d a) (fun _ => 8) (fun s => s.askUnit (.bltClose d a) d 8) s

end Sys2Proof.Machine
end

