-- ==== Sys2Proof/Machine/Image.lean ====
section
/-! DEFINITION. Context images: their 256 KiB layout, how one is written to D and read back (spec 16 R394, R395, R401). -/

namespace Sys2Proof.Machine

/-- Bytes of an image. -/
def imageBytes : Nat := 2 ^ 18

/-- A table made of the values at 0 to n − 1. -/
def tabOf {α : Type} [DecidableEq α] (d : α) (n : Nat) (f : Nat → α) : Tab α := (List.range n).foldl (fun t i => Tab.set d t i (f i)) []

/-- The 64 bytes of a buffer descriptor (07 R158). -/
def CbDesc.image (d : CbDesc) : Nat :=
  d.handle + put d.base 16 + put d.slotsz 64 + put d.nslot 81 + put d.trl 96 + put d.prod 112 + put d.cons 116 + put (bit d.vrel) 120
    + put d.pptr 128 + put d.vptr 137 + put d.cptr 146 + put d.fptr 155 + put d.kptr 164 + put (bit d.ph) 173 + put (bit d.valid) 174
    + put d.npend 175

/-- The descriptor of those bytes. -/
def cbOfBytes (m : BitVec 512) : CbDesc :=
  { cbOfImage m with
    pptr := fld m 128 9, vptr := fld m 137 9, cptr := fld m 146 9, fptr := fld m 155 9, kptr := fld m 164 9, ph := m.getLsbD 173
    valid := m.getLsbD 174, npend := fld m 175 3, seen := fld m 137 9 != 0 }

/-- The two opaque areas of an image with their place in it. What they hold is the core's own affair: free bytes, which stand for the
rest of the context. -/
def opaque1 (tok : Nat) : List Byte := leBytes (Config.freeNat tok 0xE0) 1280
def opaque2 (tok : Nat) : List Byte := leBytes (Config.freeNat tok 0xE1) 54272

/-- IMPL of this core (05 R117). -/
def implNo : Nat := 1

/-- The state words of an image (16 R394). -/
def Ctx.words (x : Ctx) (core now digest : Nat) : List Nat :=
  let f := x.f
  let c := x.csr
  let vbs := ((List.range 16).map (fun r => put (bankCode ((Tab.get .off x.r.bank r).at now)) (2 * r))).foldl (· + ·) 0
  [implNo + put f.part 16 + put f.level 18, f.pc]
    ++ (List.range 4).map (fun i => (Tab.get 0 x.r.l i).toNat) ++ (List.range 4).map (fun i => Tab.get 0 f.ls i)
    ++ [f.rotb, f.rotlo, vbs] ++ (List.range 4).map x.r.liveWord ++ [f.phpc, f.codeh.toNat, x.tlMe.value, x.tlCe.value, x.tlVp.value, x.tlAt.value,
      c.dmbClus ||| 2 ^ coreOf core ||| put c.dmbMod 32, c.dmbDie ||| 2 ^ (core % 48), x.gov.word, x.pinsWord, c.segEv,
      bit f.act + put (bit f.step) 1 + put (bit f.brken) 2, f.tvec.toNat, digest % 2 ^ 64, digest / 2 ^ 64]
    ++ [c.arrInfo, c.arrBatch, c.arrDep, c.arrRot, c.taskInfo, c.taskRec, c.taskArg, c.taskJoin, c.rqSel, c.cpSel, c.rpRq, c.rpLen, c.rpRot,
        c.rpTag].map BitVec.toNat
    ++ (List.range 4).map (fun i => (Tab.get 0 c.rpSamp i).toNat) ++ [c.rpHash.toNat, c.rpCtl.toNat / 2 * 2 + bit x.rp.isSome]

/-- The bits of a container that hold its value: the low 29 are zero (03 R61). -/
def accMask : Word := BitVec.ofNat 64 (2 ^ 64 - 2 ^ 29)

/-- Element e of the accumulator as its container (03 R61); undefined after a cancellation. -/
def Ctx.accWord (x : Ctx) (e : Nat) : Word := (match x.accFree with
  | some n => Config.freeWord n e
  | none => Tab.get 0 x.acc e) &&& accMask

/-- The bits of ARR.INFO and of the cut that are not reserved (11 R283, 16 R382). -/
def arrMask : Nat := 2 ^ 59 - 1 - 2 ^ 21
def cutMask : Nat :=
  let q := 2 ^ 193 - 1 + put (2 ^ 16 - 1) 200
  2 ^ 384 - 1 + ((List.range 4).map (fun i => put q (512 + 256 * i))).foldl (· + ·) 0 + put 7 1536 + put 15 1540

/-- The parts of an image: offsets and bytes (16 R394). -/
def Ctx.parts (x : Ctx) (core now tok : Nat) : List (Nat × List Byte) :=
  let o1 := opaque1 tok
  let o2 := opaque2 tok
  let many := fun (off size n : Nat) (f : Nat → Nat) => (List.range n).map (fun i => (off + size * i, leBytes (f i) size))
  many 0 8 64 (fun i => (Tab.get 0 x.r.s i).toNat) ++ many 0x200 8 64 (fun i => (Tab.get 0 x.r.p i).toNat)
    ++ [(0x400, (((x.words core now (shake128 (o1 ++ o2))) ++ List.replicate 12 0).map (fun w => leBytes w 8)).flatten)]
    ++ many 0x600 64 16 (fun i => (x.cbk i).image) ++ [(0xA00, leBytes x.cut.toNat 256), (0xB00, o1)]
    ++ ((List.range 16).filter (fun b => (Tab.get .off x.r.bank b).at now != .off)).map (fun b =>
        (0x1000 + 1024 * b, ((List.range 16).map (fun j => leBytes (Tab.get 0 x.r.v (16 * b + j)).toNat 64)).flatten))
    ++ many 0x5000 64 256 (fun i => (Tab.get 0 x.tmpl i).toNat) ++ many 0x9000 32 32 (fun i => (Tab.get 0 x.fmt i).toNat)
    ++ (List.range 64).map (fun t => (0x9400 + 64 * t, ((x.program t).map (fun w => leBytes w.toNat 2)).flatten))
    ++ (List.range 16).map (fun i => (0xA400 + 2176 * i, let b := Tab.get [] x.mask i; b ++ List.replicate (2176 - b.length) 0))
    ++ [(0x12C00, o2)] ++ many 0x20000 8 16384 (fun e => (x.accWord e).toNat)

/-- A context's image written to D or to the shadow slot; the core remembers what its opaque areas stand for. -/
def State.writeImage (s : State) (key : Nat) (x : Ctx) : State :=
  let s1 := (x.parts s.cix s.core.ccyc s.free).foldl (fun s p => s.wrN (key + p.1) p.2) s
  s1.fresh.mapCore (fun c => { c with shadow := { c.shadow with images := Tab.put c.shadow.images s.free (some (x, true)) } })

/-- A program of an image: its words up to the last one (08 R179). -/
def trimProgram : List EpWord → List EpWord
  | [] => []
  | w :: ws => if w = 0xF000 then [w] else w :: trimProgram ws

/-- The checks of an image (16 R401). -/
def State.imageGood (s : State) (key part : Nat) : Bool :=
  let w := fun (i : Nat) => s.rdLE (key + 0x400 + 8 * i) 8
  w 0 % 2 ^ 16 == implNo && w 0 / 2 ^ 16 % 4 == part && w 0 / 2 ^ 20 == 0 && (List.range 12).all (fun i => w (52 + i) == 0)
    && w 30 + put (w 31) 64 == shake128 (s.rdN (key + 0xB00) 1280 ++ s.rdN (key + 0x12C00) 54272)

/-- The core, the number and the context of an image whose opaque areas are recognised. -/
def State.knownImage (s : State) (key : Nat) : Option (Nat × Nat × Ctx × Bool) :=
  let o1 := s.rdN (key + 0xB00) 1280
  let o2 := s.rdN (key + 0x12C00) 54272
  (s.cix :: s.others.map (·.1)).findSome? (fun k => (s.getCore k).shadow.images.findSome? (fun p =>
    match p.2 with
    | some (x, l) => if opaque1 p.1 = o1 ∧ opaque2 p.1 = o2 then some (k, p.1, x, l) else none
    | none => none))

/-- A timeline of an image that is not recognised: nothing is under way. -/
def timelineAt (v : Nat) : Timeline := { issued := v, value := v }

/-- The architected part of an image laid over a context; `known` where its opaque areas were recognised, whose timelines, pins, events
and power words then go on. -/
def State.overlay (s : State) (key : Nat) (y : Ctx) (known : Bool) : Ctx :=
  let rd := fun (off n : Nat) => s.rdLE (key + off) n
  let w := fun (i : Nat) => rd (0x400 + 8 * i) 8
  let ww := fun (i : Nat) => BitVec.ofNat 64 (w i)
  let low := fun (i n : Nat) => BitVec.ofNat 64 (w i % 2 ^ n)
  let clear := fun (v b : Nat) => if tbit v b then v - 2 ^ b else v
  let bankOf := fun (i : Nat) => if w 12 / 4 ^ i % 4 = 0 then Bank.full else if w 12 / 4 ^ i % 4 = 1 then .ret else .off
  let lo := min 16 (w 11 % 32)
  let x : Ctx := { y with
    r := { s := tabOf 0 64 (fun i => if i = 0 then 0 else BitVec.ofNat 64 (rd (8 * i) 8))
           l := tabOf 0 4 (fun i => BitVec.ofNat 32 (w (2 + i)))
           v := (List.range 256).foldl (fun t i => if bankOf (i / 16) = .off then t else Tab.set 0 t i (BitVec.ofNat 512 (rd (0x1000 + 64 * i) 64))) []
           p := tabOf 0 64 (fun i => if i = 0 then 0 else BitVec.ofNat 64 (rd (0x200 + 8 * i) 8))
           live := tabOf false 256 (fun i => tbit (w (13 + i / 64)) (i % 64))
           bank := tabOf .off 16 bankOf }
    f := { y.f with
      pc := w 1 % 2 ^ 48 / 32 * 32, codeh := BitVec.ofNat 12 (w 18), level := w 0 / 2 ^ 18 % 2, part := w 0 / 2 ^ 16 % 4
      rotlo := lo, rotb := if lo = 16 then 0 else w 10 % 16 % (16 - lo), ls := tabOf 0 4 (fun i => w (6 + i) % 2 ^ 48 / 64 * 64), phpc := w 17 % 2 ^ 48 / 64 * 64, tvec := tvecOf (ww 29)
      act := tbit (w 28) 0, step := tbit (w 28) 1, brken := tbit (w 28) 2 }
    cb := tabOf {} 16 (fun i => cbOfBytes (BitVec.ofNat 512 (rd (0x600 + 64 * i) 64)))
    cut := BitVec.ofNat 2048 (rd 0xA00 256 &&& cutMask)
    tmpl := tabOf 0 256 (fun i => BitVec.ofNat 512 (rd (0x5000 + 64 * i) 64))
    fmt := tabOf 0 32 (fun i => BitVec.ofNat 256 (rd (0x9000 + 32 * i) 32))
    ep := tabOf [0xC000, 0xF000] 64 (fun t => trimProgram (epWords (rd (0x9400 + 64 * t) 64) 32))
    mask := tabOf [] 16 (fun i => let b := s.rdN (key + 0xA400 + 2176 * i) 2176; if b.all (· == 0) then [] else b)
    acc := tabOf 0 16384 (fun e => BitVec.ofNat 64 (rd (0x20000 + 8 * e) 8) &&& accMask)
    accFree := none
    gov := if known then y.gov else { bfloor := w 25 / 2 ^ 18 % 2 ^ 9, opfloor := w 25 / 2 ^ 32 % 2 ^ 11 }
    csr := { dmbClus := clear (w 23 % 2 ^ 8) (coreOf s.cix), dmbDie := clear (w 24 % 2 ^ 48) (s.cix % 48), dmbMod := w 23 / 2 ^ 32
             segEv := if known then y.csr.segEv else w 27 % 16
             arrInfo := BitVec.ofNat 64 (w 32 &&& arrMask), arrBatch := ww 33, arrDep := ww 34, arrRot := low 35 32, taskInfo := low 36 11, taskRec := ww 37, taskArg := ww 38
             taskJoin := ww 39, rqSel := low 40 8, cpSel := ww 41, rpRq := low 42 8, rpLen := low 43 32, rpRot := low 44 32, rpTag := low 45 16
             rpSamp := tabOf 0 4 (fun i => ww (46 + i)), rpHash := ww 50
             rpCtl := if known then y.csr.rpCtl else BitVec.ofNat 64 (w 51 % 64 / 2 * 2) } }
  if known then x
  else
    { x with tlMe := timelineAt (w 19), tlCe := timelineAt (w 20), tlVp := timelineAt (w 21), tlAt := timelineAt (w 22)
             pins := tabOf none 4 (fun i =>
               let q := w 26 / 2 ^ (16 * i)
               if tbit q 15 then (s.segAt s.station (q % 2 ^ 10)).map (fun p => { slot := q % 2 ^ 10, sid := p.seg.sid }) else none) }

/-- A context of its own on the core in focus: it has a number of its own, no pool, and its floors anew (log 155); intakes that it waited for are
over. -/
def State.ownContext (s : State) (x : Ctx) : State × Ctx :=
  let y := { x with cid := s.core.nextCid, gov := { x.gov with pool := 0, ptgt := 0 } }.intakeAt none s.core.ccyc
  ((s.mapCore (fun c => { c with nextCid := c.nextCid + 1 })).govEnters y, y)

/-- The slot of the core in focus holds no current image any more (16 R395). -/
def State.dropSlot (s : State) : State :=
  let gone := if s.core.shadow.slotv then (s.knownImage (rSh s.cix)).map (fun p => p.2.1) else none
  s.mapCore (fun c => { c with shadow := { c.shadow with
    slotv := false
    images := match gone with
      | some tok => Tab.put c.shadow.images tok none
      | none => c.shadow.images } })

/-- The words of an image are read (16 R393): the state after it, and that none of them is uncorrectable. An error has no phase of the image's
own: it counts for the running stream. The shadow storage has no space code and no handle: a free one is reported. -/
def State.readImage (s : State) (key space ha : Nat) : State × Bool :=
  let t := s.consume (keysFrom key imageBytes) space ha s.core.ctx.phase
  (t, !s.fails t)

/-- The context in the slot: it is still the same one, however often it is filled. -/
def State.slotImage (s : State) : State × Ctx :=
  match s.knownImage (rSh s.cix) with
  | none => s.ownContext (s.overlay (rSh s.cix) {} false)
  | some (_, _, x, _) => (s, s.overlay (rSh s.cix) x true)

/-- The context of an image: the state after it is taken, and the context. One that was filled before, or that another core wrote, is a context
of its own. -/
def State.takeImage (s : State) (key : Nat) : State × Ctx :=
  match s.knownImage key with
  | none => s.ownContext (s.overlay key {} false)
  | some (k, tok, x, live) =>
    if live then
      let s1 := s.updCore k (fun c => { c with shadow := { c.shadow with images := Tab.put c.shadow.images tok (some (x, false)) } })
      if k = s.cix then (s1, s.overlay key x true) else (s1.govLeaves k x).ownContext (s.overlay key x true)
    else s.ownContext (s.overlay key x true)

end Sys2Proof.Machine
end

