-- ==== Sys2Proof/Machine/Ctx.lean ====
section
/-! DEFINITION. Contexts: `trap`, `brk`, `idle`, `eret`, swaps, spills and fills, launch contexts, freeze timeout, containment, stage refetch, core reset (spec 04 R90; 12 R312; 16 R376 to R401). -/

namespace Sys2Proof.Machine

/-! ### `trap`, `brk`, `idle`, `eret` (16 R398 to R400) -/

/-- A trap after issue: it waits for the boundary behind its bundle; an operation that is executed alone takes it there at once. -/
def State.trapAfter (s : State) (code : Nat) (detail : BitVec 16) : State :=
  let s1 := s.pend { code := code, part := 1, detail := detail.toNat }
  if s.core.iss.bundle then s1 else (s1.mapFlow (fun f => { f with pc := (f.pc + 32) % codeSpace })).boundary

/-- `trap` (16 R398). -/
def execTrap (code : BitVec 16) (s : State) : Host.Outcome State Fault Refusal :=
  issue {} (.trap code) (fun _ => 1) (fun s => s.trapAfter cTrapInsn code) s

/-- `brk` (16 R398). -/
def execBrk (code : BitVec 16) (s : State) : Host.Outcome State Fault Refusal :=
  issue {} (.brk code) (fun _ => 1) (fun s => if s.core.ctx.f.brken then s.trapAfter cBreakpoint code else s) s

/-- `idle` (16 R399). The check core catches up once it has issued, its own bundle included. -/
def execIdle (s : State) : Host.Outcome State Fault Refusal :=
  issue {} .idle (fun _ => 1) (fun s =>
    let t := s.mapFlow (fun f => { f with idle := true })
    if s.core.iss.bundle then t else t.catchUp) s

/-- Load commands, which a front may stop at (16 R381). -/
def isLoad : Instr → Bool
  | .mtLd .. | .ftLd .. | .epLd .. | .atMask .. => true
  | _ => false

/-- Front of a queue number. -/
def queueFront (q : Nat) : Front := if q = 0 then .me else if q = 1 then .ce else if q = 2 then .pae else .dae

/-- The load command at a front. -/
def Ctx.frontLoad (x : Ctx) (q : Nat) : Option Cmd :=
  x.cmds.find? (fun m => m.sent.isSome && isLoad m.ins && (cmdFronts m.ins).contains (queueFront q))

/-- A stopped queue's first entry is discarded (16 R381): a load without effect, an operation with its number completed as abandoned. -/
def Ctx.dropStopped (x : Ctx) (q : Nat) (st : Stop) : Ctx :=
  if st.load then
    match x.frontLoad q with
    | some m => { x with cmds := x.cmds.filter (fun o => o.serial != m.serial) }
    | none => x
  else if q = 0 then
    match x.meq with
    | o :: rest => { x with meq := rest }.abandon (0, o.num)
    | [] => x
  else
    match x.atHead (q == 3) with
    | some o => { x with atq := x.atq.filter (fun a => a.num != o.num) }.abandon (1, o.num)
    | none => x

/-- The stop of a queue. -/
def Ctx.stopOf (x : Ctx) (q : Nat) : Option Stop :=
  if q = 0 then x.meStop else if q = 1 then x.ceStop else if q = 2 then x.paeStop else x.daeStop

/-- Stopped queues start again: the entry is retried, or discarded where TRAP.QCTL has the queue's bit (16 R381). -/
def Ctx.restart (x : Ctx) (qctl : Nat) : Ctx :=
  let y := (List.range 4).foldl (fun (y : Ctx) q => match x.stopOf q with
    | some st => if tbit qctl q then y.dropStopped q st else y
    | none => y) x
  { y with meStop := none, ceStop := none, paeStop := none, daeStop := none }

/-- `eret`: the check core catches up, the status comes back, stopped queues start again, and control passes to TRAP.PC without a
squash (16 R400). -/
def State.eret (s : State) : State :=
  let q := s.core.trap.qctl.toNat
  ((s.catchUp.trapReturn).mapCtx (fun x => x.restart q)).mapCore (fun c =>
    { c with trap := { c.trap with qctl := 0 }, iss := { c.iss with taken := some 3 } })

def execEret (s : State) : Host.Outcome State Fault Refusal := issue {} .eret (fun _ => 1) State.eret s

/-! ### Swaps (16 R395 to R397) -/

/-- Issue cycle to which the results in flight of a context that does not run are referred. -/
def storedCyc : Nat := 2 ^ 40

/-- The issue cycle of the next bundle of the running stream. -/
def Core.nextIssue (c : Core) : Nat := c.icyc + (if c.gapIss then c.gap else 0)

/-- A bank as a save has it: one that wakes is saved in RET (05 R116). -/
def Bank.saved (b : Bank) (now : Nat) : Bank :=
  match b.at now with
  | .waking _ => .ret
  | b => b

/-- The running context as it is put aside: its results in flight wait, its phases lose their snapshots, it waits for nothing. -/
def Core.putAside (c : Core) : Ctx :=
  let x := c.ctx
  { x with fl := x.fl.shift c.nextIssue storedCyc, f := { x.f with idle := false }
           r := { x.r with bank := x.r.bank.map (fun b => (b.1, b.2.saved c.ccyc)) }
           stepAt := none
           phases := x.phases.map (fun p => { p with restart := none, snap := none }) }

/-- An `hset` or `hinv`, for whose effect the core is frozen (09 R208). -/
def setsHandle : Instr → Bool
  | .hset .. | .hinv _ => true
  | _ => false

/-- Another context begins to run `n` cycles from now: no wait goes on but that for a handle write of its own. -/
def State.runCtx (s : State) (y : Ctx) (n : Nat) : State :=
  s.mapCore (fun c =>
    { c with ctx := { y with fl := y.fl.shift storedCyc c.nextIssue }, icyc := c.nextIssue, wait := none, offer := none, frz := {}
             gap := n, gapIss := false, swap := none, holdCmd := (y.cmds.find? (fun m => setsHandle m.ins)).map (·.serial) })

/-- What a swap does first: a wait in `bar` ends with code 1 (12 R308), and the check core catches up. -/
def State.leave (s : State) : State := (s.endBar 1).catchUp

/-- The core cycles in which a channel moves a whole image: 2048 ring cycles of 1.3 GHz, at the cluster's present clock (16 R395). -/
def State.moveTime (s : State) : Nat := (2048 * s.cluster.pow.fcur + 1299) / 1300

/-- The result of `ctx.swap` is there: it is held with the outgoing context, and lands when that runs again (16 R401). -/
def State.swapResult (s : State) : State :=
  match s.core.swap with
  | some n => s.deliver n 0
  | none => s

/-- A shadow swap (16 R395): the running context and the bank change places, and the outgoing one spills to the slot. -/
def State.shadowSwap (s : State) : State :=
  match s.core.shadow.bank with
  | none => s.swapResult.mapCore (fun c => { c with swap := none })
  | some y =>
    let s1 := s.swapResult.leave
    let x := s1.core.putAside
    (s1.dropSlot.runCtx y 48).mapCore (fun c =>
      { c with shadow := { c.shadow with st := .spilling, bank := some x, spillTo := some none, spillAt := c.ccyc + 48 + s.moveTime,
                                         spillEnds := false } })

/-- The image in D that `ctx.spill` and `ctx.fill` name: none names the slot (16 R401). -/
def ctxReqs (i : Instr) (s : State) : List MemReq :=
  let one := fun (a : Reg) (wr : Bool) =>
    if a = 0 then [] else [({ ha := (s.arg i 0).toNat, n := imageBytes, align := 65536, rd := !wr, wr := wr, spaces := [spD] } : MemReq)]
  match i with
  | .ctxSpill _ a => one a true
  | .ctxFill _ a => one a false
  | _ => []

/-- Faults of its address. -/
def ctxFault (i : Instr) (s : State) : Option TrapInfo :=
  let rs := ctxReqs i s
  ((firstMisaligned rs).or (firstFault s rs)).map (fun x => accessTrap .e x.1 x.2)

def famCtx : Family := { fault := ctxFault, reqs := ctxReqs }

/-- `ctx.swap` (16 R401). -/
def execCtxSwap (d : Reg) (s : State) : Host.Outcome State Fault Refusal :=
  issue famCtx (.ctxSwap d) (fun _ => 1) (fun s =>
    if s.isLaunchCore then s.setS .e d 3 1
    else
      match s.core.shadow.st with
      | .full | .spilling => (s.awaitS .e d 1 s.nextSerial).mapCore (fun c => { c with swap := some s.nextSerial, serial := max c.serial s.nextSerial })
      | _ => s.setS .e d 1 1) s

/-- Byte key of an image's place in D, as the entry of its handle had it at issue (09 R206). -/
def State.imageKey (s : State) (i : Instr) : List Nat := ((ctxReqs i s).map (fun r => (s.reqAccess r).keys)).flatten.take 1

/-- `ctx.spill` (16 R401). -/
def execCtxSpill (d a : Reg) (s : State) : Host.Outcome State Fault Refusal :=
  issue famCtx (.ctxSpill d a) (fun _ => 8) (fun s =>
    (s.sendCmd (.ctxSpill d a) [] (s.imageKey (.ctxSpill d a))).awaitS .e d 8 s.nextSerial) s

/-- `ctx.fill` (16 R401). -/
def execCtxFill (d a : Reg) (s : State) : Host.Outcome State Fault Refusal :=
  issue famCtx (.ctxFill d a) (fun _ => 8) (fun s =>
    (s.sendCmd (.ctxFill d a) [] (s.imageKey (.ctxFill d a))).awaitS .e d 8 s.nextSerial) s

/-- `ctx.spill` at the context engine: its code. -/
def State.startSpill (s : State) (m : Cmd) : State × Nat :=
  let h := s.core.shadow
  match h.st with
  | .empty | .filling => (s, 1)
  | _ =>
    if h.spillTo.isSome then (s, 2)
    else
      ((if m.keys.isEmpty then s.dropSlot else s).mapCore (fun c => { c with shadow := { c.shadow with
        st := .spilling, spillTo := some m.keys.head?, spillEnds := true, spillAt := c.ccyc + s.moveTime } }), 0)

/-- `ctx.fill` at the context engine: its code. -/
def State.startFill (s : State) (m : Cmd) : State × Nat :=
  let h := s.core.shadow
  if s.isLaunchCore then (s, 3)
  else if h.fillFrom.isSome then (s, 2)
  else if !(h.st == .empty || (h.st == .full && h.slotv)) then (s, 1)
  else (s.mapCore (fun c => { c with shadow := { h with st := .filling, bank := none, fillFrom := some m.keys.head?,
                                                          fillAt := c.ccyc + s.moveTime, fres := 0 } }), 0)

/-- CTX_SPILL_COMPLETE (16 R395): the outbound channel has moved the whole bank. -/
def State.spillComplete (s : State) : State :=
  let h := s.core.shadow
  if s.core.ccyc < h.spillAt then s else
  match h.spillTo, h.bank with
  | some dest, some x =>
    let s1 := match dest with
      | some key => s.writeImage key x
      | none => (s.writeImage (rSh s.cix) x).mapCore (fun c => { c with shadow := { c.shadow with slotv := true } })
    s1.mapCore (fun c => { c with shadow := { c.shadow with st := if h.spillEnds then .empty else .full, bank := if h.spillEnds then none else some x,
                                                            spillTo := none, spillEnds := false } })
  | _, _ => s

def execCtxSpillComplete (s : State) : Host.Outcome State Fault Refusal := .next s.spillComplete

/-- CTX_FILL_COMPLETE (16 R395, R401): the image is checked, and the bank is FULL or EMPTY. -/
def State.fillComplete (s : State) : State :=
  let h := s.core.shadow
  let done := fun (s : State) (x : Ctx) => s.mapCore (fun c => { c with shadow := { c.shadow with st := .full, bank := some x, fillFrom := none, fres := 0 } })
  let refuse := fun (s : State) => s.mapCore (fun c => { c with shadow := { c.shadow with st := .empty, bank := none, fillFrom := none, fres := 4 } })
  if s.core.ccyc < h.fillAt then s else
  match h.fillFrom with
  | none => s
  | some none =>
    let (t, ok) := s.readImage (rSh s.cix) (Config.freeNat s.free 0xE3 % 16) (8 * Config.freeNat s.free 0xE4)
    if ok && h.slotv && t.imageGood (rSh s.cix) s.part then (let r := t.slotImage; done r.1 r.2) else refuse t
  | some (some key) =>
    let (t, ok) := s.readImage key spD (8 * Config.freeNat s.free 0xE4)
    if ok && t.imageGood key s.part then (let r := t.takeImage key; done r.1 r.2) else refuse t

def execCtxFillComplete (s : State) : Host.Outcome State Fault Refusal := .next s.fillComplete

/-- A partition swap (16 R396) with its images in D: the incoming image is filled, while a context of the outgoing partition in the bank
spills behind the place of the outgoing one; contexts change places, and the outgoing one spills. -/
def State.partitionSwap (s : State) (part imageIn imageOut : Nat) : State :=
  let base := rD s.station
  let n := s.moveTime
  let s1 := (s.swapResult.leave.readImage (base + imageIn) spD (8 * Config.freeNat s.free 0xE4)).1
  let (s2, y) := s1.takeImage (base + imageIn)
  let s3 := match s2.core.shadow.bank with
    | some z => if z.f.part = s.part then s2.writeImage (base + imageOut + imageBytes) z else s2
    | none => s2
  let x := s3.core.putAside
  (s3.dropSlot.runCtx { y with f := { y.f with part := part } } (n + 48)).mapCore (fun c =>
    { c with pswap := none, shadow := { c.shadow with st := .spilling, bank := some x, spillTo := some (some (base + imageOut)),
                                                      spillAt := c.ccyc + n + 48 + n, spillEnds := false, fillFrom := none } })

/-- PARTITION_SWAP, on a core of a cluster that partitions share in time (16 R396, R397). A containment comes first. -/
def execPartitionSwap (part : BitVec 2) (imageIn imageOut : Nat) (s : State) : Host.Outcome State Fault Refusal :=
  if s.isLaunchCore || !tbit s.cluster.owner part.toNat || 2 ^ 32 < imageIn + imageBytes || 2 ^ 32 < imageOut + imageBytes then .fault .noSuchPlace
  else if s.core.err.isSome then .next (s.mapCore (fun c => { c with pswap := some (part.toNat, imageIn, imageOut) }))
  else .next (s.partitionSwap part.toNat imageIn imageOut)

/-! ### Launch contexts (12 R312; 16 R397) -/

/-- The context in which a launch program starts. -/
def State.launchCtx (s : State) (l : Launch) (trapHandle : BitVec 12) : Ctx :=
  let f := s.core.ctx.f
  { cid := s.core.nextCid
    f := { pc := 64 * l.entry, codeh := if f.act then trapHandle else f.codeh, level := 1, part := l.part, tvec := f.tvec }
    csr := { taskInfo := BitVec.ofNat 64 (3 + (if l.admitted then put l.rqix 2 + put 1 10 else 0)), taskArg := BitVec.ofNat 64 l.arg
             taskJoin := noJoin }
    task := { launch := true, entry := l.entry, addr := l.addr } }

/-- A launch starts on the core in focus, its launch core, at a bundle boundary. -/
def State.startLaunch (s : State) (l : Launch) : State :=
  let s1 := s.leave
  let y := s1.launchCtx l (s1.core.trap.pc.extractLsb' 48 12)
  let x := s1.core.putAside
  let s2 := (s1.runCtx y 48).mapCore (fun c => { c with launchCtx := x :: c.launchCtx, nextCid := c.nextCid + 1 })
  s2.taskPhase l.entry

/-- Work of a context is still under way: it has commands, records, operations or copies, or a pool. -/
def Core.busyCtx (c : Core) (x : Ctx) : Bool :=
  !(x.cmds.isEmpty && x.commits.isEmpty && x.meq.isEmpty && x.atq.isEmpty && x.rp.isNone) || x.gov.pool != 0
    || c.me.any (fun m => m.owner == x.cid) || c.copies.any (fun k => k.owner == x.cid) || c.atRun.any (fun a => a.owner == x.cid)
    || [x.tlMe, x.tlCe, x.tlVp, x.tlAt].any (fun t => !t.pubs.isEmpty)

/-- A `task.end`, which waits at its due cycle in a launch context until the core swaps back (12 R312). -/
def endsTask : Instr → Bool
  | .taskEnd .. => true
  | _ => false

/-- The task of a launch context has ended, and its operations with Q have come to their due cycles (12 R302, R312). -/
def State.launchOver (s : State) : Bool :=
  let x := s.core.ctx
  x.task.launch && x.task.ended && x.fl.defer.all (fun d => endsTask d.ins) && !s.core.launchCtx.isEmpty

/-- A launch context whose task has ended gives the core back to the context it interrupted; what of it is under way runs on. -/
def State.launchReturn (s : State) : State :=
  let x := { s.core.putAside with pins := [] }
  match s.core.launchCtx with
  | y :: rest => if s.launchOver then
      (s.runCtx y 48).mapCore (fun c => { c with launchCtx := rest, endedCtx := (x :: c.endedCtx).filter c.busyCtx }) else s
  | [] => s

/-! ### Trap entry and the freeze timeout (16 R378, 04 R90) -/

/-- TRAP_ENTRY: the boundary takes the first cause that is pending. -/
def execTrapEntry (s : State) : Host.Outcome State Fault Refusal := .next s.boundary

/-- What a Late freeze awaits: when it issued, its slot, and the register it writes, if it writes one. -/
structure Awaited where
  iat : Nat
  slot : Slot
  dst : Option Dst

/-- The result or effect that a Late freeze awaits: the oldest, in slot order; of a block of registers the first that is in flight (log 147);
an access of the next bundle that misses its translation is the youngest. -/
def State.awaited (s : State) : Option Awaited :=
  let fl := s.core.ctx.fl
  let l := (fl.pend.filter (fun p => decide (p.due ≤ s.core.icyc) && !p.there s.core.ccyc)).map (fun p => ({ iat := p.iat, slot := p.slot, dst := some p.dst } : Awaited))
    ++ (fl.defer.filter (fun d => decide (d.due ≤ s.core.icyc))).map (fun d => ({ iat := d.iat, slot := slotOf d.ins, dst := d.dests.head? } : Awaited))
  let l := l ++ (s.core.frz.await.map (fun a => ({ iat := s.core.icyc, slot := a.1, dst := a.2 } : Awaited))).toList
  l.foldl (fun b p => match b with
    | none => some p
    | some q => if p.iat < q.iat ∨ (p.iat = q.iat ∧ p.slot.ix < q.slot.ix) then some p else b) none

/-- Code of a file in the detail of a freeze timeout. -/
def fileCode : RFile → Nat
  | .s => 0
  | .v => 1
  | .p => 2

/-- Class code of a freeze. -/
def FrzClass.code : FrzClass → Nat
  | .late => 0
  | .port => 1
  | .wake => 2
  | .fetch => 3
  | .wait => 0

/-- An operation with Q whose effect is a store, and one that is a command. -/
def storeOp : Instr → Bool
  | .st .. | .vst _ | .amo .. | .cas .. | .boArr .. | .dstc .. => true
  | _ => false

/-- TRAP.DETAIL of a freeze timeout (04 R90): what is abandoned. -/
def State.timeoutDetail (s : State) : Nat :=
  let fl := s.core.ctx.fl
  let cls := s.core.frz.cls
  let stores := fl.pend.filter (fun p => p.store)
  let cmds := fl.pend.filter (fun p => p.slot == .e)
  let here := fun (p : Pend) => match p.unit with
    | some n => s.core.ctx.cmds.any (fun m => m.serial == n)
    | none => false
  put cls.code 0
    + (if cls = .late then (match s.awaited.bind (·.dst) with
        | some p => put (fileCode p.file) 8 + put p.reg 10
        | none => put 3 8) else 0)
    + put ((stores.filter (fun p => p.unit.isNone)).length % 256) 24
    + put (((stores.filter (fun p => p.unit.isSome)).length + (fl.defer.filter (fun d => storeOp d.ins)).length) % 256) 32
    + put ((cmds.filter (fun p => !here p)).length % 256) 40
    + put (((cmds.filter here).length + (fl.defer.filter (fun d => slotOf d.ins == .e)).length) % 256) 48

/-- The slot that a freeze timeout reports: that of the awaited result. -/
def State.timeoutPart (s : State) : Nat :=
  if s.core.frz.cls = .late then (match s.awaited with
    | some a => a.slot.part
    | none => match s.core.holdCmd with
      | some _ => Slot.m.part
      | none => 7) else 7

/-- Results that have not landed are abandoned: their registers hold undefined values, and no access or command of theirs takes
effect any more (04 R90). A transient result that has landed stays as it is (R85). -/
def State.abandonAll (s : State) : State :=
  let fl := s.core.ctx.fl
  let units := fl.pend.filterMap (·.unit) ++ s.core.holdCmd.toList
  let s1 := s.mapCore (fun c =>
    { c with leases := c.leases.filter (fun l => !units.contains l.serial), holdCmd := none, bar := none
             ctx := { ((c.ctx.cmds.filter (fun m => units.contains m.serial)).map cmdNums).flatten.foldl Ctx.abandon c.ctx with
               cmds := c.ctx.cmds.filter (fun m => !units.contains m.serial)
               fl := { fl with pend := [], defer := [], das := [] } } })
  let all : List (Dst × Vec) := fl.pend.map (fun p => (p.dst, p.mask)) ++ ((fl.defer.map (·.dests)).flatten).map (fun d => (d, BitVec.allOnes 512))
  (all.mapIdx (fun k p => (k, p))).foldl (fun s e => s.putFile e.2.1 (Config.freeVec s.free (0x90000 + e.1)) e.2.2) s1

/-- FREEZE_TIMEOUT (04 R90): the line has been asserted for 65536 cycles through causes other than Wait. -/
def State.freezeTimeout (s : State) : State :=
  if s.core.frz.run < 65536 then s
  else
    let t : TrapInfo :=
      { code := cFreezeTimeout, part := s.timeoutPart, detail := s.timeoutDetail, addr := if s.core.frz.cls = .fetch then s.core.ctx.f.pc else 0 }
    (s.abandonAll).fresh.takeTrap t

def execFreezeTimeout (s : State) : Host.Outcome State Fault Refusal := .next s.freezeTimeout

/-! ### Containment (16 R387 to R393) -/

/-- An operation on a context that is not running, in its place. -/
def State.asOwner (s : State) (own : Nat) (f : State → State) : State :=
  if s.core.ctx.cid = own then f s
  else
    let x := s.core.ctx
    let s1 := f (s.mapCore (fun c => { c with ctx := c.ownerCtx own }))
    let y := s1.core.ctx
    s1.mapCore (fun c => { c with ctx := x }.onOwner own (fun _ => y))

/-- The stage that a byte lies in: buffer and slot of the running context that hold data not yet freed. -/
def State.stageAtKey (s : State) (key : Nat) : Option (Nat × Nat) :=
  let x := s.core.ctx
  (List.range 16).findSome? (fun k =>
    let d := x.cbk k
    if !d.valid then none
    else
      let e := s.hEnt s.station s.part d.handle
      ((List.range (d.dist d.pptr d.fptr)).map (fun i => (d.fptr + i) % d.n)).findSome? (fun i =>
        let base := localKey s.cix (hSpace e) (s.regionBase s.station s.part d.handle e + d.off i)
        if base ≤ key ∧ key < base + d.size then some (k, i) else none))

/-- ERR.INFO (16 R393). -/
def errInfo (e : ErrCause) (cont refetch : Bool) : Word :=
  BitVec.ofNat 64 (e.kind + put (if e.kind = 4 then e.space else 0) 4 + put (bit cont) 8 + put (bit refetch) 9
    + (if e.kind = 4 then put (e.syn % 128) 16 + put (bit e.par) 23 else 0))

/-- The oldest phase that is not committed. -/
def Ctx.oldest (x : Ctx) : Nat := ((x.commits.map (·.phase)).min?).getD x.phase

/-- The phase of a containment with its snapshot, if it can be contained (16 R390, R391). -/
def State.containable (s : State) (e : ErrCause) : Option (Phase × Nat × Snap) :=
  let x := s.core.ctx
  if e.owner ≠ x.cid || x.f.act || !(x.phase == e.phase || x.commits.any (fun r => r.phase == e.phase)) then none
  else
    match x.phases.find? (fun p => p.idx == e.phase) with
    | some p =>
      match p.restart, p.snap with
      | some pc, some sn => if decide (p.confirmAt ≤ s.core.checked) && !p.replayed then some (p, pc, sn) else none
      | _, _ => none
    | none => none

/-- Results of a cancelled phase never land; those of the bundles up to its restart point do. -/
def Flight.upTo (f : Flight) (cyc : Nat) : Flight :=
  { f with pend := f.pend.filter (fun p => decide (p.iat ≤ cyc)), trans := f.trans.filter (fun p => decide (p.iat ≤ cyc)),
           defer := f.defer.filter (fun p => decide (p.iat ≤ cyc)), das := f.das.filter (fun p => decide (p.iat ≤ cyc)) }

/-- Accesses that leave the core and were not compared when their phase is cancelled are not sent. -/
def Core.dropLeases (c : Core) (from_ : Nat) : Core :=
  { c with leases := c.leases.filter (fun l => !(leavesLease l.ins && decide (c.checked < l.bundle) && decide (from_ < l.bundle))) }

/-- The write of a recovery point that was not compared is not made: its sequence number is free again (17 R412). -/
def State.dropRecord (s : State) (from_ : Nat) : State :=
  match s.core.ctx.rp with
  | some w =>
    if s.core.checked < w.bundle ∧ from_ < w.bundle then
      (s.mapCtx (fun x => { x with rp := none })).updDie s.station (fun d => d.updReq (w.dir % 256) (fun e => { e with hseq := e.hseq - 1 }))
    else s
  | none => s

/-- Steps 1 and 2 of R390: commands of the cancelled phases are discarded, then the phases are cancelled. -/
def State.cancelFrom (s : State) (p : Nat) (bundle : Nat) : State :=
  ((((s.dropRecord bundle).mapCore (fun c => c.dropLeases bundle)).cancelPhases p true).catchUp).mapCore (fun c =>
    let live := fun (n : Nat) => c.ctx.cmds.any (fun m => m.serial == n)
    { c with wait := none, offer := none, frz := {}, swap := none
             ctx := { c.ctx with fl := c.ctx.fl.dropUnits c.swap.toList }
             bar := match c.bar with
               | some (l, n) => if live n then some (l, n) else none
               | none => none
             holdCmd := match c.holdCmd with
               | some n => if live n then some n else none
               | none => none })

/-- The phases are cancelled, and the trap of R391 is taken. -/
def State.uncontained (s : State) (e : ErrCause) : State :=
  let s1 := s.asOwner e.owner (fun s => s.cancelFrom (max e.phase s.core.ctx.oldest) s.core.checked)
  let s2 := s1.mapCore (fun c =>
    { c.nextErr with
        ctr := { c.ctr with uncontN := c.ctr.uncontN + 1 }
        trap := { c.trap with errInfo := errInfo e false false, errAddr := if e.kind = 4 then BitVec.ofNat 64 e.ha else 0 } })
  s2.takeTrap { code := if e.kind = 4 then cUe else cSde }

/-- A record of an earlier phase is still to apply before an error can be contained or raised (16 R389, R390). -/
def Core.earlierRecord (c : Core) (e : ErrCause) : Bool := (c.ownerCtx e.owner).commits.any (fun r => decide (r.phase < e.phase))

/-- CONTAINMENT (16 R390, R391): the cause that the core met is contained, once every earlier record has applied, or is raised as a
trap. -/
def State.contain (s : State) : State :=
  match s.core.err with
  | none => s
  | some e =>
    let x := s.core.ctx
    let clear := fun (s : State) (cont refetch : Bool) => s.mapCore (fun c =>
      { c.nextErr with trap := { c.trap with errInfo := errInfo e cont refetch, errAddr := if e.kind = 4 then BitVec.ofNat 64 e.ha else 0 } })
    let stage := s.stageAtKey e.key
    let rf := s.core.refetch.find? (fun r => r.owner == x.cid && some (r.cb, r.slot) == stage)
    if s.core.earlierRecord e then s
    else
    match s.containable e with
    | some (p, pc, sn) =>
      if e.kind ≠ 4 || stage.isNone || rf.isSome then
        let s1 := s.cancelFrom e.phase p.confirmAt
        let s2 := s1.mapCtx (fun y =>
          { y with mpc := 0, r := { y.r with s := sn.s, l := sn.l, p := sn.p }, fl := y.fl.upTo p.cyc, stepAt := none, phases := y.phases ++ [{ p with replayed := true }]
                   f := { y.f with ls := sn.ls, rotlo := sn.rotlo, rotb := sn.rotb, pc := pc, highPc := 0, skip := none, idle := false } })
        let s3 := match rf with
          | some r => if e.kind = 4 then s2.mapCore (fun c => { c with refetch := c.refetch.map (fun o => if o = r then { o with busy := true } else o) })
                      else s2
          | none => s2
        (clear s3 true (e.kind == 4 && rf.isSome)).mapCore (fun c => { c with gap := 3, gapIss := false, ctr := { c.ctr with replayN := c.ctr.replayN + 1 } })
      else s.uncontained e
    | none => s.uncontained e

def execContainment (s : State) : Host.Outcome State Fault Refusal := .next s.contain

/-- STAGE_REFETCH (16 R392): the CE takes up the rewriting of a slot from its recorded source, as a copy under no number. -/
def State.stageRefetch (s : State) : State :=
  match s.core.refetch.find? (fun r => r.busy) with
  | none => s
  | some r =>
    if s.core.copies.any (·.re) then s
    else
      let x := s.core.ownerCtx r.owner
      let k : Copy :=
        { num := 0, owner := r.owner, phase := x.phase, parm := { r.parm with ph := false }, re := true
          slots := [{ core := s.cix, slot := r.slot, done := true }], ent := s.entries (s.cpHandles x r.parm) }
      s.mapCore (fun c => { c with copies := c.copies ++ [{ k with stage := k.first }] })

def execStageRefetch (s : State) : Host.Outcome State Fault Refusal := .next s.stageRefetch

/-! ### Records that a reset meets (17 R403, R410, R412) -/

/-- A record may be written: its directory entry is valid, mirror work of its partition and die has not failed, the commits before it have
their sequence words in the domain (17 R408, R412), and the check core has compared its bundle, or the core waits for its stores, and five
cycles have passed (log 142). -/
def State.recordReady (s : State) (w : RpWrite) : Bool :=
  let k := Tab.get {} s.kv (w.dir / 256)
  (Tab.get {} s.rdir w.dir).valid && !k.mirErr && w.mir.all (fun n => decide (n ≤ Tab.get 0 k.mirLast w.seq))
    && (decide (w.bundle ≤ s.core.checked) || (s.core.wait.any (·.stores) && s.core.err.isNone)) && decide (w.clk + 5 ≤ s.core.ccyc)

/-- The four units of a record: where their bytes go, and the bytes. -/
def RpWrite.units (w : RpWrite) : List (List Host.Cell) := (List.range 4).map (fun i => ((List.zip w.keys w.bytes).drop (64 * i)).take 64)

/-- The records that are being written on some cores. -/
def State.recordsOf (s : State) (ks : List Nat) : List RpWrite :=
  (ks.map (fun k => ((s.getCore k).contexts.filterMap (·.rp)).filter (({ s with core := s.getCore k } : State).recordReady))).flatten

/-- Bytes written and stored in the checkpoint domain. -/
def State.writeDom (s : State) (l : List Host.Cell) : State := (s.wrKeys l).intoDomain l

/-- Units of the records that a reset or a hold of some cores catches are old or new, as a choice has it (17 R410). -/
def State.tearRecords (s : State) (ks : List Nat) : State :=
  ((s.recordsOf ks).map RpWrite.units).flatten.foldl (fun s u =>
    if Config.freeBool s.free (2 * (u.map (·.1)).headD 0) then s.writeDom u else s) s

/-! ### Core reset (16 R383) -/

/-- The lowest partition that owns the cluster of a core. -/
def State.firstPart (s : State) (k : Nat) : Nat :=
  ((List.range 4).find? (tbit (Tab.get {} s.clusters (clusterOf k)).owner)).getD 0

/-- A core as a core reset leaves it. The images that it put in D lie there still, and are contexts of their own when they are filled. -/
def State.freshCore (s : State) (k : Nat) : Core :=
  let im := (s.getCore k).shadow.images.map (fun e => (e.1, e.2.map (fun p => (p.1, false))))
  { ccyc := (Tab.get {} s.clusters (clusterOf k)).clk, ctx := { f := { part := s.firstPart k } }, shadow := { images := im } }

/-- Bytes of each buffer of a core: W, A, C, P (07 R152). -/
def bufBytes : List Nat := [4 * 2 ^ 20, 3 * 2 ^ 20, 2 * 2 ^ 20, 2 ^ 20]

/-- The buffers of a core hold undefined bytes (05 R118): each is a free value. -/
def State.scrambleBufs (s : State) (k : Nat) : State :=
  (bufBytes.mapIdx (fun sp n => (rBuf k sp, n))).foldl (fun s b =>
    s.wrN b.1 ((List.range b.2).map (fun i => BitVec.ofNat 8 (Config.freeNat s.free (b.1 + i))))) s

/-- What the module keeps for a core goes: its walks, its invalidation registers, its place in the barriers. -/
def State.forgetCore (s : State) (k : Nat) : State :=
  { s with
    walks := s.walks.filter (fun w => w.core != k), walkFault := s.walkFault.filter (fun w => w.1.core != k)
    tlbflVa := Tab.erase s.tlbflVa k, tlbflAll := Tab.erase s.tlbflAll k, bars := s.bars.filter (fun e => e.1 / 3 != k) }

/-- The attention operations that a core had fired are over for the pages that wait for them (13 R328; log 88). -/
def State.readersGone (s : State) (k : Nat) : State := (s.getCore k).atRun.foldl (fun s a => s.atGone k a.owner a.op.num) s

/-- A core reset: the core starts afresh, its buffers are undefined, and what the die keeps for it goes: its draw, its walks, its
invalidation registers, its place in the barriers, its attention operations (05 R118; 12 R307; 13 R328; 15 R366 to R370). A record that it was
writing is torn (17 R410). -/
def State.resetCore (s : State) (k : Nat) : State :=
  ((((((s.readersGone k).tearRecords [k]).powerGone k).setCore k (s.freshCore k)).scrambleBufs k).forgetCore k).fresh

/-- CORE_RESET: management resets a core. -/
def execCoreReset (core : Nat) (s : State) : Host.Outcome State Fault Refusal :=
  if 1536 ≤ core then .fault .noSuchPlace else .next (s.resetCore core)

end Sys2Proof.Machine
end

