-- ==== Sys2Proof/Machine/Ckpt.lean ====
section
/-! DEFINITION. The checkpoint domain: durable writes, KV mirror, recovery-point records, the whole-module checkpoint, restoring requests (spec 17 R403 to R418). -/

namespace Sys2Proof.Machine

/-! ### Durable places -/

/-- A place of the keep tier as a partition's tables have it, for a read or a write. -/
def State.gQuery (s : State) (part : Nat) (wr : Bool) (va : Nat) : TrQ :=
  match s.walk part va with
  | .ok leaf size =>
    match leafUse leaf (!wr) wr spG with
    | none => .ok (pAddr leaf + va % size)
    | some c => .bad c
  | .bad c => .bad c

/-- Keys of `n` bytes at a handle address of the keep tier, which may lie in two pages, if they can be read, or written (09 R205, R210). -/
def State.gKeys (s : State) (st part ha n : Nat) (wr : Bool) : Option (List Nat) :=
  let e := s.hEnt st part (haHandle ha)
  if !hValid e || hPart e ≠ part || hSpace e ≠ spG then none
  else
    match trBytes (s.gQuery part wr) spG (hBase e + haOff ha) n with
    | .ok ks => some ks
    | _ => none

/-- A durable write: performed, and on its way to the domain. -/
def State.durWrite (s : State) (core : Nat) (ks : List Nat) (bs : List Byte) : State :=
  let s1 := s.wrKeys (List.zip ks bs)
  { s1 with durq := s1.durq ++ [{ core := core, bytes := List.zip ks bs }] }

/-- No durable write to a byte of these is on its way. -/
def State.settledIn (s : State) (ks : List Nat) : Bool := s.durq.all (fun d => d.bytes.all (fun b => !ks.contains b.1))

/-- Bytes as a read finds them, with what can be corrected corrected (16 R393; 17 R418). -/
def State.fixedBytes (s : State) (ks : List Nat) : List Byte := if s.chk.isEmpty then s.rdKeys ks else ((s.scrub (wordsOf ks)).1).rdKeys ks

/-- Words of the keep tier hold something uncorrectable (17 R418). -/
def State.badWords (s : State) (ks : List Nat) : Bool := !s.chk.isEmpty && (wordsOf ks).any (fun w => match s.eccWord w with
  | .bad .. => true
  | _ => false)

/-! ### The KV mirror (17 R406 to R408) -/

/-- Offsets of the mirror area: M pages in all, of which `npage` lie on the die. -/
def mirPage (npage p : Nat) : Nat := if p < 2 ^ 17 then p else npage + (p - 2 ^ 17)
def mirBody (npage p : Nat) : Nat := 16384 * mirPage npage p
def mirHdr (npage m p : Nat) : Nat := 16384 * m + 64 * mirPage npage p
def mirLeaf (m sq : Nat) : Nat := 16448 * m + 16448 * sq
def mirWord (m sq : Nat) : Nat := mirLeaf m sq + 16384
def mirPol (m nseq : Nat) : Nat := 16448 * (m + nseq)

/-- Bytes of a leaf image; an entry with no page names none. -/
def leafBytes (l : List (Nat × Nat)) : List Byte :=
  ((List.range 4096).map (fun i => leBytes (((l.find? (fun p => p.1 == i)).map (·.2)).getD noPage) 4)).flatten

/-- What a mirror work writes in its steps 1 and 2: offsets and bytes. -/
def State.mirImages (s : State) (w : MirWork) : List (Nat × List Byte) :=
  let k := s.kvp w.station w.part
  let m := k.npage + k.nspill
  if w.free then []
  else
    (w.pages.map (fun p => [(mirBody k.npage p, s.rdN (bodyKey w.station w.part p) 16384), (mirHdr k.npage m p, leBytes (k.h p).toNat 64)])).flatten
      ++ [(mirLeaf m w.seq, leafBytes w.leaf), (mirPol m k.nseq, w.pol)]

/-- The checks of the mirror area (17 R406, R408): the cause of R205 that fails, or 0 for another fault. -/
def State.mirFault (s : State) (st part : Nat) : Option Nat :=
  let k := s.kvp st part
  let ha := k.kvmirb.toNat
  let e := s.hEnt st part (haHandle ha)
  match checkEnt e .kv part ha (mirPol (k.npage + k.nspill) k.nseq + 512) false true [spG] with
  | some c => some c
  | none => if !hDur e || ha % 65536 ≠ 0 then some 0 else none

/-- Keys of pieces of the area, if all can be reached. -/
def State.mirKeys (s : State) (st part : Nat) : List (Nat × List Byte) → Option (List (List Nat × List Byte))
  | [] => some []
  | (off, bs) :: t =>
    match s.gKeys st part (haAdd (s.kvp st part).kvmirb.toNat off) bs.length true, s.mirKeys st part t with
    | some ks, some r => some ((ks, bs) :: r)
    | _, _ => none

/-- Mirror work is given up: ERR is set, and a failed check is logged (17 R408). -/
def State.mirFail (s : State) (w : MirWork) (c : Nat) : State :=
  let s1 := { s.updKv w.station w.part (fun k => { k with mirErr := true }) with
    mirq := s.mirq.filter (fun o => !(o.station == w.station && o.part == w.part && o.num == w.num)) }
  if logged c then s1.logV (hViolation w.core w.part .kv (s.kvp w.station w.part).kvmirb.toNat c) else s1

/-- A work in the queue changed. -/
def State.setStage (s : State) (w : MirWork) (n : Nat) : State :=
  { s with mirq := s.mirq.map (fun o => if o = w then { o with stage := n } else o) }

/-- The works that stand first for their partition and die, which are those that run (13 R331). -/
def State.mirHeads (s : State) : List MirWork :=
  s.mirq.filter (fun w => s.mirq.find? (fun o => o.station == w.station && o.part == w.part) == some w)

/-- KV_MIRROR_WORK: the images of steps 1 and 2 of the next work are written (17 R407). -/
def State.mirrorWork (s : State) : State :=
  match s.mirHeads.find? (fun w => w.stage == 0) with
  | none => s
  | some w =>
    match s.mirFault w.station w.part with
    | some c => s.mirFail w c
    | none =>
      match s.mirKeys w.station w.part (s.mirImages w) with
      | none => s.mirFail w 0
      | some l =>
        ((l.foldl (fun s p => s.durWrite w.core p.1 p.2) s).setStage w 1).updCore w.core (fun c =>
          { c with ctr := { c.ctr with mirwN := c.ctr.mirwN + BitVec.ofNat 64 w.pages.length } })

def execKvMirrorWork (s : State) : Host.Outcome State Fault Refusal := .next s.mirrorWork

/-- Keys of the sequence word of a work. -/
def State.wordKeys (s : State) (w : MirWork) : Option (List Nat) :=
  let k := s.kvp w.station w.part
  s.gKeys w.station w.part (haAdd k.kvmirb.toNat (mirWord (k.npage + k.nspill) w.seq)) 64 true

/-- MIRROR_SEQUENCE_WORD: once the images are in the domain, the sequence word is written; a freed sequence's only loses MV (17 R407). -/
def State.mirrorWord (s : State) : State :=
  match s.mirHeads.find? (fun w => w.stage == 1) with
  | none => s
  | some w =>
    match s.wordKeys w, s.mirKeys w.station w.part (s.mirImages w) with
    | some ks, some l =>
      if l.all (fun p => s.settledIn p.1) then
        let old := leNat (s.rdKeys ks)
        let v := if w.free then flipBit (if tbit old 32 then old else old + 2 ^ 32) 32 else w.len % 2 ^ 32 + 2 ^ 32 + put ((old / 2 ^ 64 + 1) % 2 ^ 64) 64
        (s.durWrite w.core ks (leBytes v 64)).setStage w 2
      else s
    | _, _ => s.mirFail w 0

def execMirrorSequenceWord (s : State) : Host.Outcome State Fault Refusal := .next s.mirrorWord

/-- Works whose sequence word is in the domain are complete. -/
def State.mirDone (s : State) : State :=
  let finished := fun (w : MirWork) => w.stage == 2 && (match s.wordKeys w with
    | some ks => s.settledIn ks
    | none => true)
  (s.mirq.filter finished).foldl (fun s w => s.updKv w.station w.part (fun k => { k with mirLast := Tab.set 0 k.mirLast w.seq w.num }))
    { s with mirq := s.mirq.filter (fun w => !finished w) }

/-- DURABLE_WRITE_IN_CHECKPOINT_DOMAIN (17 R404, R405). -/
def execDurableWriteInCheckpointDomain (s : State) : Host.Outcome State Fault Refusal := .next s.durableArrive.mirDone

/-! ### Recovery-point records (17 R409, R412) -/

/-- RECORD_COMPLETE: a record of the core is in the domain (17 R412). -/
def State.recordComplete (s : State) : State :=
  match s.core.contexts.findSome? (fun x => x.rp.bind (fun w => if s.recordReady w then some (x.cid, w) else none)) with
  | none => s
  | some (cid, w) =>
    (s.writeDom (List.zip w.keys w.bytes)).mapCore (fun c =>
      { c.onOwner cid (fun x => { x with rp := none }) with ctr := { c.ctr with rpwN := c.ctr.rpwN + 1 } })

def execRecordComplete (s : State) : Host.Outcome State Fault Refusal := .next s.recordComplete

/-! ### The whole-module checkpoint (17 R413) -/

/-- Every core that is not as reset leaves it. -/
def State.coreNos (s : State) : List Nat := s.cix :: s.others.map (·.1)

/-- Records that are being written: their directory entries and sequence numbers. -/
def State.records (s : State) : List (Nat × Nat) :=
  (s.coreNos.map (fun k => (s.getCore k).contexts.filterMap (fun x => x.rp.map (fun w => (w.dir, leNat (w.bytes.take 8)))))).flatten

/-- A mailbox command is at work that has not ended (18 R424). -/
def State.mbRuns (s : State) (code : Nat) : Bool := s.hub.busy && s.hub.cmd == code && s.hub.ended.isNone

/-- The work of a mailbox command ends with a result. -/
def State.mbEnd (s : State) (r : Nat) : State := { s with hub := { s.hub with ended := some r } }

/-- MB_CHECKPOINT: the request takes effect in the present stroke. -/
def State.startCkpt (s : State) : State :=
  if s.mbRuns 1 && s.hub.ckpt.isNone then
    let c : Ckpt := { dur := s.durq, mir := (s.mirq.filter (fun w => !w.free)).map (fun w => (4 * w.station + w.part, w.num)), recs := s.records }
    { s with hub := { s.hub with ckpt := some c } }
  else s

def execMbCheckpoint (s : State) : Host.Outcome State Fault Refusal := .next s.startCkpt

/-- CHECKPOINT_COMPLETE: all that the checkpoint covers is in the domain. -/
def State.ckptComplete (s : State) : State :=
  match s.hub.ckpt with
  | none => s
  | some c =>
    if c.dur.any (fun d => s.durq.contains d) || c.recs.any (fun r => s.records.contains r)
        || s.mirq.any (fun w => c.mir.contains (4 * w.station + w.part, w.num)) then s
    else { s with hub := { s.hub with ckpt := none, ckptEp := s.hub.ckptEp + 1, ended := some 0 } }

def execCheckpointComplete (s : State) : Host.Outcome State Fault Refusal := .next s.ckptComplete

/-! ### Restoring requests (17 R414 to R417) -/

/-- Key of a record directory entry. -/
def rdirKey (st part r : Nat) : Nat := 256 * (4 * st + part) + r

/-- A record slot is valid (17 R410). -/
def recordOk (v : Nat) : Bool :=
  let f := fun (lo n : Nat) => v / 2 ^ lo % 2 ^ n
  f 0 64 != 0 && f 1920 64 == f 0 64 && f 79 1 == 0 && f 189 3 == 0 && f 524 1268 == 0 && f 1984 64 == 0
    && f 1792 128 == shake128 (leBytes v 224)

/-- The newest valid record of a pair, with its keys, as the tables of a die reach it (17 R410): a slot with an uncorrectable word is torn
(R418). -/
def State.bestRecord (s : State) (st part rpha : Nat) : Option (List Nat × Nat) :=
  let slot := fun (i : Nat) => (s.gKeys st part (haAdd rpha (256 * i)) 256 false).bind (fun ks =>
    let v := leNat (s.fixedBytes ks)
    if recordOk v && !s.badWords ks then some (ks, v) else none)
  match slot 0, slot 1 with
  | some a, some b => if a.2 % 2 ^ 64 < b.2 % 2 ^ 64 then some b else some a
  | some a, none => some a
  | none, b => b

/-- A lost request with its newest record: its number at home, RPHA, the record's value. -/
structure LostReq where
  rq : Nat
  rpha : Nat
  val : Nat
  deriving DecidableEq, Repr, Inhabited

def LostReq.f (l : LostReq) (lo n : Nat) : Nat := l.val / 2 ^ lo % 2 ^ n
def LostReq.sibg (l : LostReq) : Nat := l.f 180 8
def LostReq.gn (l : LostReq) : Nat := l.f 512 6

/-- A request that cannot be restored goes to the RCV list, and its directory entry is cleared (17 R415). -/
def State.report (s : State) (st part r : Nat) : State :=
  { s with hub := { s.hub with rcv := s.hub.rcv ++ [(st, part, r)] }
           rdir := Tab.upd {} s.rdir (rdirKey st part r) (fun e => { e with valid := false }) }

/-- The valid entries of the recovery directory of these stations are to be restored (17 R415). -/
def State.loseDir (s : State) (p : Nat → Bool) : State :=
  { s with rdir := s.rdir.map (fun e => (e.1, if e.2.valid && p (e.1 / 1024) then { e.2 with lost := true } else e.2)) }

/-- Entries of the recovery directory that are still to be restored for a station and partition. -/
def State.lostOf (s : State) (st part : Nat) : List (Nat × Nat) :=
  (List.range 256).filterMap (fun r => let e := Tab.get {} s.rdir (rdirKey st part r); if e.valid && e.lost then some (r, e.rpha) else none)

/-- Requests of one group of a lost die, restored together, or a single one. -/
def restoreUnits (l : List LostReq) : List (List LostReq) :=
  let inGroup := fun (x : LostReq) => decide (x.sibg < 64) && l.any (fun y => y.sibg == x.sibg && y.gn != 0)
  (l.filter (fun x => !inGroup x)).map (fun x => [x])
    ++ (((l.filter inGroup).map LostReq.sibg).eraseDups).map (fun g => l.filter (fun x => x.sibg == g))

/-- FREE entries of a die's request table. -/
def Die.freeReqs (d : Die) : List Nat := (List.range 256).filter (fun r => (d.req r).state == 0)

/-- A request enters REST on its target (17 R415, step 1). -/
def State.enterRest (s : State) (home part st : Nat) (grouped : Bool) (p : LostReq × Nat) : State :=
  let (l, r) := p
  let e : Req := { state := 6, part := part, tag := l.f 160 16, cls := l.f 176 4, admitted := s.stroke, sibg := if grouped then l.sibg else 0xFF
                   rpha := l.rpha, hseq := l.f 0 64 }
  let s1 := s.updDie st (fun d => d.takeReq r e)
  { s1 with
    rdir := Tab.set {} (Tab.set {} s1.rdir (rdirKey home part l.rq) {}) (rdirKey st part r) { rpha := l.rpha, valid := true }
    hub := { s1.hub with restores := s1.hub.restores ++ [{ station := st, rq := r, home := home, homeRq := l.rq, part := part, image := l.val }] } }

/-- A post on behalf of management (17 R416). -/
def State.repost (s : State) (st part r : Nat) (h : Word) : State :=
  let e := (s.die st).req r
  let x := (s.die st).group e.sibg
  if x.state ≠ 1 || x.posted.contains r then s
  else
    let (y, k, n) := x.vote r h
    let set := fun (y : Group) => s.updDie st (fun d => d.updGroup e.sibg (fun _ => y))
    if n = y.q then (set { y with state := 2, win := k, stroke := s.stroke }).ballotDecide st (48 * st) part e.sibg
    else if y.posted.length = y.n then set { y with state := 3, stroke := s.stroke }
    else set y

/-- The group of restored siblings is opened with the size and quorum of its newest record, and the posts of its records are posted
again (17 R416). -/
def State.reopen (s : State) (st part : Nat) (l : List (LostReq × Nat)) : State :=
  let newest := (l.filter (fun p => p.1.gn != 0)).foldl (fun (b : Option LostReq) p => match b with
    | none => some p.1
    | some c => if c.f 0 64 < p.1.f 0 64 then some p.1 else b) none
  match newest with
  | none => s
  | some n =>
    let s1 := s.updDie st (fun d => d.updGroup n.sibg (fun _ => { n := n.gn, q := n.f 518 6, state := 1, part := part }))
    (l.filter (fun p => p.1.f 188 1 == 1)).foldl (fun s p => s.repost st part p.2 (BitVec.ofNat 64 (p.1.f 192 64))) s1

/-! #### Steps 2 and 3 of a restore -/

/-- Bytes of the mirror area of a lost request's home, as the target's tables reach it; none where a word is uncorrectable. -/
def State.mirRead (s : State) (r : Restore) (off n : Nat) : Option (List Byte) :=
  let h := Tab.get {} s.recdir (4 * r.home + r.part)
  match s.gKeys r.station r.part (haAdd h.kvmirb off) n false with
  | some ks => if s.badWords ks then none else some (s.fixedBytes ks)
  | none => none

/-- Numbers of mirror pages of a block, along the SUCC chain of the header images, up to the page that holds position len − 1. -/
def State.mirChain (s : State) (r : Restore) (len p : Nat) : Nat → Option (List (Nat × BitVec 512))
  | 0 => some []
  | f + 1 =>
    let h := Tab.get {} s.recdir (4 * r.home + r.part)
    if p = noPage then some []
    else
      match s.mirRead r (mirHdr h.npage (h.npage + h.nspill) p) 64 with
      | none => none
      | some bs =>
        let v := BitVec.ofNat 512 (leNat bs)
        if len ≤ pFirst v then some []
        else if len ≤ pFirst v + pNtok v then some [(p, v)]
        else (s.mirChain r len (pSucc v) f).map (fun l => (p, v) :: l)

/-- What stops a restore for good, or for now. -/
inductive RestoreEnd where
  | lost
  | wait
  | done (s : State)

/-- One page of a restored chain: a private page with the body of the mirror. -/
def State.restorePage (s : State) (r : Restore) (sq g : Nat) (p : Nat × BitVec 512) (new : Nat) : Option State :=
  let h := Tab.get {} s.recdir (4 * r.home + r.part)
  match s.mirRead r (mirBody h.npage p.1) 16384 with
  | none => none
  | some bs =>
    some ((s.wrN (bodyKey r.station r.part new) bs).updKv r.station r.part (fun k =>
      k.setH new noPage sq g (pFirst p.2) (pNtok p.2) 1))

/-- A block b of group g: its pages in order, each linked to the one before it; the first is the leaf entry. -/
def State.restoreBlock (s : State) (r : Restore) (sq g b : Nat) (prev : Option Nat) (tag : Nat) : List (Nat × BitVec 512) → RestoreEnd
  | [] => .done s
  | p :: ps =>
    match (s.kvp r.station r.part).newPage true s.free tag with
    | none => .wait
    | some new =>
      match s.restorePage r sq g p new with
      | none => .lost
      | some s1 =>
        let s2 := s1.updKv r.station r.part (fun k => match prev with
          | some q => k.setSucc q new
          | none => k.setSeq sq ((k.seq sq).map (fun t => t.setLeaf g b (some new))))
        s2.restoreBlock r sq g b (some new) (tag + 1) ps

/-- Leaf entries of the mirror that begin below LEN in a valid group: group, block, first page (17 R415, step 2). -/
def restoreLeaves (pols : List (Nat × Policy)) (leaf : List Byte) (len : Nat) : List (Nat × Nat × Nat) :=
  (pols.map (fun p => (List.range 64).filterMap (fun b =>
    let e := leNat ((leaf.drop (256 * p.1 + 4 * b)).take 4) % 2 ^ 24
    if e = noPage ∨ len ≤ p.2.blen * b then none else some (p.1, b, e)))).flatten

/-- What a restore is to make: the length, the valid policies of the mirror, and the chains of the blocks, group, block and pages. -/
structure RestorePlan where
  len : Nat
  pols : List (Nat × Policy)
  blocks : List (Nat × Nat × List (Nat × BitVec 512))

/-- The plan of a restore; none where the mirror cannot be read, or a policy of the target differs from it in TPPL or BLOG (17 R415). -/
def State.restorePlan (s : State) (r : Restore) : Option RestorePlan :=
  let h := Tab.get {} s.recdir (4 * r.home + r.part)
  let m := h.npage + h.nspill
  let len := r.image / 2 ^ 96 % 2 ^ 32
  match s.mirRead r (mirPol m h.nseq) 512, s.mirRead r (mirLeaf m (r.image / 2 ^ 80 % 2 ^ 16)) 16384 with
  | some pol, some leaf =>
    let ents := (List.range 64).map (fun g => (g, leNat ((pol.drop (8 * g)).take 8)))
    let pols := ents.filterMap (fun p => (polOfEntry p.2).map (fun q => (p.1, q)))
    if ents.any (fun p => (polOfEntry p.2).isSome && p.2 % 256 != s.polEntry r.station r.part p.1 % 256) then none
    else ((restoreLeaves pols leaf len).mapM (fun e => (s.mirChain r len e.2.2 (m + 1)).map (fun l => (e.1, e.2.1, l)))).map (fun bs =>
      { len := len, pols := pols, blocks := bs })
  | _, _ => none

/-- Pages that a restore takes. -/
def RestorePlan.pages (p : RestorePlan) : Nat := (p.blocks.map (fun b => b.2.2.length)).foldl (· + ·) 0

/-- Every block of a plan. -/
def State.restoreBlocks (s : State) (r : Restore) (sq : Nat) : List (Nat × Nat × List (Nat × BitVec 512)) → RestoreEnd
  | [] => .done s
  | (g, b, l) :: t =>
    match s.restoreBlock r sq g b none (0x70000 + 4096 * (64 * g + b)) l with
    | .done s1 => s1.restoreBlocks r sq t
    | e => e

/-- The restored entry is READY with its new sequence; where its group has decided without it, it is cancelled (17 R415, R416; 14 R358). -/
def State.restoreReady (s : State) (r : Restore) (sq : Nat) : State :=
  let s1 := s.updDie r.station (fun d => d.updReq r.rq (fun e => { e with state := 1, kvroot := kvRoot sq }))
  let e := (s1.die r.station).req r.rq
  let g := (s1.die r.station).group e.sibg
  if e.sibg < 64 ∧ g.state = 2 ∧ g.part = r.part ∧ !g.posted.contains r.rq then
    (s1.cancelMember r.station (48 * r.station) e.sibg r.rq).cancelTiles r.station r.part [r.rq] else s1

/-- Steps 2 and 3 for one request (17 R415). -/
def State.restoreOne (s : State) (r : Restore) : RestoreEnd :=
  match s.restorePlan r with
  | none => .lost
  | some p =>
    match anyOf s.free 0x60 (s.kvp r.station r.part).freeSeqs with
    | none => .wait
    | some sq =>
      match (s.updKv r.station r.part (fun k => k.setSeq sq (some {}))).restoreBlocks r sq p.blocks with
      | .done s1 =>
        let s2 := s1.updKv r.station r.part (fun k => k.setSeq sq ((k.seq sq).map (fun q =>
          p.pols.foldl (fun (q : SeqSt) e => (q.setApp e.1 p.len).setShape e.1 ((s1.pol r.station r.part e.1).getD e.2)) { q with clen := p.len })))
        .done ((s2.kvRestore r.station r.part sq).s.restoreReady r sq)
      | e => e

/-! #### The course of the restores -/

/-- A die has a FREE entry for each request of a unit, and its group is free. -/
def State.restoreFits (s : State) (part : Nat) (u : List LostReq) (grouped : Bool) (st : Nat) : Bool :=
  s.ownsDie st part && decide (u.length ≤ ((s.die st).freeReqs).length)
    && (!grouped || ((s.die st).group ((u.map LostReq.sibg).headD 0)).state == 0)

/-- It has the pages and sequences, too. -/
def State.restorePages (s : State) (home part : Nat) (u : List LostReq) (st : Nat) : Bool :=
  let k := s.kvp st part
  let need := (u.map (fun l => ((s.restorePlan { station := st, rq := 0, home := home, homeRq := l.rq, part := part, image := l.val }).map
    RestorePlan.pages).getD 0)).foldl (· + ·) 0
  decide (need ≤ k.freeDie.length + k.freeSpill.length) && decide (u.length ≤ k.freeSeqs.length)

/-- The die on which a unit of a lost station is restored: another die of the partition in service, one with the pages if there is one, or its
own after a warm reset or a stop of the ring. -/
def State.restoreTarget (s : State) (home part : Nat) (u : List LostReq) (grouped : Bool) : Option Nat :=
  if tbit s.ring.fenced home then
    let l := s.ring.inService.filter (s.restoreFits part u grouped)
    let rich := l.filter (s.restorePages home part u)
    anyOf s.free (0x600 + part) (if rich.isEmpty then l else rich)
  else if s.restoreFits part u grouped home then some home else none

/-- One unit enters REST, where a die has room. -/
def State.restoreUnit (s : State) (home part : Nat) (u : List LostReq) : State :=
  let grouped := u.any (fun l => l.sibg < 64 && l.gn != 0)
  match s.restoreTarget home part u grouped with
  | none => s
  | some st =>
    let same := st == home && u.all (fun l => ((s.die st).req l.rq).state == 0)
    let l := if same then u.map (fun l => (l, l.rq)) else List.zip u (s.die st).freeReqs
    let s1 := l.foldl (fun s p => s.enterRest home part st grouped p) s
    if grouped then s1.reopen st part l else s1

/-- The next unit of a lost station begins to be restored; requests without a record are reported (17 R415). -/
def State.restoreStation (s : State) (home : Nat) : State :=
  (List.range 4).foldl (fun s part =>
    let via := if tbit s.ring.fenced home then s.ring.inService.find? (fun st => s.ownsDie st part) else if s.ownsDie home part then some home else none
    match via with
    | none => s
    | some st =>
      let all := (s.lostOf home part).map (fun p => (p, s.bestRecord st part p.2))
      let s1 := (all.filter (fun p => p.2.isNone)).foldl (fun s p => s.report home part p.1.1) s
      let l := all.filterMap (fun p => p.2.map (fun k => ({ rq := p.1.1, rpha := p.1.2, val := k.2 } : LostReq)))
      (restoreUnits l).foldl (fun s u => if s.hub.restores.isEmpty then s.restoreUnit home part u else s) s1) s

/-- Every lost station, a fenced one once the sluice passes it (01 R15); none while the ring is stopped, when every request is held (01 R16).
While a restore is under way no other entry is taken. A station of which nothing is left to restore is no longer lost. -/
def State.restoreStart (s : State) : State :=
  if s.ring.stopped || s.hub.lost == 0 then s
  else (List.range 32).foldl (fun s st =>
    if tbit s.hub.lost st && (tbit s.ring.bridged st || !tbit s.ring.fenced st) then
      let s1 := s.restoreStation st
      if (List.range 4).all (fun p => (s1.lostOf st p).isEmpty) then { s1 with hub := { s1.hub with lost := s1.hub.lost - 2 ^ st } } else s1
    else s) s

/-- STROKE_BOUNDARY; behind the switch of the sluice the requests of a fenced station begin to be restored (01 R15, steps 3 and 4). -/
def execStrokeBoundary (s : State) : Host.Outcome State Fault Refusal := .next s.strokeBoundary.restoreStart

/-- RESTORE_COMPLETE: the restore under way completes, or waits for pages; one that cannot complete is reported, and its entry is FREE again.
Then the next request enters REST. While the ring is stopped every request is held (01 R16). -/
def State.restoreComplete (s : State) : State :=
  if s.ring.stopped then s
  else
    let s1 := match s.hub.restores with
      | [] => s
      | r :: rest =>
        let t := { s with hub := { s.hub with restores := rest } }
        match t.restoreOne r with
        | .wait => s
        | .done t1 => t1
        | .lost =>
          let t1 := t.updDie r.station (fun d => d.updReq r.rq (fun _ => {}))
          { t1.report r.home r.part r.homeRq with rdir := Tab.set {} t1.rdir (rdirKey r.station r.part r.rq) {} }
    s1.restoreStart.fresh

def execRestoreComplete (s : State) : Host.Outcome State Fault Refusal := .next s.restoreComplete

end Sys2Proof.Machine
end

