-- ==== Sys2Proof/Machine/Hub.lean ====
section
/-! DEFINITION. The hub: windows, launches, mailbox, fences, allotment, resets, remote requests, bring-up (spec 01 R15 to R27; 11 R276 to R281; 12 R309 to R312; 17 R403; 18 R419 to R429). -/

namespace Sys2Proof.Machine

/-! ### Refusals at the endpoint (01 R17, R24) -/

/-- Every access is served (18 R429). -/
def State.up (s : State) : Bool := s.hub.phase == 4

/-- An entry whose DETAIL the spec does not give: a free value. -/
def State.logFree (s : State) (v : Violation) : State := (s.logV { v with detail := (Config.freeWord s.free 0x800).toNat }).fresh

/-- A read of the host completes: with data, or with Completer Abort status (01 R24). -/
def State.complete (s : State) (r : Reply) : State := { s with hub := { s.hub with reply := some r } }

/-- A posted write that is dropped is reported through Advanced Error Reporting, which logs the request header (01 R24). -/
def State.aerLog (s : State) (addr : Nat) : State := { s with hub := { s.hub with aer := some addr } }

/-- A host access during bring-up (01 R17). -/
def State.refuseBringUp (s : State) (addr : Nat) (part : Option Nat) : State := s.logFree { cause := 2, addr := addr, plane := 2, part := part }

/-! ### Window M as the host reads it (18 R422) -/

/-- A partition has a launch context on the launch core of a die, or one that is to start there (18 R421). -/
def State.launchBusy (s : State) (st part : Nat) : Bool :=
  s.hub.launches.any (fun l => l.station == st && l.part == part)
    || (match s.launchCore st part with
        | some k => !(s.getCore k).launchCtx.isEmpty
        | none => false)

def State.launchBits (s : State) (part : Nat) : Nat := ((List.range 32).map (fun n => put (bit (s.launchBusy n part)) n)).foldl (· + ·) 0

/-- HUB.ID. -/
def hubId : Nat := Config.hubVendor % 2 ^ 16 + put 0x0940 16 + put (Config.hubRev % 2 ^ 8) 32 + put 1 40

/-- HUB.STAT. -/
def State.hubStat (s : State) : Nat := s.hub.phase % 8 + put (bit (s.ring.running && !s.ring.stopped)) 3 + put (s.hub.fail % 256) 8

/-- MB.STAT. -/
def Hub.stat (h : Hub) : Nat := bit h.busy + put (h.result % 256) 8 + put (h.refcnt % 2 ^ 16) 16 + put (h.done % 2 ^ 32) 32

/-- An entry of the RCV list. -/
def rcvWord (e : Nat × Nat × Nat) : Nat := e.2.2 % 256 + put (e.1 % 32) 8 + put (e.2.1 % 4) 13

/-- 64 bits of window M at an aligned offset. -/
def State.windowM (s : State) (off : Nat) : Word :=
  BitVec.ofNat 64 (
    if off = 0 then hubId
    else if off = 8 then s.hubStat
    else if !s.up then 0
    else if off = 0x10 then s.ring.fenced % 2 ^ 32
    else if off = 0x18 then s.launchBits 0 + put (s.launchBits 1) 32
    else if off = 0x20 then s.launchBits 2 + put (s.launchBits 3) 32
    else if off = 0x28 then s.log.head % 2 ^ 32
    else if off = 0x30 then s.log.tail % 2 ^ 32
    else if off = 0x38 then s.log.ovf % 2 ^ 32
    else if off = 0x40 then s.hub.kapbase.toNat
    else if off = 0x48 then s.hub.cmd
    else if off = 0x50 then s.hub.arg0.toNat
    else if off = 0x58 then s.hub.arg1.toNat
    else if off = 0x60 then s.hub.stat
    else if off = 0x68 then s.hub.rcv.length % 2 ^ 14
    else if 0x10000 ≤ off ∧ off < 0x20000 then ((s.hub.rcv[(off - 0x10000) / 8]?).map rcvWord).getD 0
    else if 0x20000 ≤ off ∧ off < 0x30000 then leNat ((List.range 8).map (fun i => Tab.get 0 s.hub.evid (off - 0x20000 + i)))
    else 0)

/-- The 32 bytes of an entry of window V (01 R25, 18 R419). -/
def State.windowV (s : State) (i : Nat) : BitVec 256 := Tab.get 0 s.log.ents (i % 4096)

/-- The 8 bytes of BAR2 at an aligned offset: window M, and window V above it (18 R419). -/
def State.bar2 (s : State) (off : Nat) : Word :=
  if 0x80000 ≤ off ∧ off < 0xA0000 then (s.windowV ((off - 0x80000) / 32)).extractLsb' (8 * (off % 32)) 64 else s.windowM off

/-- WINDOW_M_READ_DURING_BRING_UP (01 R17): HUB.ID, HUB.STAT and the violation log answer; another read completes with Completer Abort. -/
def State.readEarly (s : State) (off : Nat) : State :=
  if s.up || decide (off < 16) || decide (0x80000 ≤ off ∧ off < 0xA0000) then s.complete (.data (leBytes (s.bar2 off).toNat 8))
  else (s.refuseBringUp (Config.barBase 2 + off) none).complete .abort

def execWindowMReadDuringBringUp (off : Nat) (s : State) : Host.Outcome State Fault Refusal := .next (s.readEarly off)

/-! ### Writes of window M (18 R422 to R424) -/

/-- LOG.TAIL: a value outside TAIL to HEAD is ignored (18 R423). -/
def State.writeTail (s : State) (v : Nat) : State :=
  let d := (v + 2 ^ 32 - s.log.tail % 2 ^ 32) % 2 ^ 32
  if d ≤ s.log.head - s.log.tail then { s with log := { s.log with tail := s.log.tail + d } } else s

/-- A posted write that bring-up drops, or its effect. -/
def State.hostWrite (s : State) (addr : Nat) (f : State → State) : State := if s.up then f s else (s.refuseBringUp addr none).aerLog addr

/-- LOG_TAIL_WRITE. -/
def execLogTailWrite (v : BitVec 32) (s : State) : Host.Outcome State Fault Refusal :=
  .next (s.hostWrite (Config.barBase 2 + 0x30) (fun s => s.writeTail v.toNat))

/-- LOG_OVF_WRITE. -/
def execLogOvfWrite (v : BitVec 32) (s : State) : Host.Outcome State Fault Refusal :=
  .next (s.hostWrite (Config.barBase 2 + 0x38) (fun s => { s with log := { s.log with ovf := v.toNat } }))

/-- The bits of KAPBASE that can be written. -/
def kapMask : Word := BitVec.ofNat 64 (1 + (2 ^ 10 - 1) * 2 ^ 30)

/-- Bytes of the evidence area. -/
def Hub.putEvid (h : Hub) (off : Nat) (bs : List Byte) : Hub :=
  { h with evid := ((bs.mapIdx (fun i b => (off + i, b))).filter (fun p => decide (p.1 < 0x10000))).foldl (fun t p => Tab.set 0 t p.1 p.2) h.evid }

/-- A write of 64 bits at an offset of window M. -/
def State.writeM (s : State) (off : Nat) (v : Word) : State :=
  let h := s.hub
  if off = 0x30 then s.writeTail (v.toNat % 2 ^ 32)
  else if off = 0x38 then { s with log := { s.log with ovf := v.toNat % 2 ^ 32 } }
  else if off = 0x40 then { s with hub := { h with kapbase := v &&& kapMask } }
  else if off = 0x48 then (if h.busy then s else { s with hub := { h with busy := true, cmd := v.toNat % 256, ended := none } })
  else if off = 0x50 then (if h.busy then s else { s with hub := { h with arg0 := v } })
  else if off = 0x58 then (if h.busy then s else { s with hub := { h with arg1 := v } })
  else if 0x20000 ≤ off ∧ off < 0x30000 then { s with hub := h.putEvid (off - 0x20000) (leBytes v.toNat 8) }
  else s

/-- WINDOW_M_WRITE. -/
def execWindowMWrite (off : Nat) (v : Word) (s : State) : Host.Outcome State Fault Refusal :=
  .next (s.hostWrite (Config.barBase 2 + off) (fun s => s.writeM off v))

/-! ### Window K (18 R426) -/

/-- Keep address of an offset. -/
def Hub.keepAddr (h : Hub) (off : Nat) : Nat := h.kapbase.toNat / 2 ^ 30 % 2 ^ 10 * 2 ^ 30 + off

/-- How the endpoint answers an access that it refuses: a read with Completer Abort, a posted write by its report (01 R24). -/
def State.refused (s : State) (addr : Nat) (write : Bool) : State := if write then s.aerLog addr else s.complete .abort

/-- KEEP_WINDOW_ACCESS: a write is no durable write; a read changes nothing in the keep tier. -/
def State.keepAccess (s : State) (off n : Nat) (wdata : Option (List Byte)) : State :=
  let a := s.hub.keepAddr off
  let addr := Config.barBase 4 + off
  if !s.up then (s.refuseBringUp addr none).refused addr wdata.isSome
  else if !s.hub.kapbase.getLsbD 0 || 2 ^ 40 < a + n then (s.logFree { cause := 9, addr := addr, plane := 1 }).refused addr wdata.isSome
  else
    match wdata with
    | some bs => s.wrN (rG + a) (bs.take n)
    | none => s.complete (.data (s.rdN (rG + a) n))

def execKeepWindowAccess (off : Nat) (wdata : Option (List Byte)) (n : Nat) (s : State) : Host.Outcome State Fault Refusal :=
  .next (s.keepAccess off n wdata)

/-! ### Launches (12 R309 to R312; 18 R420, R421) -/

/-- Fields of a launch record (12 R309). -/
def lrKind (r : BitVec 512) : Nat := fld r 0 2
def lrStation (r : BitVec 512) : Nat := fld r 2 5
def lrRqix (r : BitVec 512) : Nat := fld r 16 8
def lrEntry (r : BitVec 512) : Nat := fld r 24 24
def lrTag (r : BitVec 512) : Nat := fld r 48 16
def lrArg (r : BitVec 512) : Nat := fld r 64 64
def lrKvroot (r : BitVec 512) : Nat := fld r 128 64
def lrRpha (r : BitVec 512) : Nat := fld r 192 64

/-- A malformed record: reason 1 (12 R310). -/
def lrBad (r : BitVec 512) : Bool :=
  lrKind r = 0 || lrKind r = 3 || fld r 7 9 ≠ 0 || fld r 256 256 ≠ 0
    || (lrKind r = 2 && (lrRqix r ≠ 0 || lrTag r ≠ 0 || lrKvroot r ≠ 0 || lrRpha r ≠ 0))
    || (lrKind r = 1 && lrArg r / 2 ^ 12 ≠ 0)

/-- The refusal of a record: its cause and, for cause 1, its reason. -/
def State.launchRefusal (s : State) (part : Nat) (r : BitVec 512) : Option (Nat × Nat) :=
  let st := lrStation r
  if lrBad r then some (1, 1)
  else if tbit s.ring.fenced st then some (6, 0)
  else if s.ring.stopped then some (7, 0)
  else if lrKind r = 1 && ((s.die st).req (lrRqix r)).state ≠ 0 then some (1, 2)
  else if s.launchBusy st part then some (1, 3)
  else if (s.launchCore st part).isNone then some (1, 4)
  else none

/-- The recovery directory takes an admitted entry, and zeros go over its record slots (17 R414). -/
def State.directAdmit (s : State) (st part rq rpha : Nat) : State :=
  match s.gKeys st part rpha 512 true with
  | some ks =>
    let s1 := s.writeDom (ks.map (fun k => (k, (0 : Byte))))
    { s1 with rdir := Tab.set {} s1.rdir (rdirKey st part rq) { rpha := rpha, valid := true } }
  | none => { s with rdir := Tab.set {} s.rdir (rdirKey st part rq) { rpha := rpha, valid := false } }

/-- The entry of an accepted admission record (12 R311). -/
def admitted (r : BitVec 512) (part stroke : Nat) : Req :=
  { state := 1, part := part, tag := lrTag r, cls := lrArg r % 16, admitted := stroke, sibg := lrArg r / 16 % 256, kvroot := lrKvroot r, rpha := lrRpha r }

/-- An accepted record. -/
def State.acceptLaunch (s : State) (part addr : Nat) (r : BitVec 512) : State :=
  let st := lrStation r
  let l : Launch := { part := part, station := st, addr := addr, admitted := lrKind r == 1, entry := lrEntry r, arg := lrArg r, rqix := lrRqix r }
  let s1 := { s with hub := { s.hub with launches := s.hub.launches ++ [l] } }
  if lrKind r = 1 then
    (s1.updDie st (fun d => d.takeReq (lrRqix r) (admitted r part s.stroke))).directAdmit st part (lrRqix r) (lrRpha r)
  else s1

/-- A record of 64 bytes in a launch window, whose KIND says what it is. -/
def State.launchRecord (s : State) (part addr : Nat) (r : BitVec 512) : State :=
  if !s.up then (s.refuseBringUp addr (some part)).aerLog addr
  else
    match s.launchRefusal part r with
    | none => s.acceptLaunch part addr r
    | some (c, reason) =>
      let v : Violation := { cause := c, addr := addr, part := some part, detail := reason }
      (if c = 1 then s.logV v else s.logFree v).aerLog addr

/-- LAUNCH_ADMIT (12 R311). -/
def execLaunchAdmit (part : BitVec 2) (addr : Nat) (r : BitVec 512) (s : State) : Host.Outcome State Fault Refusal :=
  .next (s.launchRecord part.toNat addr r)

/-- LAUNCH_RUN (12 R312). -/
def execLaunchRun (part : BitVec 2) (addr : Nat) (r : BitVec 512) (s : State) : Host.Outcome State Fault Refusal :=
  .next (s.launchRecord part.toNat addr r)

/-- LAUNCH_WINDOW_REFUSED: another access to window L (18 R420). The partition is that of the window, 64 KiB for each. The event does not
say whether the access reads or writes, so both answers of the endpoint are shown. -/
def State.windowLRefused (s : State) (addr : Nat) : State :=
  let part := (addr - Config.barBase 0) / 0x10000 % 4
  ((if s.up then s.logV { cause := 1, addr := addr, part := some part, detail := 5 } else s.refuseBringUp addr (some part)).complete .abort).aerLog addr

def execLaunchWindowRefused (addr : Nat) (s : State) : Host.Outcome State Fault Refusal := .next (s.windowLRefused addr)

/-- The core is between two bundles and can leave its context; a freeze in `bar` ends with code 1 (12 R308). -/
def Core.between (c : Core) : Bool := !c.halted && c.holdCmd.isNone && (!c.frz.line || c.frz.cls == .wait)

/-- LAUNCH_CONTEXT_START: the oldest accepted launch of a die that has not started, at a bundle boundary of its launch core (12 R312). -/
def State.launchStart (s : State) (st : Nat) : State :=
  match s.hub.launches.findSome? (fun l =>
      if l.station == st && !l.started then (s.launchCore st l.part).bind (fun k =>
        if (s.getCore k).launchCtx.isEmpty && (s.getCore k).between then some (l, k) else none)
      else none) with
  | none => s
  | some (l, k) =>
    let s1 := s.onCore k (fun s => s.startLaunch l)
    { s1 with hub := { s1.hub with launches := s1.hub.launches.map (fun o => if o = l then { o with started := true } else o) } }

def execLaunchContextStart (station : Nat) (s : State) : Host.Outcome State Fault Refusal :=
  if 32 ≤ station then .fault .noSuchPlace else .next (s.launchStart station)

/-! ### Model images (11 R276 to R278, R281) -/

/-- Bytes of a segment in an image: header and body. -/
def imgStride : Nat := 64 + 2 ^ 21

/-- The segments of an image, one after the other up to a header whose KIND is not 1. -/
def State.imageAt (s : State) (part addr : Nat) : Nat → List SegImg
  | 0 => []
  | n + 1 =>
    let h := BitVec.ofNat 512 (s.rdLE (rG + addr) 64)
    if fld h 18 2 ≠ 1 || 2 ^ 40 < addr + imgStride then []
    else { part := part, race := fld h 20 1, cidx := fld h 24 14, addr := addr, gen := fld h 80 16, tag := fld h 0 16 }
      :: s.imageAt part (addr + imgStride) n

/-- The slots that images fill. -/
def slotsOf (l : List SegImg) : List (Nat × Nat) := l.map (fun g => (g.race, g.cidx))

/-- A cadence that management may set (11 R258, R260). -/
def cadenceOk (pe pw : Nat) : Bool :=
  let r : Ring := { pe := pe, pw := pw }
  decide (32 ≤ pe) && decide (pe ≤ 9216) && decide (32 ≤ pw) && decide (pw ≤ 9216)
    && (List.range 32).all (fun st => decide (r.dwells st ≤ 576))

/-- RESULT of a load, 0 where it is served (18 R422, R424). -/
def State.loadResult (s : State) (part pe pw : Nat) (l : List SegImg) : Nat :=
  let r := s.ring
  if pe < 32 || 9216 < pe || pw < 32 || 9216 < pw || l.any (fun g => decide ((if g.race = 0 then pe else pw) ≤ g.cidx)) then 2
  else if r.running && (r.pe ≠ pe || r.pw ≠ pw) then 1
  else if !cadenceOk pe pw || r.inService.all (fun st => !s.ownsDie st part)
      || l.any (fun g => (s.taken g.race).contains g.cidx) || !(slotsOf l).Nodup then 3
  else 0

/-- MB_LOAD_MODEL: the segments wait for their injection; the first load starts the ring (11 R258, R276). -/
def State.loadModel (s : State) : State :=
  if !s.mbRuns 2 then s
  else
    let a := s.hub.arg1.toNat
    let (part, pe, pw) := (a % 4, a / 4 % 2 ^ 14, a / 2 ^ 16 % 2 ^ 14)
    let l := s.imageAt part s.hub.arg0.toNat 18433
    let res := s.loadResult part pe pw l
    if res ≠ 0 then s.mbEnd res
    else
      let r := s.ring
      let r1 := if r.running then r else { r with running := true, pe := pe, pw := pw, s0e := s.stroke + 1, s0w := s.stroke + 1 }
      { s with ring := { r1 with images := r1.images ++ l, todo := r1.todo ++ l.map (fun g => (g, 1)) } }.mbEnd 0

def execMbLoadModel (s : State) : Host.Outcome State Fault Refusal := .next s.loadModel

/-- MB_UNLOAD: segments of a generation are marked, and dropped at their next departures (11 R278). -/
def State.unload (s : State) : State :=
  if !s.mbRuns 3 then s
  else
    let gen := s.hub.arg0.toNat % 2 ^ 16
    let part := s.hub.arg1.toNat % 4
    let keep := fun (g : SegImg) => !(g.gen == gen && g.part == part)
    let pond := s.pond.map (fun e => (e.1, e.2.map (fun p => if p.seg.gen = gen ∧ p.seg.part = part then { p with drop := true } else p)))
    { s with pond := pond, ring := { s.ring with images := s.ring.images.filter keep, todo := s.ring.todo.filter (fun t => keep t.1) } }.mbEnd 0

def execMbUnload (s : State) : Host.Outcome State Fault Refusal := .next s.unload

/-! ### Fences and the restart of the ring (01 R15, R16; 11 R279 to R281; 17 R415) -/

/-- Launches whose contexts have not reached their `task.end` are lost with the die (01 R15). -/
def State.loseLaunches (s : State) (st : Nat) : State :=
  let lost := s.hub.launches.filter (fun l => l.station == st)
  let s1 := lost.foldl (fun s l =>
    s.logV { cause := 6, addr := l.addr, part := some l.part, site := st
             detail := 6 + put (if l.admitted then 1 else 2) 8 + put l.rqix 16 }) s
  { s1 with hub := { s1.hub with launches := s1.hub.launches.filter (fun l => l.station != st) } }

/-- The records that a station writes end with the hold of its requests: each unit is written or not, and none is pending (17 R410, R417). -/
def State.endRecords (s : State) (st : Nat) : State :=
  (dieCores st).foldl (fun s k =>
    if (s.getCore k).contexts.any (·.rp.isSome) then s.updCore k (fun c => c.eachCtx (fun x => { x with rp := none })) else s) (s.tearRecords (dieCores st))

/-- The requests of a station are held at their recovery points: their entries are in REST; one without a recovery point is reported, and its
entry is FREE (01 R15, R16; 17 R415). -/
def State.holdStation (s0 : State) (st : Nat) : State :=
  let s := s0.endRecords st
  (List.range 256).foldl (fun s r =>
    let e := (s.die st).req r
    if e.state = 0 then s
    else if (Tab.get {} s.rdir (rdirKey st e.part r)).valid then s.updDie st (fun d => d.updReq r (fun e => { e with state := 6 }))
    else (s.report st e.part r).updDie st (fun d => d.updReq r (fun _ => {}))) s

/-- The ring stops: every request of every die is held (01 R16). -/
def State.stopRing (s : State) : State :=
  (List.range 32).foldl State.holdStation { s with ring := { s.ring with stopped := true } }

/-- MB_FENCE_STATION (01 R15, R16): steps 1 and 2; steps 3 and 4 come with the next stroke boundary. -/
def State.fence (s : State) : State :=
  if !s.mbRuns 4 then s
  else
    let st := s.hub.arg0.toNat % 32
    if tbit s.ring.fenced st then s.mbEnd 1
    else
      let s1 := ((({ s with ring := { s.ring with fenced := s.ring.fenced ||| 2 ^ st } } : State).loseLaunches st).holdStation st).loseDir (· == st)
      let s2 := { s1 with hub := { s1.hub with lost := s1.hub.lost ||| 2 ^ st, restores := s1.hub.restores.filter (fun r => r.station != st) } }
      (if s2.ring.carries then s2 else s2.stopRing).mbEnd 0

def execMbFenceStation (s : State) : Host.Outcome State Fault Refusal := .next s.fence

/-- The ring starts anew: what it held leaves it, rotation 0 begins with the next stroke, every loaded segment is injected again. -/
def State.ringAnew (s : State) : State :=
  let s1 := (s.pond.filterMap (fun e => e.2.map (fun p => (e.1, p)))).foldl (fun s e => s.depart (e.1 / 640) (e.1 % 640, e.2)) s
  let r := s1.ring
  { s1 with ring := { r with running := r.pe != 0, stopped := false, fenced := 0, bridged := 0, s0e := s.stroke + 1, s0w := s.stroke + 1, rotE := 0, rotW := 0
                             transE := false, transW := false, todo := r.images.map (fun g => (g, 2)) } }

/-- Stations with a valid entry in the recovery directory. -/
def State.toRestore (s : State) : Nat :=
  ((List.range 32).map (fun st => put (bit (s.rdir.any (fun e => decide (e.1 / 1024 = st) && e.2.valid))) st)).foldl (· + ·) 0

/-- After a warm reset, KVMIRB of each die comes from the recovery directory, and every die's requests are to be restored (17 R415). -/
def State.afterWarm (s : State) : State :=
  if !s.hub.warm then s
  else
    let s1 := s.recdir.foldl (fun (s : State) e => s.updKv (e.1 / 4) (e.1 % 4) (fun k => { k with kvmirb := BitVec.ofNat 64 e.2.kvmirb })) s
    ({ s1 with hub := { s1.hub with warm := false, lost := s1.toRestore } } : State).loseDir (fun _ => true)

/-- FREE again are the entries that were held, and the groups they were in: those of the dies that were fenced, but for targets of a restore under way; after a stop of
the ring those of every die, and every valid entry of the recovery directory is restored anew. -/
def State.freeHeld (s : State) : State :=
  let all := s.ring.stopped
  let s1 := if all then ({ s with hub := { s.hub with restores := [], lost := s.toRestore } } : State).loseDir (fun _ => true) else s
  (List.range 32).foldl (fun s st =>
    if all || tbit s.ring.fenced st then
      s.updDie st (fun d0 =>
        let d := { d0 with groups := d0.groups.filter (fun g => s.hub.restores.any (fun x => x.station == st && (d0.req x.rq).sibg == g.1)) }
        (List.range 256).foldl (fun d r =>
        if (d.req r).state = 6 && !s.hub.restores.any (fun x => x.station == st && x.rq == r) then d.updReq r (fun _ => {}) else d) d)
    else s) s1

/-- MB_RESTART_RING. -/
def State.restartRing (s : State) : State :=
  if !s.mbRuns 5 then s
  else if s.ring.fenced = 0 && !s.ring.stopped && !s.hub.warm then s.mbEnd 1
  else (s.freeHeld.ringAnew.afterWarm.restoreStart).mbEnd 0

def execMbRestartRing (s : State) : Host.Outcome State Fault Refusal := .next s.restartRing

/-! ### Attestation, power caps, allotment, peers (18 R424, R427, R429; 01 R18, R19) -/

/-- MB_ATTEST: the evidence is put together and signed. -/
def State.attest (s : State) : State :=
  if !s.mbRuns 6 then s
  else
    let h := s.hub
    let m := fun (i : Nat) => leBytes (h.meas.getD i 0).toNat 64
    let h1 := ((h.putEvid 64 (m 0 ++ m 1 ++ m 2)).putEvid 256 (leBytes hubId 8))
    let msg := leNat ((List.range 264).map (Tab.get 0 h1.evid))
    { s with hub := h1.putEvid 512 (leBytes (Config.signature s.free msg) 3309) }.fresh.mbEnd 0

def execMbAttest (s : State) : Host.Outcome State Fault Refusal := .next s.attest

/-- A cluster number of a command: one that does not exist is malformed. -/
def State.mbCluster (s : State) (f : Nat → State) : State :=
  let n := s.hub.arg0.toNat % 256
  if 192 ≤ n then s.mbEnd 2 else f n

/-- MB_SET_POWER_CAP (15 R372). -/
def State.setPowerCap (s : State) : State :=
  if !s.mbRuns 7 then s
  else s.mbCluster (fun n => (s.updPower n (fun p => { p with capw := s.hub.arg1.toNat % 2 ^ 16 })).mbEnd 0)

def execMbSetPowerCap (s : State) : Host.Outcome State Fault Refusal := .next s.setPowerCap

/-- A cluster holds nothing of a partition that leaves it: no core of it runs a task of the partition, and the die holds no request of
it unless the partition keeps a cluster there (01 R19). -/
def State.drained (s : State) (n part : Nat) : Bool :=
  let st := n / 6
  (List.range 8).all (fun i => (s.getCore (8 * n + i)).contexts.all (fun x => x.f.part != part || (x.task.arr.isNone && x.task.tile.isNone)))
    && ((List.range 6).any (fun c => 6 * st + c != n && tbit (Tab.get {} s.clusters (6 * st + c)).owner part)
        || (List.range 256).all (fun r => ((s.die st).req r).state == 0 || ((s.die st).req r).part != part))

/-- Start of a partition's share of a space, in units of 64 KiB: the shares lie one behind the other in a space of `n` units. -/
def shareAt (h n : Nat) : Nat → Nat
  | 0 => 0
  | p + 1 => shareAt h n p + Config.fixedShare p h % (n - shareAt h n p + 1)

/-- Units of 64 KiB of the space of a fixed handle: the buffers (07 R152), the die pages of K (13 R322); of D the spec gives no size. -/
def shareUnits (h : Nat) : Nat := if h = 1 then Config.fixedShare 4 1 else ([16, 0, 64, 48, 32, 32768].getD h 0)

/-- Pages and sequences that management gives a partition of a die (13 R322): the die pages of its share of K, spill pages and sequences as the
module fixes them. -/
def givePages (part : Nat) (k : KvPart) : KvPart :=
  { k with npage := 4 * (shareAt 5 32768 (part + 1) - shareAt 5 32768 part)
           nspill := Config.kvGrant part 0 % (2 ^ 24 - 2 ^ 17), nseq := Config.kvGrant part 1 % (2 ^ 14 + 1) }

/-- A fixed handle as management sets it for a partition (09 R204): in W, A, C, P and D its share; in K the layout of R322 from the place of
its pages on; all of S, bodies and headers (11 R264). -/
def fixedEntry (part h nspill : Nat) : BitVec 256 :=
  let from_ := shareAt h (shareUnits h) part
  let (base, bound) := if h = 6 then (0, 0x5000A000)
    else if h = 5 then (65536 * from_, 2 ^ 32 + 16384 * nspill)
    else (65536 * from_, 65536 * (shareAt h (shareUnits h) (part + 1) - from_))
  BitVec.ofNat 256 (base % 2 ^ 64 + put (bound % 2 ^ 52) 64 + put part 128 + put 1 131)

/-- One fixed handle set; with that of K the partition has its pages and sequences. -/
def State.fixHandle (st p : Nat) (s : State) (h : Nat) : State :=
  let s1 := if h = 5 then s.updKv st p (givePages p) else s
  { s1 with handles := Tab.set 0 s.handles (hKey st p h) (fixedEntry p h (s1.kvp st p).nspill) }

/-- The fixed handles of the partitions that a die is allotted to, where they are not set. -/
def State.fixHandles (s : State) (st owner : Nat) : State :=
  ((List.range 4).filter (tbit owner)).foldl (fun s p => (List.range 7).foldl (fun s h =>
    if hValid (Tab.get 0 s.handles (hKey st p h)) then s else s.fixHandle st p h) s) s

/-- The owners of a cluster set; a core whose partition no longer owns it, or that leaves the reset of a cluster that belongs to none, starts
as after a core reset; a cluster that belongs to none loses its caches and reservations (01 R18). -/
def State.allot (s : State) (n owner : Nat) : State :=
  let old := (Tab.get {} s.clusters n).owner
  let s1 := (s.updCluster n (fun c => { c with owner := owner })).fixHandles (n / 6) owner
  let s2 := (List.range 8).foldl (fun s i =>
    let k := 8 * n + i
    if old = 0 || owner = 0 || !tbit owner (s.getCore k).ctx.f.part then s.resetCore k else s) s1
  if owner = 0 then s2.updCluster n (fun c => { clk := c.clk, pow := { capw := c.pow.capw } }) else s2

/-- MB_ALLOT_CLUSTER: refused with the allotment-busy cause where the cluster is not drained, or a busy launch core would move (01 R19). -/
def State.allotCluster (s : State) : State :=
  if !s.mbRuns 8 then s
  else s.mbCluster (fun n =>
    let owner := s.hub.arg1.toNat % 16
    let st := n / 6
    let old := (Tab.get {} s.clusters n).owner
    let leaves := (List.range 4).filter (fun p => tbit old p && !tbit owner p)
    let t := s.allot n owner
    let moves := (List.range 4).any (fun p => s.launchBusy st p && s.launchCore st p != t.launchCore st p)
    if moves || leaves.any (fun p => !s.drained n p) then
      (s.logFree { cause := 8, addr := Config.barBase 2 + 0x48, plane := 2 }).mbEnd 1
    else t.mbEnd 0)

def execMbAllotCluster (s : State) : Host.Outcome State Fault Refusal := .next s.allotCluster

/-- MB_SET_PEER: an entry of the peer table (18 R427). -/
def State.setPeer (s : State) : State :=
  if !s.mbRuns 9 then s
  else { s with peers := Tab.set 0 s.peers (s.hub.arg0.toNat % 2 ^ 12) (BitVec.ofNat 128 (s.hub.arg0.toNat % 2 ^ 64 + put s.hub.arg1.toNat 64)) }.mbEnd 0

def execMbSetPeer (s : State) : Host.Outcome State Fault Refusal := .next s.setPeer

/-- MB_INVALID_CODE (18 R424). -/
def State.badCode (s : State) : State :=
  let h := s.hub
  if h.busy && h.ended.isNone && (h.cmd == 0 || decide (11 ≤ h.cmd)) then s.mbEnd 2 else s

def execMbInvalidCode (s : State) : Host.Outcome State Fault Refusal := .next s.badCode

/-- MAILBOX_COMPLETE: BUSY clears, DONE counts, RESULT is set (18 R424). -/
def State.mailboxDone (s : State) : State :=
  let h := s.hub
  match h.busy, h.ended with
  | true, some r =>
    { s with hub := { h with busy := false, ended := none, result := r, done := h.done + 1, refcnt := if r = 0 then h.refcnt else h.refcnt + 1 } }
  | _, _ => s

def execMailboxComplete (s : State) : Host.Outcome State Fault Refusal := .next s.mailboxDone

/-! ### Resets (17 R403) -/

/-- The byte that a lost write leaves: what the last write to it that is still on its way has put there, else what the domain holds, else what
it held before. -/
def State.wasAt (s : State) (kept : List DurWrite) (k : Nat) : Byte :=
  match kept.reverse.findSome? (fun d => d.bytes.find? (fun p => p.1 == k)) with
  | some p => p.2
  | none =>
    match s.dom.find? (fun p => p.1 == k) with
    | some p => p.2
    | none => let vs := Tab.get [] s.past k; vs[Config.freeNat s.free (2 * k + 1) % vs.length]?.getD (s.rd1 k)

/-- Writes on their way to the domain do not reach it. A byte that a later write has changed since is not theirs to lose. -/
def State.dropDurable (s : State) (lost kept : List DurWrite) : State :=
  let s1 := (lost.reverse.map (·.bytes)).flatten.foldl (fun (s : State) p =>
    if s.rd1 p.1 = p.2 then
      let t := s.wr1 p.1 (s.wasAt kept p.1)
      { t with past := Tab.erase t.past p.1 }
    else s) s
  { s1 with durq := kept }

/-- The durable writes that a reset catches: those that do not reach the domain, by units of 64 bytes, and those that do (17 R404). -/
def State.caught (s : State) (by_ : DurWrite → Bool) : List DurWrite × List DurWrite :=
  let gone := fun (i : Nat) (d : DurWrite) (b : Host.Cell) => by_ d && Config.freeBool s.free (2 ^ 64 * (i + 1) + b.1 / 64)
  let part := fun (lost : Bool) => (s.durq.mapIdx (fun i d => { d with bytes := d.bytes.filter (fun b => gone i d b == lost) })).filter (fun d => !d.bytes.isEmpty)
  (part true, part false)

/-- The keep tier in self-refresh: of the durable writes on their way each unit has reached the domain or not; of the other bytes written,
nothing promises that a write reached them, and each holds what it held last or what it held before (17 R403, R404). -/
def State.selfRefresh (s : State) : State :=
  let (lost, kept) := s.caught (fun _ => true)
  let s1 := kept.foldl (fun s d => s.intoDomain d.bytes) { s.dropDurable lost kept with durq := [] }
  s1.past.foldl (fun s e =>
    let vs := s.rd1 e.1 :: e.2
    let v := vs[Config.freeNat s.free (2 * e.1 + 1) % vs.length]?.getD 0
    if v = s.rd1 e.1 then s else s.wr1 e.1 v) s1

/-- The module after a warm reset (17 R403): the keep tier with its check bits, the domain and the memory of the host are left. -/
def State.warmReset (s0 : State) : State :=
  let s := (s0.tearRecords s0.coreNos).selfRefresh
  { State.reset with
    mem := s.mem.filter (fun c => decide (rG ≤ c.1) && decide (c.1 < rH + regionSize)), chk := s.chk.filter (fun c => inKeep (8 * c.1))
    dom := s.dom, recdir := s.recdir, rdir := s.rdir, agenda := s.agenda, free := s.free + 1
    hub := { State.reset.hub with warm := true } }

/-- MB_WARM_RESET. -/
def execMbWarmReset (s : State) : Host.Outcome State Fault Refusal := .next (if s.mbRuns 10 then s.warmReset else s)

/-- POWER_ON: everything in the module is lost. -/
def execPowerOn (s : State) : Host.Outcome State Fault Refusal :=
  .next { State.reset with mem := s.mem.filter (fun c => decide (rH ≤ c.1) && decide (c.1 < rH + regionSize)), agenda := s.agenda, free := s.free + 1 }

/-- A key of a buffer, of D, K or S of a station. -/
def dieKey (st k : Nat) : Bool :=
  let r := k / regionSize
  (decide (r < 8192) && r / 4 / 48 == st) || r == 8192 + st || r == 8224 + st || r == 8256 + st

/-- All that lies in a die's SRAM is lost: memories, tables, pond, cores, schedulers, mirror work; its allotment and cap are management's, which
sets the fixed handles of its partitions anew. -/
def State.loseSram (s : State) (st : Nat) : State :=
  let s1 := (s.pond.filterMap (fun e => e.2.bind (fun p => if e.1 / 640 = st then some (e.1, p) else none))).foldl State.lose s
  let mine := fun (k : Nat) => k / 48 == st
  let s2 : State := { s1 with
    mem := s1.mem.filter (fun c => !dieKey st c.1), chk := s1.chk.filter (fun c => !dieKey st (8 * c.1))
    handles := s1.handles.filter (fun e => e.1 / 16384 != st), tlb := s1.tlb.filter (fun t => t.station != st)
    walks := s1.walks.filter (fun w => !mine w.core), walkFault := s1.walkFault.filter (fun w => !mine w.1.core)
    tlbflVa := s1.tlbflVa.filter (fun e => !mine e.1), tlbflAll := s1.tlbflAll.filter (fun e => !mine e.1)
    kv := s1.kv.filter (fun e => e.1 / 4 != st), mirq := s1.mirq.filter (fun w => w.station != st)
    pfx := s1.pfx.filter (fun e => e.1 / 8192 != st), dies := Tab.erase s1.dies st, dparts := s1.dparts.filter (fun e => e.1 / 4 != st)
    bars := s1.bars.filter (fun e => !mine (e.1 / 3))
    clusters := s1.clusters.map (fun e => if e.1 / 6 = st then (e.1, { owner := e.2.owner, clk := e.2.clk, pow := { capw := e.2.pow.capw } }) else e) }
  let s3 := (dieCores st).foldl (fun s k => s.setCore k (s.freshCore k)) s2
  (List.range 6).foldl (fun s c => s.fixHandles st (Tab.get {} s.clusters (6 * st + c)).owner) s3

/-- RING_DIE_RESET, which management raises after a fence. -/
def State.dieReset (s : State) (st : Nat) : State :=
  if !tbit s.ring.fenced st then s
  else
    let mine := fun (d : DurWrite) => stationOf d.core == st
    (((s.tearRecords (dieCores st)).dropDurable (s.durq.filter mine) (s.durq.filter (fun d => !mine d))).loseSram st).fresh

def execRingDieReset (station : Nat) (s : State) : Host.Outcome State Fault Refusal :=
  if 32 ≤ station then .fault .noSuchPlace else .next (s.dieReset station)

/-- DIE_LOSS: the die's durable writes that it has not passed to the hub are lost; which units of 64 bytes it has passed is open (17 R404,
R405). -/
def State.dieLoss (s : State) (st : Nat) : State :=
  let (lost, kept) := s.caught (fun d => stationOf d.core == st)
  (((s.tearRecords (dieCores st)).dropDurable lost kept).loseSram st).fresh

def execDieLoss (station : Nat) (s : State) : Host.Outcome State Fault Refusal :=
  if 32 ≤ station then .fault .noSuchPlace else .next (s.dieLoss station)

/-! ### Scale-out (18 R427, R428) -/

/-- The hub answers a peer (18 R428). -/
def State.xAnswer (s : State) (a : XReply) : State := { s with xlast := some a }

/-- X_REMOTE_REQUEST: a peer's chunk is checked against the station's table as an access of a copy engine; one that passes is performed,
and the bytes of a read go back, or an acknowledgement; one that does not is refused (18 R428). A fenced die serves none: the peer's copy
ends with the fenced-die error (01 R15). -/
def State.remoteRequest (s : State) (st part ha n : Nat) (wdata : Option (List Byte)) : State :=
  let k := 48 * st
  let x : Ctx := { f := { part := part } }
  let h := haHandle ha
  let spaces := if wdata.isSome then [spD, spK, spG, spH] else [spD, spK, spS, spG, spH]
  if tbit s.ring.fenced st then (s.logFree { cause := 6, addr := ha, part := some part }).xAnswer .refused
  else
  match s.spotNow k x [(h, s.hEnt st part h)] (placeOf ha 0) n wdata.isSome spaces with
  | (s1, .ok _ dur ks) =>
    match wdata with
    | some bs => (if dur then s1.durWrite k ks (bs.take n) else s1.store (List.zip ks (bs.take n))).xAnswer .ack
    | none => s1.xAnswer (.data (ks.map (s1.copyByte k part [])))
  | (s1, .bad _ c) =>
    (if logged c then s1.logV { hViolation k part .ce ha c with core := none, site := 32 } else s1).xAnswer .refused
  | (s1, .remote ..) => s1.xAnswer .refused
  | (s1, .miss _) => s1.xAnswer .refused

def execXRemoteRequest (station : Nat) (part : BitVec 2) (ha : Word) (wdata : Option (List Byte)) (n : Nat) (s : State) :
    Host.Outcome State Fault Refusal :=
  if 32 ≤ station then .fault .noSuchPlace else .next (s.remoteRequest station part.toNat ha.toNat n wdata)

/-- ETHERNET_FOREIGN_FRAME: frames of another EtherType are dropped (18 R427). -/
def execEthernetForeignFrame (_etherType : BitVec 16) (s : State) : Host.Outcome State Fault Refusal := .next s

/-! ### Bring-up (18 R429) -/

/-- BRINGUP_STEP: a measurement is taken, and its verification ends. -/
def State.bringUp (s : State) (ok : Bool) (m : BitVec 512) : State :=
  let h := s.hub
  if h.phase = 0 || 4 ≤ h.phase then s
  else
    let h1 := { h with meas := h.meas ++ [m] }
    { s with hub := if ok then { h1 with phase := h.phase + 1 } else { h1 with phase := 5, fail := h.phase } }

def execBringupStep (ok : Bool) (measurement : BitVec 512) (s : State) : Host.Outcome State Fault Refusal := .next (s.bringUp ok measurement)

end Sys2Proof.Machine
end

