-- ==== Sys2Proof/Machine/Fronts.lean ====
section
/-! DEFINITION. The fronts: compared commands are applied at their engines and units in the order of their arrival (spec 08 R181, R184, R198; 09 R216; 10 R255; 12 R316 to R321; 13 R331; 14 R361; 15 R375; 16 R401). -/

namespace Sys2Proof.Machine

/-! ### Issues at a front (08 R181, R198; 09 R216, R226; 13 R345) -/

/-- The operation of a template enters the queue of its engine. -/
def State.issueOp (s : State) (eng tix : Nat) (T : BitVec 512) (num : Nat) (m : Cmd) (lc : Nat → Nat) : State :=
  if eng = 0 then s.issueMe tix T num m.phase m.rq lc
  else if eng = 3 then s.acceptCopy (ceIssueParm T) num m.phase m.bundle
  else s.issueAt (eng == 2) T num m.phase m.serial

/-- Loop counters as a command read them at its issue (08 R181). -/
def Cmd.loops (m : Cmd) (l : Nat) : Nat := (m.caps.getD ((srcs m.ins).length + l) 0).toNat

/-- One word of a patch pair: the amendment, then the issue (02 R47, R48). -/
def State.applyPatch (s : State) (p : PatchWord) (num : Nat) (m : Cmd) : State :=
  let s1 := s.mapCtx (fun x => x.amend p)
  if p.issue then s1.issueOp p.eng.toNat p.tmpl.toNat (s1.core.ctx.template p.eng.toNat p.tmpl.toNat) num m m.loops else s1

/-- `mm` at the front. -/
def State.applyMm (s : State) (t : Nat) (keep : Bool) (m : Cmd) : State :=
  let T := mmTmpl (s.core.ctx.template 0 t) (m.caps.getD 0 0) (m.caps.getD 1 0) (m.caps.getD 2 0)
  let s1 := if keep then s.mapCtx (fun x => { x with tmpl := Tab.set 0 x.tmpl (tmplKey 0 t) T }) else s
  s1.issueMe t T (m.nums.headD 0) m.phase m.rq m.loops

/-- A copy at the CE, with its parameters from the registers and its template. -/
def State.applyCopy (s : State) (m : Cmd) : State :=
  let v := fun (k : Nat) => (m.caps.getD k 0).toNat
  s.acceptCopy (cpParm m.ins (s.core.ctx.template 3) (v 0) (v 1) (v 2)) (m.nums.headD 0) m.phase m.bundle

/-- A unit answers a command: the code lands in its register. -/
def State.answer (r : State × Nat) (m : Cmd) : State := r.1.deliver m.serial (BitVec.ofNat 64 r.2)

/-! ### One command (08 R184) -/

/-- A command takes effect at its front or unit. -/
def State.applyCmd (s : State) (m : Cmd) : State :=
  let code := fun (r : State × Nat) => State.answer r m
  match m.ins with
  | .mm t keep .. => s.applyMm t.toNat keep m
  | .mtLd .. | .ftLd .. | .epLd .. | .atMask .. => s.applyLoad m
  | .patchPair hi lo =>
    let s1 := s.applyPatch hi (m.nums.headD 0) m
    s1.applyPatch lo (m.nums.getD (if hi.issue then 1 else 0) 0) m
  | .cp .. | .cpM .. | .cp2d .. | .gat .. | .sca .. => s.applyCopy m
  | .cpRes .. => code (s.resumeCopy (m.caps.getD 0 0).toNat false)
  | .cpResDrop .. => code (s.resumeCopy (m.caps.getD 0 0).toNat true)
  | .cbRel _ => s.mapCtx (fun x => { x with meCut := true })
  | .tlPub t .. => s.applyPub m t
  | .hset .. | .hinv .. => s.applyHandle m
  | .kvApp .. | .kvLk .. | .kvAlloc .. | .kvAllocFork .. | .kvRef .. | .kvFree .. | .kvFreeSeq .. | .kvCow .. | .kvCowSpill ..
  | .kvLenCommit .. | .kvLenRestore .. | .pfxIns .. | .pfxFind .. | .pfxFindDrop .. =>
    let r := s.kvApply m
    code (r.s, r.res)
  | .segPin .. => code (s.segPin m)
  | .segUnpin _ => s.segUnpin m
  | .segHold _ _ _ k => code (s.segHold m k.toNat)
  | .spawn .. => code (s.spawnTask m)
  | .feSetFull _ | .feSetEmpty _ => s.applyFe m
  | .rqNextAdv .. | .rqNextDone .. | .rqNextSusp .. | .rqNextResume .. | .rqNextRelease .. => code (s.rqCheck m)
  | .cmpApp .. => code (s.cmpAppend m)
  | .cmpTake .. =>
    let r := s.cmpTake m
    r.1.deliver m.serial r.2
  | .termOpen _ => code (s.termApply true)
  | .termClose _ => code (s.termApply false)
  | .bar lvl .. => s.applyBar m lvl
  | .dmSet lvl _ => s.applyDm lvl
  | .bltOpen .. => code (s.bltOpen (m.caps.getD 0 0).toNat (m.caps.getD 1 0).toNat)
  | .bltPost .. => code (s.bltPost m.phase (m.caps.getD 0 0).toNat (m.caps.getD 1 0))
  | .bltRead _ _ sel => s.deliver m.serial (s.bltRead (m.caps.getD 0 0).toNat sel.toNat)
  | .bltClose .. => code (s.bltClose (m.caps.getD 0 0).toNat)
  | .govRes .. | .govRel .. | .govBallast .. | .opReq .. => code (s.govApply m)
  | .ctxSpill .. => code (s.startSpill m)
  | .ctxFill .. => code (s.startFill m)
  | _ => s

/-! ### Arrival order and room (08 R184; 09 R216; 13 R332) -/

/-- Cycles that a command spends at its front: a load waits for its image, 8 from P and 64 from D (08 R184); a mask 64 and 128 (13 R345). -/
def loadTime (m : Cmd) : Nat :=
  let near := match m.keys with
    | k :: _ => (bufOf k).isSome
    | [] => true
  match m.ins with
  | .atMask .. => if near then 64 else 128
  | i => if !isLoad i then 0 else if near then 8 else 64

/-- The cycle in which a command may be applied: one that is compared is not at its front before five cycles after its issue (10 R242;
16 R386). -/
def Cmd.due (m : Cmd) : Option Nat :=
  m.sent.map (fun t => max (max (t + 1 + loadTime m) m.ready) (if goesStraight m.ins then 0 else m.clk + 5))

/-- Operations that a command puts into a queue, by engine code. -/
def cmdIssues (i : Instr) : List Nat :=
  match i with
  | .mm .. => [0]
  | .cp .. | .cpM .. | .cp2d .. | .gat .. | .sca .. => [3]
  | .patchPair hi lo => (if hi.issue then [hi.eng.toNat] else []) ++ (if lo.issue then [lo.eng.toNat] else [])
  | _ => []

/-- The queues have room for what a command issues: 16 operations of the ME, 128 copies, 8 operations of a share. -/
def Core.roomFor (c : Core) (x : Ctx) (i : Instr) : Bool :=
  let n := fun (e : Nat) => ((cmdIssues i).filter (· == e)).length
  (n 0 == 0 || decide (x.meq.length + n 0 ≤ 16)) && (n 3 == 0 || decide ((c.copies.filter (fun k => !k.re)).length + n 3 ≤ 128))
    && (n 1 == 0 || decide ((x.atq.filter (fun a => !a.dae)).length + n 1 ≤ 8))
    && (n 2 == 0 || decide ((x.atq.filter (fun a => a.dae)).length + n 2 ≤ 8))

/-- The stop of the queue of a front. -/
def Ctx.frontStop (x : Ctx) : Front → Option Stop
  | .me => x.meStop
  | .ce => x.ceStop
  | .pae => x.paeStop
  | .dae => x.daeStop
  | .unit _ => none

/-- A front is blocked for a command: by a load that stopped its queue, or for a load while its queue is stopped (16 R381). -/
def Ctx.blocked (x : Ctx) (m : Cmd) : Bool :=
  (cmdFronts m.ins).any (fun f => match x.frontStop f with
    | some st => st.load || isLoad m.ins
    | none => false)

/-- An operation with Q that issued before a command and comes to the same unit only at its due cycle (12 R305; 13 R331; 14 R357, R361). -/
def Ctx.unitBehind (x : Ctx) (m : Cmd) : Bool :=
  (cmdFronts m.ins).any (fun f => f.isUnit && f != .unit 0 && x.fl.defer.any (fun d => decide (d.serial < m.serial) && (cmdFronts d.ins).contains f))

/-- A command that reads or writes bytes: it issues engine work, or loads an image or a mask. -/
def touches (i : Instr) : Bool := !(cmdIssues i).isEmpty || isLoad i

/-- Such a command stands behind the accesses with Q of its stream that issued before it, those held at a trap too, and behind those of its core
that are not performed (10 R235). -/
def Ctx.accessBehind (x : Ctx) (m : Cmd) : Bool := touches m.ins && x.defers.any (fun d => accesses d.ins && decide (d.bundle < m.bundle))
def Core.leaseBehind (c : Core) (m : Cmd) : Bool := touches m.ins && c.leases.any (fun l => decide (l.bundle < m.bundle))

/-- The image of a load lies in a bank that sleeps or wakes; the read waits the wake out (07 R157). -/
def Core.imageSleeps (c : Core) (m : Cmd) : Bool :=
  isLoad m.ins && (keyBanks m.keys).any (fun x => match c.bank x.2.1 x.2.2 with
    | .full | .off => false
    | _ => true)

/-- A command stands first at each of its fronts, nothing that must come before it is left, its time has come, and there is room. -/
def Core.atFront (c : Core) (x : Ctx) (m : Cmd) : Bool :=
  (match m.due with
   | some t => decide (t ≤ c.ccyc)
   | none => false)
    && (cmdFronts m.ins).all (fun f => (x.cmds.find? (fun o => (cmdFronts o.ins).contains f)).map (·.serial) == some m.serial)
    && !x.blocked m && !x.unitBehind m && !x.accessBehind m && !c.leaseBehind m && c.roomFor x m.ins

/-- A command may be applied. -/
def Core.canApply (c : Core) (x : Ctx) (m : Cmd) : Bool := c.atFront x m && !c.imageSleeps m

/-- Sleeping banks that loads at their fronts are to read begin to wake. -/
def State.wakeImages (s : State) : State :=
  s.startWakes ((s.core.contexts.map (fun x => (x.cmds.filter (fun m => isLoad m.ins && s.core.atFront x m)).map (·.keys))).flatten.flatten)

/-- The oldest command of the core that may be applied, with its context. -/
def Core.nextCmd (c : Core) : Option (Nat × Cmd) :=
  (c.contexts.filterMap (fun x => (x.cmds.find? (fun m => c.canApply x m)).map (fun m => (x.cid, m)))).foldl (fun b e => match b with
    | none => some e
    | some d => if e.2.serial < d.2.serial then some e else some d) none

/-- The commands behind an applied one at its fronts: none of them before the next cycle. -/
def Ctx.passed (x : Ctx) (m : Cmd) (now : Nat) : Ctx :=
  { x with cmds := x.cmds.map (fun o =>
      if (cmdFronts o.ins).any (fun f => !f.isUnit && (cmdFronts m.ins).contains f) then { o with ready := max o.ready (now + 1) } else o) }

/-- A command of the context in focus is applied; a load that failed its content check stays at its front (16 R381). -/
def State.applyFront (s : State) (m : Cmd) : State :=
  let x0 := s.core.ctx
  let s1 := s.applyCmd m
  let failed := isLoad m.ins && (cmdFronts m.ins).any (fun f => (s1.core.ctx.frontStop f).isSome && (x0.frontStop f).isNone)
  s1.mapCtx (fun x => ({ x with cmds := if failed then x.cmds else x.cmds.filter (fun o => o.serial != m.serial) }).passed m s.core.ccyc)

/-- ENGINE_FRONT_APPLY (08 R184): the oldest command of the core that has come to its front is applied. -/
def State.frontApply (s : State) : State :=
  match s.core.nextCmd with
  | none => s.wakeImages
  | some (cid, m) => (s.asOwner cid (fun s => s.applyFront m)).fresh

def execEngineFrontApply (s : State) : Host.Outcome State Fault Refusal := .next s.frontApply

end Sys2Proof.Machine
end

