-- ==== Sys2Proof/Machine/Check.lean ====
section
/-! DEFINITION. What comes before the issue of a bundle: fetch, the check of its words, its faults in their order, the freezes and waits that hold it (spec 02 R33; 04 R88, R89, R92, R95; 05 R108, R112, R115; 16 R376, R377). -/

namespace Sys2Proof.Machine

/-- The faults and holds of an operation's own rules. -/
def familyOf (i : Instr) : Family :=
  match i with
  | .jmpr .. | .callr .. | .ret => famJump
  | .tsbAny .. | .tsbNone .. => famTsb
  | .csrr .. | .csrw .. | .csrs .. | .csrc .. => famCsr
  | .div .. | .divn .. | .rem .. | .remn .. => famScalar
  | .relRec => famRel
  | .ld .. | .st .. | .vld _ | .vst _ | .vldVer _ | .amo .. | .cas .. | .boArr .. | .boWait .. | .fence _ | .hset .. | .hinv _
  | .dstc .. | .dldc .. => famMem
  | .cbSet .. | .cbPush .. | .cbPop .. | .cbWait .. | .cbRd .. | .cbRel _ => famCb
  | .mm .. | .mtLd .. | .ftLd .. | .epLd .. | .patchPair .. | .cp .. | .cpM .. | .cp2d .. | .gat .. | .sca .. | .cpRes .. | .cpResDrop ..
  | .atMask .. => famEng
  | .tlWait .. | .tlRd .. | .tlPub .. => famTl
  | .bankBuf .. => { fault := bankFaultOf }
  | .segPin .. | .segUnpin _ | .segHold .. => famSeg
  | .spawn .. | .dmSet .. | .feSetFull _ | .feSetEmpty _ => famSched
  | .arrWait .. | .taskEnd .. => { hold := taskHold }
  | .termWait .. => { hold := termHold }
  | .ctxSwap _ | .ctxSpill .. | .ctxFill .. => famCtx
  | _ => {}

/-! ### Fetch (04 R92, R95) -/

/-- What fetch finds for the next bundle. -/
inductive Fetched where
  | fault (t : TrapInfo)
  | miss
  | word (w : BitVec 256)
  deriving DecidableEq, Repr

/-- One of the two bundles of a block. -/
def bundleOf (line : BitVec 512) (pc : Nat) : BitVec 256 := if pc / 32 % 2 = 1 then line.extractLsb' 256 256 else line.extractLsb' 0 256

/-- The whole target or address of the next bundle: bits 63 to 48 of a register-held target stay with it (04 R98). -/
def Flow.target (f : Flow) : Nat := f.pc + put f.highPc 48

/-- The next bundle's bits, its fetch fault, or a miss (04 R92, R95). -/
def State.fetch (s : State) : Fetched :=
  let f := s.core.ctx.f
  if f.highPc ≠ 0 || s.fetchFault f.pc then .fault { code := cFetch, addr := f.target }
  else
    match Tab.get none s.cluster.lines (lineKey s.part f.codeh.toNat (f.pc / 64)) with
    | some line => .word (bundleOf line f.pc)
    | none => .miss

/-- A miss: the block comes in while the core is frozen, its page walked first where its translation is missing (09 R213); a block that cannot be read is a fetch fault (04 R89, R92, R95), one with an
uncorrectable word a containment (16 R390). -/
def State.fetchMiss (s : State) : State :=
  let s1 := if s.core.frz.line && s.core.frz.cls == .fetch then s else s.mapCtr (fun c => { c with slipN := c.slipN + 1 })
  match s1.fill (s.core.ctx.f.pc / 64) with
  | (s2, true) => s2.freeze .fetch
  | (s2, false) => if s1.fails s2 || s1.blockWalks (s.core.ctx.f.pc / 64) then s2.freeze .fetch else s2.trapNow { code := cFetch, addr := s.core.ctx.f.target }

/-! ### The faults of a bundle (16 R377) -/

/-- The header bits of a bundle, latched for the meanings of its slots. -/
def headerIss (b : Bundle) (checked : Bool) : Iss :=
  { q := b.hdr.extractLsb' 0 4, x := b.hdr.extractLsb' 4 4, checked := checked, bundle := true }

def State.latch (s : State) (i : Iss) : State := s.mapCore (fun c => { c with iss := i })

/-- Alignment of a register-held target, then privilege in slot order. -/
def State.earlyFault (s : State) (b : Bundle) : Option TrapInfo :=
  (alignFault b.b s).or ([b.b, b.m, b.v, b.e].findSome? (fun i => privFault i s))

/-- A fault of one operation's own rules; with Q only the domain-mask fault comes before issue (04 R86; 16 R376). -/
def State.opFault (s : State) (i : Instr) : Option TrapInfo :=
  let f := (familyOf i).fault i s
  if s.qOf (slotOf i) then f.filter (fun t => t.code == cDomainMask) else f

/-- What holds one operation before its issue. -/
def State.opHold (s : State) (i : Instr) : Option Hold := (familyOf i).holds i s

/-- The bound of a wait in slot M, or of one in another slot, has passed. -/
def State.waitOver (s : State) (inM : Bool) : Bool :=
  match s.core.wait with
  | none => false
  | some w =>
    let b := if inM then w.boundM else w.bound
    w.expired || (b != 0 && decide (b ≤ w.elapsed))

/-- A wait that is still to be waited out. -/
def State.opWait (s : State) (i : Instr) : Option Hold :=
  match s.opHold i with
  | some h => if h.cls == .wait && !s.waitOver (slotOf i == .m) then some h else none
  | none => none

/-- A freeze of another class that comes before issue: a wake, a translation miss. -/
def State.opFreeze (s : State) (i : Instr) : Option Hold :=
  match s.opHold i with
  | some h => if h.cls == .wait then none else some h
  | none => none

/-- The operations whose own rules can fault or hold, in slot order: those of slot V do neither (06 R135). -/
def slotOps (b : Bundle) : List Instr := [b.b, b.m, b.e]

/-- Slot faults in slot order. While an operation waits, only its own faults and those of slot B are tested: the others are tested when
the bundle would issue, which is after the wait. -/
def State.slotFault (s : State) (b : Bundle) : Option TrapInfo :=
  let waiting := ((slotOps b).filter (fun i => (s.opWait i).isSome))
  (if waiting.isEmpty then (slotOps b) else (slotOps b).filter (fun i => slotOf i == .b || waiting.contains i)).findSome? s.opFault

/-! ### Freezes and waits (04 R89) -/

/-- One frozen cycle for the port reads that exceed a bank's ports (05 R108), which the next bundle owes once. -/
def State.portFreeze (s : State) (extra : Nat) : State :=
  let z := s.core.frz
  let due := if z.ports = 0 then extra else z.ports
  let s1 := if z.ports = 0 then s.mapCtr (fun c => { c with portN := c.portN + BitVec.ofNat 64 extra }) else s
  (s1.freeze .port).mapCore (fun c => { c with frz := { c.frz with ports := due - 1, portPaid := due == 1 } })

/-- A bound counted from the cycle in which its wait begins. -/
def boundFrom (old elapsed : Nat) (h : Option Hold) : Nat :=
  match h with
  | some h => if old = 0 ∧ h.bound ≠ 0 then elapsed + h.bound else old
  | none => old

/-- One cycle of the waits of a bundle, in slot M and in another slot (07 R169). -/
def State.waitCycle (s : State) (inM other : Option Hold) : State :=
  let w := s.core.wait.getD {}
  let hs := inM.toList ++ other.toList
  let s1 := if s.core.wait.isNone then hs.foldl (fun s h => h.start s) s else s
  let s2 := s1.mapCore (fun c =>
    { c with wait := some { elapsed := w.elapsed + 1, bound := boundFrom w.bound w.elapsed other, boundM := boundFrom w.boundM w.elapsed inM
                            expired := w.expired, kind := (other.map (·.kind)).getD 0, races := (other.map (·.races)).getD 0
                            stores := inM.any (fun h => h.kind == 3) } })
  (hs.foldl (fun s h => h.each s) s2).freeze .wait

/-- One cycle of freezes of the class Late: whatever they start is started, and the line is asserted for the first operation that has one. -/
def State.freezeCycle (s : State) (b : Bundle) (hs : List Hold) : State :=
  let i := (slotOps b).find? (fun i => (s.opFreeze i).isSome)
  ((hs.foldl (fun s h => h.start s) s).freeze .late).mapCore (fun c => { c with frz := { c.frz with
    await := i.map (fun i => (slotOf i, (destsAt s.core.ctx.f i).head?)) } })

/-! ### The bundle that would issue -/

/-- What becomes of the next bundle in this cycle: a trap, a frozen cycle, or its issue. -/
inductive Ready where
  | trap (t : TrapInfo)
  | stall (s : State)
  | go (b : Bundle)

/-- The vector blocks a bundle reads. -/
def readBlocks (b : Bundle) : List RBlock := srcBlocks b.m ++ srcBlocks b.v

/-- The checks of a decoded bundle, in the order of R377: alignment and privilege; port freezes; the wakes of its banks, of registers and of
buffers together (05 R112); register drops (R115); slot faults; what else freezes it; its waits. `s` holds the bundle's header latched. -/
def State.readyBundle (s : State) (b : Bundle) : Ready :=
  match s.earlyFault b with
  | some t => .trap t
  | none =>
    let extra := portExtra s.core.ctx.f (readBlocks b)
    if extra ≠ 0 ∧ !s.core.frz.portPaid then .stall (s.portFreeze extra)
    else
      let banks := s.sleepBanks (readBlocks b)
      let freezes := (slotOps b).filterMap s.opFreeze
      let wakes := freezes.filter (fun h => h.cls == .wake)
      if !banks.isEmpty || !wakes.isEmpty then .stall ((wakes.foldl (fun s h => h.start s) (banks.foldl State.wakeRow s)).freeze .wake)
      else
        match (dropFault b.m s).or (dropFault b.v s) with
        | some t => .trap t
        | none =>
          match s.slotFault b with
          | some t => .trap t
          | none =>
            match freezes with
            | h :: hs => .stall (s.freezeCycle b (h :: hs))
            | [] =>
              match s.opWait b.m, (s.opWait b.b).or (s.opWait b.e) with
              | none, none => .go b
              | m, o => .stall (s.waitCycle m o)

/-- The next bundle: fetched, decoded, checked (16 R377, cause 8). -/
def State.ready (s : State) : Ready :=
  match s.fetch with
  | .fault t => .trap t
  | .miss => .stall s.fetchMiss
  | .word w =>
    match decodeBundleBits w with
    | .error e => .trap { code := cIllegal, part := e.part, addr := s.core.ctx.f.pc }
    | .ok b => (s.latch (headerIss b false)).readyBundle b

end Sys2Proof.Machine
end

