-- ==== Sys2Proof/Machine/Dispatch.lean ====
section
/-! DEFINITION. The meaning of every instruction and event: one arm for each constructor of `Instr`. -/

namespace Sys2Proof.Machine

/-- One instruction or event (spec/opcode_table.json). -/
def exec (i : Instr) (s : State) : Host.Outcome State Fault Refusal :=
  match i with
  | .brZ r disp => Sys2Proof.Machine.execBrZ r disp s
  | .brNz r disp => Sys2Proof.Machine.execBrNz r disp s
  | .brpAny p w disp => Sys2Proof.Machine.execBrpAny p w disp s
  | .brpAll p w disp => Sys2Proof.Machine.execBrpAll p w disp s
  | .brpNone p w disp => Sys2Proof.Machine.execBrpNone p w disp s
  | .jmp disp => Sys2Proof.Machine.execJmp disp s
  | .call disp => Sys2Proof.Machine.execCall disp s
  | .jmpr r => Sys2Proof.Machine.execJmpr r s
  | .callr r => Sys2Proof.Machine.execCallr r s
  | .loopSet l r off => Sys2Proof.Machine.execLoopSet l r off s
  | .loopSeti l count off => Sys2Proof.Machine.execLoopSeti l count off s
  | .loopEnd l => Sys2Proof.Machine.execLoopEnd l s
  | .tsbAny cb mask disp => Sys2Proof.Machine.execTsbAny cb mask disp s
  | .tsbNone cb mask disp => Sys2Proof.Machine.execTsbNone cb mask disp s
  | .ipf n disp => Sys2Proof.Machine.execIpf n disp s
  | .phmark disp => Sys2Proof.Machine.execPhmark disp s
  | .trap code => Sys2Proof.Machine.execTrap code s
  | .brk code => Sys2Proof.Machine.execBrk code s
  | .csrr d csr => Sys2Proof.Machine.execCsrr d csr s
  | .csrw csr a => Sys2Proof.Machine.execCsrw csr a s
  | .csrs csr a => Sys2Proof.Machine.execCsrs csr a s
  | .csrc csr a => Sys2Proof.Machine.execCsrc csr a s
  | .add d a b => Sys2Proof.Machine.execAdd d a b s
  | .sub d a b => Sys2Proof.Machine.execSub d a b s
  | .mul d a b => Sys2Proof.Machine.execMul d a b s
  | .mulh d a b => Sys2Proof.Machine.execMulh d a b s
  | .mulhn d a b => Sys2Proof.Machine.execMulhn d a b s
  | .div d a b => Sys2Proof.Machine.execDiv d a b s
  | .divn d a b => Sys2Proof.Machine.execDivn d a b s
  | .rem d a b => Sys2Proof.Machine.execRem d a b s
  | .remn d a b => Sys2Proof.Machine.execRemn d a b s
  | .and d a b => Sys2Proof.Machine.execAnd d a b s
  | .or d a b => Sys2Proof.Machine.execOr d a b s
  | .xor d a b => Sys2Proof.Machine.execXor d a b s
  | .andn d a b => Sys2Proof.Machine.execAndn d a b s
  | .shl d a b => Sys2Proof.Machine.execShl d a b s
  | .shr d a b => Sys2Proof.Machine.execShr d a b s
  | .sar d a b => Sys2Proof.Machine.execSar d a b s
  | .rol d a b => Sys2Proof.Machine.execRol d a b s
  | .min d a b => Sys2Proof.Machine.execMin d a b s
  | .max d a b => Sys2Proof.Machine.execMax d a b s
  | .minn d a b => Sys2Proof.Machine.execMinn d a b s
  | .maxn d a b => Sys2Proof.Machine.execMaxn d a b s
  | .seq d a b => Sys2Proof.Machine.execSeq d a b s
  | .sne d a b => Sys2Proof.Machine.execSne d a b s
  | .slt d a b => Sys2Proof.Machine.execSlt d a b s
  | .sltn d a b => Sys2Proof.Machine.execSltn d a b s
  | .sle d a b => Sys2Proof.Machine.execSle d a b s
  | .slen d a b => Sys2Proof.Machine.execSlen d a b s
  | .clz d a => Sys2Proof.Machine.execClz d a s
  | .ctz d a => Sys2Proof.Machine.execCtz d a s
  | .popc d a => Sys2Proof.Machine.execPopc d a s
  | .bswap d a => Sys2Proof.Machine.execBswap d a s
  | .mov d a => Sys2Proof.Machine.execMov d a s
  | .addi d a imm => Sys2Proof.Machine.execAddi d a imm s
  | .andi d a imm => Sys2Proof.Machine.execAndi d a imm s
  | .ori d a imm => Sys2Proof.Machine.execOri d a imm s
  | .xori d a imm => Sys2Proof.Machine.execXori d a imm s
  | .shli d a amt => Sys2Proof.Machine.execShli d a amt s
  | .shri d a amt => Sys2Proof.Machine.execShri d a amt s
  | .sari d a amt => Sys2Proof.Machine.execSari d a amt s
  | .slti d a imm => Sys2Proof.Machine.execSlti d a imm s
  | .sltni d a imm => Sys2Proof.Machine.execSltni d a imm s
  | .seqi d a imm => Sys2Proof.Machine.execSeqi d a imm s
  | .muli d a imm => Sys2Proof.Machine.execMuli d a imm s
  | .li d imm => Sys2Proof.Machine.execLi d imm s
  | .lih d imm => Sys2Proof.Machine.execLih d imm s
  | .sel d a b p idx => Sys2Proof.Machine.execSel d a b p idx s
  | .ld size d base handle imm => Sys2Proof.Machine.execLd size d base handle imm s
  | .st size src base handle imm => Sys2Proof.Machine.execSt size src base handle imm s
  | .vld m => Sys2Proof.Machine.execVld m s
  | .vst m => Sys2Proof.Machine.execVst m s
  | .vldVer m => Sys2Proof.Machine.execVldVer m s
  | .amo op dword scope d base b handle imm => Sys2Proof.Machine.execAmo op dword scope d base b handle imm s
  | .cas dword scope d base b c handle imm => Sys2Proof.Machine.execCas dword scope d base b c handle imm s
  | .boArr d base b handle imm => Sys2Proof.Machine.execBoArr d base b handle imm s
  | .boWait d base b e handle imm => Sys2Proof.Machine.execBoWait d base b e handle imm s
  | .fence scope => Sys2Proof.Machine.execFence scope s
  | .hset a b => Sys2Proof.Machine.execHset a b s
  | .hinv a => Sys2Proof.Machine.execHinv a s
  | .dstc c base b handle imm => Sys2Proof.Machine.execDstc c base b handle imm s
  | .dldc d base handle imm => Sys2Proof.Machine.execDldc d base handle imm s
  | .vadd v => Sys2Proof.Machine.execVadd v s
  | .vsub v => Sys2Proof.Machine.execVsub v s
  | .vmul v => Sys2Proof.Machine.execVmul v s
  | .vfma op v => Sys2Proof.Machine.execVfma op v s
  | .vmin v => Sys2Proof.Machine.execVmin v s
  | .vmax v => Sys2Proof.Machine.execVmax v s
  | .vabs v => Sys2Proof.Machine.execVabs v s
  | .vneg v => Sys2Proof.Machine.execVneg v s
  | .vand v => Sys2Proof.Machine.execVand v s
  | .vor v => Sys2Proof.Machine.execVor v s
  | .vxor v => Sys2Proof.Machine.execVxor v s
  | .vnot v => Sys2Proof.Machine.execVnot v s
  | .vshl v => Sys2Proof.Machine.execVshl v s
  | .vshr v => Sys2Proof.Machine.execVshr v s
  | .vsar v => Sys2Proof.Machine.execVsar v s
  | .vcmp op v => Sys2Proof.Machine.execVcmp op v s
  | .vsel v => Sys2Proof.Machine.execVsel v s
  | .vcvt src v => Sys2Proof.Machine.execVcvt src v s
  | .vexp2 v => Sys2Proof.Machine.execVexp2 v s
  | .vlog2 v => Sys2Proof.Machine.execVlog2 v s
  | .vrcp v => Sys2Proof.Machine.execVrcp v s
  | .vrsq v => Sys2Proof.Machine.execVrsq v s
  | .vtanh v => Sys2Proof.Machine.execVtanh v s
  | .vred op v => Sys2Proof.Machine.execVred op v s
  | .vperm v => Sys2Proof.Machine.execVperm v s
  | .vbcast v => Sys2Proof.Machine.execVbcast v s
  | .vext v => Sys2Proof.Machine.execVext v s
  | .vins v => Sys2Proof.Machine.execVins v s
  | .vmov v => Sys2Proof.Machine.execVmov v s
  | .vrot v => Sys2Proof.Machine.execVrot v s
  | .vquant v => Sys2Proof.Machine.execVquant v s
  | .vdeq v => Sys2Proof.Machine.execVdeq v s
  | .vdot v => Sys2Proof.Machine.execVdot v s
  | .vsmx v => Sys2Proof.Machine.execVsmx v s
  | .vpack v => Sys2Proof.Machine.execVpack v s
  | .vunpk v => Sys2Proof.Machine.execVunpk v s
  | .pand v => Sys2Proof.Machine.execPand v s
  | .por v => Sys2Proof.Machine.execPor v s
  | .pxor v => Sys2Proof.Machine.execPxor v s
  | .pnot v => Sys2Proof.Machine.execPnot v s
  | .ppopc v => Sys2Proof.Machine.execPpopc v s
  | .cbSet cb a => Sys2Proof.Machine.execCbSet cb a s
  | .cbPush cb n => Sys2Proof.Machine.execCbPush cb n s
  | .cbPop cb n => Sys2Proof.Machine.execCbPop cb n s
  | .cbWait d cb room n b => Sys2Proof.Machine.execCbWait d cb room n b s
  | .cbRd d cb what k => Sys2Proof.Machine.execCbRd d cb what k s
  | .cbRel mask => Sys2Proof.Machine.execCbRel mask s
  | .mm t keep a b c => Sys2Proof.Machine.execMm t keep a b c s
  | .mtLd e t a => Sys2Proof.Machine.execMtLd e t a s
  | .ftLd first n a => Sys2Proof.Machine.execFtLd first n a s
  | .epLd t n a => Sys2Proof.Machine.execEpLd t n a s
  | .patchPair hi lo => Sys2Proof.Machine.execPatchPair hi lo s
  | .cp f cb d a b c => Sys2Proof.Machine.execCp f cb d a b c s
  | .cpM ver ph cb off d a b c => Sys2Proof.Machine.execCpM ver ph cb off d a b c s
  | .cp2d f t cb d a b c => Sys2Proof.Machine.execCp2d f t cb d a b c s
  | .gat f t cb d a b c => Sys2Proof.Machine.execGat f t cb d a b c s
  | .sca f t cb d a b c => Sys2Proof.Machine.execSca f t cb d a b c s
  | .cpRes d a => Sys2Proof.Machine.execCpRes d a s
  | .cpResDrop d a => Sys2Proof.Machine.execCpResDrop d a s
  | .copyChunk num => Sys2Proof.Machine.execCopyChunk num s
  | .copyComplete num => Sys2Proof.Machine.execCopyComplete num s
  | .tlWait t d a b => Sys2Proof.Machine.execTlWait t d a b s
  | .tlRd t d => Sys2Proof.Machine.execTlRd t d s
  | .tlPub t a b => Sys2Proof.Machine.execTlPub t a b s
  | .publicationWrite t => Sys2Proof.Machine.execPublicationWrite t s
  | .bankVec st rows => Sys2Proof.Machine.execBankVec st rows s
  | .bankBuf st sp banks => Sys2Proof.Machine.execBankBuf st sp banks s
  | .tlbflWrite all => Sys2Proof.Machine.execTlbflWrite all s
  | .rotloWrite v => Sys2Proof.Machine.execRotloWrite v s
  | .rotbWrite v => Sys2Proof.Machine.execRotbWrite v s
  | .lcWrite l v => Sys2Proof.Machine.execLcWrite l v s
  | .avtbWrite v => Sys2Proof.Machine.execAvtbWrite v s
  | .schbWrite cmpb v => Sys2Proof.Machine.execSchbWrite cmpb v s
  | .kvpolbWrite v => Sys2Proof.Machine.execKvpolbWrite v s
  | .kvmirbWrite v => Sys2Proof.Machine.execKvmirbWrite v s
  | .tvecWrite v => Sys2Proof.Machine.execTvecWrite v s
  | .segEvWrite v => Sys2Proof.Machine.execSegEvWrite v s
  | .atMask n a => Sys2Proof.Machine.execAtMask n a s
  | .kvApp d a g n => Sys2Proof.Machine.execKvApp d a g n s
  | .kvLk d a b g => Sys2Proof.Machine.execKvLk d a b g s
  | .kvAlloc d => Sys2Proof.Machine.execKvAlloc d s
  | .kvAllocFork d a => Sys2Proof.Machine.execKvAllocFork d a s
  | .kvRef d a => Sys2Proof.Machine.execKvRef d a s
  | .kvFree d a => Sys2Proof.Machine.execKvFree d a s
  | .kvFreeSeq d a => Sys2Proof.Machine.execKvFreeSeq d a s
  | .kvCow d a b g => Sys2Proof.Machine.execKvCow d a b g s
  | .kvCowSpill d a b g => Sys2Proof.Machine.execKvCowSpill d a b g s
  | .kvLenCommit d a => Sys2Proof.Machine.execKvLenCommit d a s
  | .kvLenRestore d a => Sys2Proof.Machine.execKvLenRestore d a s
  | .pfxIns d a b g blk => Sys2Proof.Machine.execPfxIns d a b g blk s
  | .pfxFind d a b g blk => Sys2Proof.Machine.execPfxFind d a b g blk s
  | .pfxFindDrop d b g => Sys2Proof.Machine.execPfxFindDrop d b g s
  | .attentionFire dae => Sys2Proof.Machine.execAttentionFire dae s
  | .attentionComplete dae => Sys2Proof.Machine.execAttentionComplete dae s
  | .attentionReservationReturn dae => Sys2Proof.Machine.execAttentionReservationReturn dae s
  | .arrWait d b races => Sys2Proof.Machine.execArrWait d b races s
  | .segPin d a b => Sys2Proof.Machine.execSegPin d a b s
  | .segUnpin a => Sys2Proof.Machine.execSegUnpin a s
  | .segHold d a b k => Sys2Proof.Machine.execSegHold d a b k s
  | .spawn d a => Sys2Proof.Machine.execSpawn d a s
  | .taskEnd d mask => Sys2Proof.Machine.execTaskEnd d mask s
  | .feSetFull a => Sys2Proof.Machine.execFeSetFull a s
  | .feSetEmpty a => Sys2Proof.Machine.execFeSetEmpty a s
  | .rqNextAdv d a b => Sys2Proof.Machine.execRqNextAdv d a b s
  | .rqNextDone d a b => Sys2Proof.Machine.execRqNextDone d a b s
  | .rqNextSusp d a b => Sys2Proof.Machine.execRqNextSusp d a b s
  | .rqNextResume d a b => Sys2Proof.Machine.execRqNextResume d a b s
  | .rqNextRelease d a b => Sys2Proof.Machine.execRqNextRelease d a b s
  | .cmpApp d a b => Sys2Proof.Machine.execCmpApp d a b s
  | .cmpTake d a => Sys2Proof.Machine.execCmpTake d a s
  | .termOpen d => Sys2Proof.Machine.execTermOpen d s
  | .termClose d => Sys2Proof.Machine.execTermClose d s
  | .termWait d b => Sys2Proof.Machine.execTermWait d b s
  | .bar lvl d b => Sys2Proof.Machine.execBar lvl d b s
  | .dmSet lvl a => Sys2Proof.Machine.execDmSet lvl a s
  | .bltOpen d a b => Sys2Proof.Machine.execBltOpen d a b s
  | .bltPost d a b => Sys2Proof.Machine.execBltPost d a b s
  | .bltRead d a sel => Sys2Proof.Machine.execBltRead d a sel s
  | .bltClose d a => Sys2Proof.Machine.execBltClose d a s
  | .govRes d a => Sys2Proof.Machine.execGovRes d a s
  | .govRel d => Sys2Proof.Machine.execGovRel d s
  | .govBallast d a => Sys2Proof.Machine.execGovBallast d a s
  | .opReq d a => Sys2Proof.Machine.execOpReq d a s
  | .ctxSwap d => Sys2Proof.Machine.execCtxSwap d s
  | .ctxSpill d a => Sys2Proof.Machine.execCtxSpill d a s
  | .ctxFill d a => Sys2Proof.Machine.execCtxFill d a s
  | .partitionSwap part imageIn imageOut => Sys2Proof.Machine.execPartitionSwap part imageIn imageOut s
  | .rpCtlWrite v => Sys2Proof.Machine.execRpCtlWrite v s
  | .launchAdmit part addr r => Sys2Proof.Machine.execLaunchAdmit part addr r s
  | .launchRun part addr r => Sys2Proof.Machine.execLaunchRun part addr r s
  | .launchWindowRefused addr => Sys2Proof.Machine.execLaunchWindowRefused addr s
  | .launchContextStart station => Sys2Proof.Machine.execLaunchContextStart station s
  | .logTailWrite v => Sys2Proof.Machine.execLogTailWrite v s
  | .logOvfWrite v => Sys2Proof.Machine.execLogOvfWrite v s
  | .windowMWrite off v => Sys2Proof.Machine.execWindowMWrite off v s
  | .keepWindowAccess off wdata n => Sys2Proof.Machine.execKeepWindowAccess off wdata n s
  | .xRemoteRequest station part ha wdata n => Sys2Proof.Machine.execXRemoteRequest station part ha wdata n s
  | .ethernetForeignFrame etherType => Sys2Proof.Machine.execEthernetForeignFrame etherType s
  | .bringupStep ok measurement => Sys2Proof.Machine.execBringupStep ok measurement s
  | .coreReset core => Sys2Proof.Machine.execCoreReset core s
  | .ringDieReset station => Sys2Proof.Machine.execRingDieReset station s
  | .xChunkReply refused rdata => Sys2Proof.Machine.execXChunkReply refused rdata s
  | .windowMReadDuringBringUp off => Sys2Proof.Machine.execWindowMReadDuringBringUp off s
  | .dieLoss station => Sys2Proof.Machine.execDieLoss station s
  | .ret => Sys2Proof.Machine.execRet s
  | .idle => Sys2Proof.Machine.execIdle s
  | .eret => Sys2Proof.Machine.execEret s
  | .nop => Sys2Proof.Machine.execNop s
  | .relRec => Sys2Proof.Machine.execRelRec s
  | .vectorIntakeStart => Sys2Proof.Machine.execVectorIntakeStart s
  | .vectorReservationReturn => Sys2Proof.Machine.execVectorReservationReturn s
  | .cbWaitTimeout => Sys2Proof.Machine.execCbWaitTimeout s
  | .commitApply => Sys2Proof.Machine.execCommitApply s
  | .engineFrontApply => Sys2Proof.Machine.execEngineFrontApply s
  | .meFire => Sys2Proof.Machine.execMeFire s
  | .meMacComplete => Sys2Proof.Machine.execMeMacComplete s
  | .meDrainEnd => Sys2Proof.Machine.execMeDrainEnd s
  | .meReservationReturn => Sys2Proof.Machine.execMeReservationReturn s
  | .copyReservationReturn => Sys2Proof.Machine.execCopyReservationReturn s
  | .pageWalkEnd => Sys2Proof.Machine.execPageWalkEnd s
  | .tlWaitTimeout => Sys2Proof.Machine.execTlWaitTimeout s
  | .storePerform => Sys2Proof.Machine.execStorePerform s
  | .resultLanding => Sys2Proof.Machine.execResultLanding s
  | .bankWakeEnd => Sys2Proof.Machine.execBankWakeEnd s
  | .icacheFill => Sys2Proof.Machine.execIcacheFill s
  | .icflWrite => Sys2Proof.Machine.execIcflWrite s
  | .icacheFlushDone => Sys2Proof.Machine.execIcacheFlushDone s
  | .tlbInvalidateDone => Sys2Proof.Machine.execTlbInvalidateDone s
  | .arrWaitTimeout => Sys2Proof.Machine.execArrWaitTimeout s
  | .strokeBoundary => Sys2Proof.Machine.execStrokeBoundary s
  | .stagingEnd => Sys2Proof.Machine.execStagingEnd s
  | .reInjection => Sys2Proof.Machine.execReInjection s
  | .taskOffer => Sys2Proof.Machine.execTaskOffer s
  | .termWaitTimeout => Sys2Proof.Machine.execTermWaitTimeout s
  | .barrierPass => Sys2Proof.Machine.execBarrierPass s
  | .barTimeout => Sys2Proof.Machine.execBarTimeout s
  | .governorStep => Sys2Proof.Machine.execGovernorStep s
  | .capSample => Sys2Proof.Machine.execCapSample s
  | .rampStep => Sys2Proof.Machine.execRampStep s
  | .rampComplete => Sys2Proof.Machine.execRampComplete s
  | .droopEmergency => Sys2Proof.Machine.execDroopEmergency s
  | .ctxSpillComplete => Sys2Proof.Machine.execCtxSpillComplete s
  | .ctxFillComplete => Sys2Proof.Machine.execCtxFillComplete s
  | .trapEntry => Sys2Proof.Machine.execTrapEntry s
  | .freezeTimeout => Sys2Proof.Machine.execFreezeTimeout s
  | .containment => Sys2Proof.Machine.execContainment s
  | .stageRefetch => Sys2Proof.Machine.execStageRefetch s
  | .kvMirrorWork => Sys2Proof.Machine.execKvMirrorWork s
  | .mirrorSequenceWord => Sys2Proof.Machine.execMirrorSequenceWord s
  | .recordComplete => Sys2Proof.Machine.execRecordComplete s
  | .mbCheckpoint => Sys2Proof.Machine.execMbCheckpoint s
  | .checkpointComplete => Sys2Proof.Machine.execCheckpointComplete s
  | .mbLoadModel => Sys2Proof.Machine.execMbLoadModel s
  | .mbUnload => Sys2Proof.Machine.execMbUnload s
  | .mbFenceStation => Sys2Proof.Machine.execMbFenceStation s
  | .mbRestartRing => Sys2Proof.Machine.execMbRestartRing s
  | .restoreComplete => Sys2Proof.Machine.execRestoreComplete s
  | .mbAttest => Sys2Proof.Machine.execMbAttest s
  | .mbSetPowerCap => Sys2Proof.Machine.execMbSetPowerCap s
  | .mbAllotCluster => Sys2Proof.Machine.execMbAllotCluster s
  | .mbSetPeer => Sys2Proof.Machine.execMbSetPeer s
  | .mbWarmReset => Sys2Proof.Machine.execMbWarmReset s
  | .mbInvalidCode => Sys2Proof.Machine.execMbInvalidCode s
  | .mailboxComplete => Sys2Proof.Machine.execMailboxComplete s
  | .xAckTimeout => Sys2Proof.Machine.execXAckTimeout s
  | .powerOn => Sys2Proof.Machine.execPowerOn s
  | .boWaitTimeout => Sys2Proof.Machine.execBoWaitTimeout s
  | .durableWriteInCheckpointDomain => Sys2Proof.Machine.execDurableWriteInCheckpointDomain s

end Sys2Proof.Machine
end

