-- ==== Sys2Proof/Machine/Cycle.lean ====
section
/-! DEFINITION. One core-clock cycle of the core in focus: what goes on by itself, results that land, boundary events, freezes, the issue of a bundle (spec 04 R80 to R94; 05 R114; 16 R376 to R388). -/

namespace Sys2Proof.Machine

/-- An outcome that goes on. -/
def andThen (o : Host.Outcome State Fault Refusal) (f : State → Host.Outcome State Fault Refusal) : Host.Outcome State Fault Refusal :=
  match o with
  | .next t => f t
  | .fault r => .fault r
  | .refused r => .refused r

/-! ### What goes on by itself -/

def evIf (b : Bool) (l : List Instr) : List Instr := if b then l else []

/-- A bank that wakes. -/
def isWaking : Bank → Bool
  | .waking _ => true
  | _ => false

/-- Events of the core's own units that may be due: each does nothing where its own conditions do not hold (log 6). First what ends and what the
fronts apply: each of the five kinds of front can apply a command before the engines look at their queues. -/
def State.frontWork (s : State) : List Instr :=
  let c := s.core
  evIf (c.bbs.any (fun p => isWaking p.2) || c.ctx.r.bank.any (fun p => isWaking p.2)) [.bankWakeEnd]
    ++ evIf (!c.me.isEmpty) [.meDrainEnd, .meMacComplete]
    ++ evIf (c.contexts.any (fun x => !x.cmds.isEmpty)) (List.replicate 5 .engineFrontApply)

/-- Then what the engines do, with what the fronts have applied in the same cycle (08 R187). -/
def State.engineWork (s : State) : List Instr :=
  let c := s.core
  evIf (!c.ctx.meq.isEmpty) [.meFire] ++ evIf (c.meR.held != 0) [.meReservationReturn]
    ++ evIf (!c.vpWait.isEmpty) [.vectorIntakeStart] ++ evIf (c.vpR.held != 0) [.vectorReservationReturn]
    ++ (((c.copies.map (·.num)).eraseDups).map (fun n => [Instr.copyComplete n, Instr.copyChunk n])).flatten
    ++ evIf (c.ceR.held != 0) [.copyReservationReturn]
    ++ evIf (!c.atRun.isEmpty) [.attentionComplete false, .attentionComplete true]
    ++ evIf (!c.ctx.atq.isEmpty) [.attentionFire false, .attentionFire true]
    ++ evIf (!c.leases.isEmpty) [.storePerform]
    ++ evIf (c.contexts.any (fun x => !(x.tlMe.pubs.isEmpty && x.tlCe.pubs.isEmpty && x.tlVp.pubs.isEmpty && x.tlAt.pubs.isEmpty)))
        [.publicationWrite .me, .publicationWrite .ce, .publicationWrite .vp, .publicationWrite .at]
    ++ evIf (c.contexts.any (fun x => !x.commits.isEmpty)) [.commitApply]
    ++ evIf c.shadow.spillTo.isSome [.ctxSpillComplete] ++ evIf c.shadow.fillFrom.isSome [.ctxFillComplete]
    ++ evIf (c.refetch.any (fun r => r.busy)) [.stageRefetch] ++ evIf c.bar.isSome [.barrierPass]
    ++ evIf (c.contexts.any (fun x => x.rp.isSome)) [.recordComplete]

/-- Events of the cluster, the die and the module's memory that may be due. -/
def State.sharedWork (s : State) : List Instr :=
  let k := s.cluster
  let d := s.die s.station
  evIf (k.paeR.held != 0) [.attentionReservationReturn false] ++ evIf (k.daeR.held != 0) [.attentionReservationReturn true]
    ++ evIf (!s.walks.isEmpty) [.pageWalkEnd] ++ evIf k.flush.isSome [.icacheFlushDone] ++ evIf (!s.tlbinv.isEmpty) [.tlbInvalidateDone]
    ++ evIf (!s.durq.isEmpty) [.durableWriteInCheckpointDomain] ++ evIf (!s.mirq.isEmpty) [.kvMirrorWork, .mirrorSequenceWord]
    ++ evIf (s.hub.launches.any (fun l => l.station == s.station && !l.started)) [.launchContextStart s.station]
    ++ evIf (d.arrs.any (fun t => t.taker.isNone) || d.tiles.any (fun t => t.taker.isNone)) [.taskOffer]

/-- The governor's step boundaries that have come, one every 4 cycles; a grant may start its holder in the cycle of the boundary (15 R371). -/
def State.governorWork (s : State) : List Instr :=
  match s.cluster.pow.bnd with
  | some t => evIf (decide (t ≤ s.core.ccyc)) (List.replicate ((s.core.ccyc - t) / 4 + 1) .governorStep)
  | none => []

/-- Everything that may be due in a cycle in which no front applies anything. -/
def State.work (s : State) : List Instr := s.governorWork ++ s.frontWork ++ s.engineWork ++ s.sharedWork

/-- One event takes place by itself. -/
def State.auto (s : State) (i : Instr) : State :=
  match exec i s with
  | .next t => t.fresh
  | .fault _ => s
  | .refused _ => s

/-- What the queues of launch contexts that have ended still hold fires in their name (12 R302, R312). -/
def State.endedWork (s : State) : State :=
  (s.core.endedCtx.filter (fun x => !(x.meq.isEmpty && x.atq.isEmpty))).foldl (fun s x =>
    s.asOwner x.cid (fun s => [Instr.meFire, .attentionFire false, .attentionFire true].foldl State.auto s)) s

/-- The events of a cycle. -/
def State.units (s : State) : State :=
  let s1 := (s.governorWork ++ s.frontWork).foldl State.auto s
  let s2 := ((s1.engineWork ++ s.sharedWork).foldl State.auto s1).endedWork
  if s2.core.ahead.isEmpty then s2 else s2.aheadWork

/-! ### Operations at their due cycle (04 R86; 16 R377, cause 3) -/

/-- Bank instructions act after the reads of the bundle that issues in the same cycle (05 R114). -/
def bankOp : Instr → Bool
  | .bankVec .. | .bankBuf .. => true
  | _ => false

/-- Issue order: the oldest bundle first, then slots B, M, V, E. -/
def deferBefore (a b : Defer) : Bool := if a.iat ≠ b.iat then decide (a.iat < b.iat) else decide ((slotOf a.ins).ix ≤ (slotOf b.ins).ix)

def deferInsert (d : Defer) : List Defer → List Defer
  | [] => [d]
  | e :: es => if deferBefore d e then d :: e :: es else e :: deferInsert d es

/-- The operations with Q that are due, oldest first. -/
def State.dueOps (s : State) : List Defer := (s.core.ctx.fl.defer.filter (fun d => decide (d.due ≤ s.core.icyc))).foldr deferInsert []

def State.dropDefer (s : State) (d : Defer) : State := s.mapFl (fun f => { f with defer := f.defer.erase d })

/-- The stream as an operation put aside sees it: its operands, its accesses, its mapping, its bundle, its phase. -/
def State.asIssued (s : State) (d : Defer) : State :=
  let iss : Iss :=
    { x := if d.x then 0xF else 0, cap := some d.caps, capV := d.vdata, acc := d.acc, ser := d.serial, now := true, bun := d.bundle, clk := d.clk
      landed := d.landed, bundle := true }
  (s.latch iss).mapCtx (fun x => { x with phase := d.phase, f := { x.f with rotlo := d.rotlo, rotb := d.rotb, pc := d.pc } })

/-- What the stream had is put back, but for what the operation itself changed. -/
def State.backFrom (t s : State) (d : Defer) : State :=
  let f := s.core.ctx.f
  let taken := t.core.iss.taken
  let t1 := t.mapCtx (fun x => { x with
    phase := if x.phase = d.phase then s.core.ctx.phase else x.phase
    f := { x.f with rotlo := f.rotlo, rotb := f.rotb, pc := if taken.isSome then x.f.pc else f.pc } })
  match taken with
  | some n => (t1.latch {}).mapCore (fun c => { c with gap := n - 1, gapIss := true })
  | none => t1.latch {}

/-- The fault that an operation raises at its due cycle, or what still holds it. Room in its queue it had at its issue. -/
def State.dueFault (s : State) (d : Defer) : Option TrapInfo := (familyOf d.ins).fault d.ins (s.asIssued d)
def State.dueHold (s : State) (d : Defer) : Option Hold := ((familyOf d.ins).hold d.ins (s.asIssued d)).filter (fun h => !h.room)

/-- A compared command that came to its unit with its due cycle is applied in that cycle, if nothing stands before it (04 R86). -/
def State.applyNow (s : State) (n : Nat) : State :=
  match s.core.ctx.cmds.find? (fun m => m.serial == n) with
  | some m => if (cmdFronts m.ins).all Front.isUnit && s.core.canApply s.core.ctx m then s.applyFront m else s
  | none => s

/-- The effect of an operation at its due cycle. -/
def State.dueEffect (s : State) (d : Defer) : State :=
  let s1 := s.dropDefer d
  match exec d.ins ((s1.asIssued d).mapCore (fun c => { c with iss := { c.iss with checked := true } })) with
  | .next t => (t.backFrom s1 d).applyNow d.serial
  | .fault _ => s1
  | .refused _ => s1

/-- A stepped bundle that faults raises its own cause instead of the single step's (16 R384). -/
def State.stepFaults (s : State) (iat : Nat) : State :=
  if s.core.ctx.stepAt = some iat then s.mapCtx (fun x => { x with stepAt := none, pending := x.pending.filter (fun t => t.code != 0x22) }) else s

/-- One operation at its due cycle: its fault becomes pending, or its effect takes place, unless something holds it. A wait of its own is a
freeze of the core from its due cycle on (10 R250, R251; 12 R302, R318; log 126). -/
def State.runDue (s : State) (d : Defer) : State :=
  match s.dueFault d with
  | some t => (((s.dropDefer d).logFault t).endWalks.stepFaults d.iat).pend { t with defer := true }
  | none =>
    match s.dueHold d with
    | some h => if h.cls == .wait then s else h.start s
    | none => if bankOp d.ins then s else ((s.mapCore (fun c => { c with wait := none })).dueEffect d).endWalks

/-- The wait of an operation at its due cycle. -/
def State.dueWait (s : State) : Option Hold := s.dueOps.findSome? (fun d => (s.dueHold d).filter (fun h => h.cls == .wait))

/-- An operation is past its due cycle and held by something else (04 R88). -/
def State.dueHeld (s : State) : Bool := s.dueOps.any (fun d => !bankOp d.ins && (match s.dueHold d with
  | some h => h.cls != .wait
  | none => true))

/-- Results land and operations with Q act, at the start of a cycle. -/
def State.landings (s : State) : State :=
  let s1 := s.landDue
  if s1.dueOps.isEmpty then s1 else (s1.dueOps.foldl State.runDue s1).landDue

/-- Steps 3 to 5 of R114: live bits cleared under Q, the header drop, bank instructions under Q. -/
def State.bankSteps (s : State) (hdr : BitVec 32) : State :=
  let now := s.core.icyc
  let das := s.core.ctx.fl.das.filter (fun d => decide (d.due ≤ now))
  let s1 := if das.isEmpty then s else
    (s.mapRegs (fun r => { r with live := ((das.map (·.regs)).flatten).foldl (fun t n => Tab.set false t n false) r.live })).mapFl
      (fun f => { f with das := f.das.filter (fun d => !decide (d.due ≤ now)) })
  let st := hdr.extractLsb' 24 2
  let mask := (hdr.extractLsb' 8 16).toNat
  let s2 := if st = 1 then s1.dropRows false mask else if st = 2 then s1.dropRows true mask else s1
  s2.dueOps.foldl (fun s d => if bankOp d.ins then s.dueEffect d else s) s2

/-! ### Boundary events (16 R377, R378) -/

/-- The check core goes on with the bundles it lags until it has released the command for which the core is frozen (04 R88). -/
def State.checkOn (s : State) (n : Nat) : State :=
  if s.core.ctx.cmds.any (fun m => m.serial == n && m.sent.isNone) then
    s.mapCore (fun c => Core.release { c with checkLag := c.checkLag - 1 })
  else s

/-- The single step waits until the commands of the stepped bundle are accepted and the answers of its units have landed, those with Q at their
due cycle too (16 R384); a front that has stopped accepts none. Every other cause comes first (16 R377). -/
def State.stepWaits (s : State) : Bool :=
  let x := s.core.ctx
  x.topCause.any (fun t => t.code == 0x22)
    && (x.cmds.any (fun m => m.bundle == s.core.bundles && !x.blocked m)
      || x.stepAt.any (fun c => x.fl.defer.any (fun d => d.iat == c)
        || x.fl.pend.any (fun p => p.iat == c && p.slot == .e && (decide (s.core.icyc < p.due) || !p.there s.core.ccyc))))

/-- The results that a Late freeze awaits. -/
def State.lateRes (s : State) : List Pend := s.core.ctx.fl.pend.filter (fun p => decide (p.due ≤ s.core.icyc) && !p.there s.core.ccyc)

/-- The result of a KV command that may touch many pages, which the unit has not applied: what it takes beyond L is a wait with no bound, and
a trap is taken after it (13 R331). -/
def State.manyLate (s : State) (p : Pend) : Bool := p.unit.any (fun n => s.core.ctx.cmds.any (fun m => m.serial == n && manyPages m.ins))

/-- The event that this boundary takes, if there is one: a containment, a partition swap, a freeze timeout, a swap, a pending cause. Between a
transfer and its target no cause but a freeze timeout is taken. -/
def State.boundaryEvent (s : State) : Option State :=
  if s.core.err.isSome then
    if s.core.gap ≠ 0 then (if 65536 ≤ s.core.frz.run then some s.freezeTimeout else none)
    else if s.core.err.any s.core.earlierRecord then some (s.tick 1)
    else some s.contain
  else if let some (p, i, o) := s.core.pswap then some (s.partitionSwap p i o)
  else if 65536 ≤ s.core.frz.run then some s.freezeTimeout
  else if s.core.swap.isSome then some s.shadowSwap
  else if s.core.gap ≠ 0 then none
  else if s.launchOver then some s.launchReturn
  else if s.core.ctx.topCause.isSome && !s.lateRes.any s.manyLate && !s.stepWaits then some (s.endBar 1).boundary
  else none

/-! ### Cycles without a bundle (04 R80, R88, R94; 16 R399) -/

/-- An issue cycle passes: the all-dead rule at its end (05 R113). -/
def State.passIssue (s : State) : State := (s.deadRows.mapCore (fun c => { c with icyc := c.icyc + 1 })).tick 1

/-- The awaited command stands behind a command, perhaps with Q, that issued before it and shares a front with it. -/
def sharesFront (a b : Instr) : Bool := (cmdFronts a).any (fun f => (cmdFronts b).contains f)

/-- What a Late freeze waits for stands behind an operation with Q that issued before it and whose due cycle has not come: a command behind one of
its unit, one that reads or writes bytes behind an access, an access behind an access. -/
def State.unblock (s : State) : State :=
  let x := s.core.ctx
  if x.fl.defer.isEmpty then s
  else
    let units := s.lateRes.filterMap (·.unit) ++ s.core.holdCmd.toList
    let due := s.dueOps.filter (fun d => accesses d.ins)
    let waited := s.core.leases.filter (fun l => units.contains l.serial)
    let cmds := x.cmds.filter (fun m => x.cmds.any (fun a => units.contains a.serial && decide (m.serial ≤ a.serial) && sharesFront m.ins a.ins))
    s.hasten (fun d => due.contains d || cmds.any (fun m =>
        (decide (d.serial < m.serial) && (cmdFronts d.ins).any (fun f => f.isUnit && f != .unit 0 && (cmdFronts m.ins).contains f))
          || (touches m.ins && accesses d.ins && decide (d.bundle < m.bundle))))
      (fun l => waited.any (fun a => a.buf == l.buf && decide (l.ord ≤ a.ord))
        || due.any (fun d => decide (l.ord < d.serial) && bufKeys d.keys == l.buf))

/-- In `idle` a wait counts no freeze (16 R399). -/
def State.uncounted (t s : State) : State :=
  if s.core.ctx.f.idle then
    t.mapCore (fun c => { c with frz := s.core.frz, ctr := { c.ctr with frzN := s.core.ctr.frzN, frzCyc := s.core.ctr.frzCyc } })
  else t

/-- A barrier waits for the accesses to D, G and H and the `.ph` copies with Q that issued before it (10 R239; log 122). -/
def State.hastenBar (s : State) : State :=
  s.hasten (fun d => (accesses d.ins && !bufKeys d.keys) || cmdPh (s.core.ctx.template 3) d.ins) (fun _ => false)

/-- One cycle of a freeze for a result or an effect that is late (04 R88; 13 R331). -/
def State.lateCycle (s : State) : State :=
  if !s.dueHeld && s.lateRes.all s.manyLate then s.unblock.freeze .wait else s.unblock.freeze .late

/-- What the core does in this cycle instead of issuing a bundle. -/
def State.stall (s : State) : Option State :=
  let c := s.core
  match c.bar with
  | some (_, n) => some (if s.waitOver false then s.endBar 1 else ((s.checkOn n).hastenBar.holdFor { cls := .wait }).uncounted s)
  | none =>
    match c.holdCmd with
    | some n => some (((s.checkOn n).unblock.freeze .late).uncounted s)
    | none =>
      if s.lateNow || s.dueHeld then some (if c.ctx.f.idle then s.unblock.tick 1 else s.lateCycle)
      else if let some h := s.dueWait then some ((s.holdFor h).uncounted s)
      else if c.ctx.f.idle then some ((s.bankSteps 0).passIssue)
      else if c.gap ≠ 0 then
        let s1 := s.mapCore (fun c => { c with gap := c.gap - 1, frz := {} })
        some (if c.gapIss then (s1.bankSteps 0).passIssue else s1.tick 1)
      else if c.ctx.task.ending && !c.ctx.f.act then
        let t := s.endingCycle
        some (match t.core.iss.taken with
          | some n => (t.latch {}).passIssue.mapCore (fun c => { c with gap := n - 1, gapIss := true })
          | none => t)
      else none

/-! ### The issue of a bundle (04 R80 to R104; 05 R114) -/

/-- Slot B acts before the other slots: a read of a CSR. -/
def readsFirst : Instr → Bool
  | .csrr .. => true
  | _ => false

/-- Slot E takes a task and transfers control, so that slot B acts before it; with Q it is put aside before slot B acts, whose branch cancels it
(04 R87). -/
def takesTask : Instr → Bool
  | .arrWait .. | .taskEnd .. => true
  | _ => false

/-- The buffer of a status branch. -/
def isTsb (i : Instr) : Bool := (tsbCb i).isSome

/-- Slot B of a bundle whose other slots have acted. A status branch was decided before them, in `pre`. -/
def State.slotB (s : State) (b : Instr) (pre : State) : Host.Outcome State Fault Refusal :=
  if readsFirst b then .next s
  else if isTsb b then .next (if pre.core.iss.taken.isSome then s.branch pre.core.ctx.f.pc else s)
  else exec b s

/-- What slot B does before the other slots: a read of a CSR is made; a status branch reads its word. -/
def State.slotBFirst (s : State) (b : Instr) : Host.Outcome State Fault Refusal :=
  if readsFirst b then exec b s
  else match tsbCb b with
    | some cb => .next (s.tsbRead cb)
    | none => .next s

/-- The four slots (04 R82: every source is read at issue; 05 R114): `s` holds the bundle's latch. -/
def State.slots (s : State) (b : Bundle) : Host.Outcome State Fault Refusal :=
  andThen (if isTsb b.b then exec b.b s else .next s) (fun pre =>
  andThen (s.slotBFirst b.b) (fun s =>
  andThen (exec b.m s) (fun s =>
  andThen (exec b.v s) (fun s =>
    let s := s.bankSteps b.hdr
    if takesTask b.e && !s.qOf .e then andThen (s.slotB b.b pre) (fun s => exec b.e s)
    else andThen (exec b.e s) (fun s => s.slotB b.b pre)))))

/-- The skip of a loop with count 0, after the last bundle of its block (04 R100). -/
def State.loopSkip (s : State) (second : Bool) : State :=
  match s.core.iss.taken, s.core.ctx.f.skip with
  | none, some t => if second then s.transfer t 3 true else s
  | _, _ => s

/-- The stepped bundle has issued (16 R384): cause 0x22, unless it is `trap` or `brk` and has a cause of its own. -/
def State.stepped (s : State) : State :=
  let s1 := s.catchUp.mapCtx (fun x => { x with stepArmed := false })
  if s1.core.ctx.pending.any (fun t => t.code == cTrapInsn || t.code == cBreakpoint) then s1
  else (s1.mapCtx (fun x => { x with stepAt := some s.core.icyc })).pend { code := 0x22 }

/-- The end of a bundle's issue cycle: the next address, the counts, the check core four bundles behind (04 R93, R94; 16 R384, R385). -/
def State.closeIssue (s : State) (pc : Nat) (armed : Bool) : State :=
  let s1 := s.loopSkip (pc / 32 % 2 == 1)
  let s2 := match s1.core.iss.taken with
    | some n => s1.mapCore (fun c => { c with gap := n - 1, gapIss := true })
    | none => s1.mapFlow (fun f => { f with pc := (pc + 32) % codeSpace, highPc := 0 })
  let s3 := s2.mapCore (fun c =>
    Core.release { c with bundles := c.bundles + 1, checkLag := min 4 (c.checkLag + 1), iss := {}, ctr := { c.ctr with issN := c.ctr.issN + 1 } })
  let s4 := s3.endWalks
  let s5 := if s4.core.ctx.f.idle then s4.catchUp else s4
  (if armed then s5.stepped else s5).passIssue

/-- A bundle issues. `s` holds its header latched and has passed every check. Its reads of counters see none of its own events (05 R119). -/
def State.issueBundle (s : State) (b : Bundle) : Host.Outcome State Fault Refusal :=
  let pc := s.core.ctx.f.pc
  let armed := s.core.ctx.stepArmed
  let before := s.core.ctr.less s.core.frz.own
  andThen ((s.thaw.latch { headerIss b true with ctr := some before }).slots b) (fun t => .next (t.closeIssue pc armed).fresh)

/-- The next bundle: it traps, is held for a cycle, or issues. -/
def State.tryIssue (s : State) : Host.Outcome State Fault Refusal :=
  match s.ready with
  | .trap t => .next (s.trapNow t).fresh
  | .stall t => .next ((t.ownCounts s).latch {}).fresh
  | .go b => s.issueBundle b

/-! ### One cycle -/

/-- A core runs unless it has halted or its cluster belongs to no partition (01 R18; 16 R380). -/
def State.running (s : State) : Bool := !s.core.halted && s.cluster.owner != 0

/-- One cycle of the core in focus. -/
def State.cycle (s : State) : Host.Outcome State Fault Refusal :=
  let s0 := s.units
  if !s0.running then .next (s0.tick 1).fresh
  else
    let s1 := s0.landings
    match s1.boundaryEvent with
    | some t => .next t.fresh
    | none =>
      match s1.stall with
      | some t => .next t.fresh
      | none => if s1.stepWaits then .next ((s1.bankSteps 0).passIssue).fresh else s1.tryIssue

/-! ### The outside world -/

/-- A bit of a stored word or of its check byte changes of itself (16 R393). -/
def State.flipStored (s : State) (key bitNo : Nat) : State :=
  let w := key / 8
  let c := s.chkOf w
  if bitNo < 64 then
    let k := 8 * w + bitNo / 8
    let b := BitVec.ofNat 8 (flipBit (s.rd1 k).toNat (bitNo % 8))
    { s with mem := Tab.set unlisted s.mem k b, chk := Tab.set none s.chk w (some (BitVec.ofNat 8 c)) }
  else { s with chk := Tab.set none s.chk w (some (BitVec.ofNat 8 (flipBit c (bitNo % 8)))) }

/-- A residue mismatch (08 R190; 13 R332) of the operation whose sums a MAC array of the core forms, else of its dot product in an
attention engine: that operation fails, with its phase; where none is formed, nothing happens. -/
def Core.residue (c : Core) (block : Nat) : Core :=
  let n := { c.ctr with resN := c.ctr.resN + 1 }
  match c.me.find? (fun m => !m.bad && (match m.stage with
    | .mac _ => true
    | _ => false)), c.atRun.find? (fun a => !a.bad) with
  | some m, _ => { (c.meSpoil m (1 + put (block % meKb m.op.tmpl) 2)).noteErr { kind := 2, phase := m.op.phase, owner := m.owner } with ctr := n }
  | none, some a =>
    let c1 := (c.onOwner a.owner (fun x => if a.op.dae then { x with daeMpc := 1 } else { x with paeMpc := 1 })).noteErr
      { kind := 2, phase := a.op.phase, owner := a.owner }
    { c1 with ctr := n, atRun := c1.atRun.map (fun o => if o.op.num = a.op.num && o.owner = a.owner then { o with bad := true } else o) }
  | none, none => c

/-- The phase of a bundle of the running stream (07 R163): the first whose `cb.rel` stands in it or behind it, else the present one. -/
def Ctx.phaseOf (x : Ctx) (bundle : Nat) : Nat := (((x.commits.filter (fun r => decide (bundle ≤ r.bundle))).map (·.phase)).min?).getD x.phase

/-- A mismatch, a residue mismatch or a parity error of a core (16 R387): kinds 1, 2 and 3. The bundle that fails issued `back` bundles before
the last one; a mismatch is found when it is compared, so a bundle that is compared already has none (R385). -/
def State.upset (s : State) (k kind back : Nat) : State :=
  if kind = 2 then (s.updCore k (fun c => c.residue (Config.freeNat s.free 0xE0))).fresh
  else s.updCore k (fun c =>
    if kind = 1 ∧ c.checkLag ≤ back then c
    else { c.noteErr { kind := kind, phase := c.ctx.phaseOf (c.bundles - back), owner := c.ctx.cid } with
           ctr := if kind = 1 then { c.ctr with sdeN := c.ctr.sdeN + 1 } else c.ctr })

/-- An action of the agenda. -/
def State.act (s : State) (a : Action) : Host.Outcome State Fault Refusal :=
  match a with
  | .event i => andThen (exec i s) (fun t => .next t.fresh)
  | .focus k => if k < 1536 then .next (s.focus k) else .fault .noSuchPlace
  | .upset k kind back => if k < 1536 ∧ 1 ≤ kind ∧ kind ≤ 3 then .next (s.upset k kind back) else .fault .noSuchPlace
  | .flip key b => .next (s.flipStored key b)
  | .warm => .next s.warmReset

/-- One step: an action of the outside world that is due, or one cycle of the core in focus (log 6). -/
def State.advance (s : State) : Host.Outcome State Fault Refusal :=
  match s.agenda with
  | [] => s.cycle
  | (0, a) :: rest => State.act { s with agenda := rest } a
  | (n + 1, a) :: rest => State.cycle { s with agenda := (n, a) :: rest }

/-! ### The next bundle put where it is fetched -/

/-- The entry of h1 as management sets it (09 R204): D from its start, with the core's rights and the CE's; its bound covers the code space. -/
def codeEntry (part : Nat) : BitVec 256 :=
  BitVec.ofNat 256 (put codeSpace 64 + put spD 116 + put 3 122 + put 1 126 + put part 128 + put 1 131)

/-- A bundle with one instruction of slot B, or the bits of a whole bundle. -/
def tableBundle (nbits w : Nat) : BitVec 256 := if nbits ≤ 32 then BitVec.ofNat 256 (put (w % 2 ^ 32) 32) else BitVec.ofNat 256 w

/-- A fetch block with one of its bundles replaced. -/
def putBundle (line : BitVec 512) (pc : Nat) (b : BitVec 256) : BitVec 512 :=
  if pc / 32 % 2 = 1 then b ++ line.extractLsb' 0 256 else line.extractLsb' 256 256 ++ b

/-- A program is loaded: CODEH names h1, and the block of the next bundle lies in the cluster's cache with that bundle in its place (log 3). -/
def State.placeBundle (s : State) (b : BitVec 256) : State :=
  let pc := s.core.ctx.f.pc
  let key := lineKey s.part 1 (pc / 64)
  ({ s with handles := Tab.set 0 s.handles (hKey s.station s.part 1) (codeEntry s.part) }.updCluster s.cl (fun k =>
    { k with lines := Tab.set none k.lines key (some (putBundle ((Tab.get none k.lines key).getD 0) pc b)) })).mapFlow
    (fun f => { f with codeh := 1, highPc := 0 })

end Sys2Proof.Machine
end

