-- ==== Sys2Proof/Safety.lean ====
section
/-! DEFINITION. The terms of the statements: when an operation runs, how a result lies in flight, what a step leaves alone, the invariants. -/

namespace Sys2Proof.Machine

/-! ### When an operation runs -/

/-- Nothing holds or stops an operation: it carries no Q that would put it aside (04 R86), and either the checks of its bundle are done
or neither privilege (05 R117) nor a fault (16 R376) nor a hold (04 R89) of its own rules is there. -/
def State.admits (s : State) (i : Instr) : Prop :=
  s.mustDefer i = false ∧
    (s.core.iss.checked = true ∨ (privFault i s = none ∧ (familyOf i).fault i s = none ∧ (familyOf i).hold i s = none))

/-- The state in which an admitted operation acts: the freeze line is low, and no wait is running (04 R88). -/
def State.begun (s : State) : State := if s.core.iss.checked then s else s.thaw

/-- The operation carries Q, and its bundle has no privilege or domain-mask fault: it is to be put aside until c+L (04 R86). -/
def State.defers (s : State) (i : Instr) : Prop := s.core.iss.checked = true ∧ s.mustDefer i = true

/-- No result is on its way to a register, and nothing transient is left of one. -/
def State.settled (s : State) (file : RFile) (reg : Nat) : Prop :=
  (∀ p ∈ s.core.ctx.fl.pend, p.dst ≠ ⟨file, reg⟩) ∧ (∀ t ∈ s.core.ctx.fl.trans, t.dst ≠ ⟨file, reg⟩)

/-! ### Results in flight (04 R81) -/

/-- A result of slot `sl` for a scalar register, due `lat` cycles after its issue, or at once for an effect at c+L, which may leave what landed
there since (R84, R85). -/
def State.resultOf (s : State) (sl : Slot) (d : Reg) (v : Word) (lat : Nat) (unit : Option Nat) : Pend :=
  { dst := ⟨.s, d.toNat⟩, val := v.setWidth 512, mask := BitVec.allOnes 512, iat := s.core.icyc
    due := s.core.icyc + (if s.core.iss.now then 0 else lat), slot := sl, q := s.core.iss.q.getLsbD sl.ix && !s.core.iss.now
    x := s.core.iss.x.getLsbD sl.ix, alts := if s.core.iss.x.getLsbD sl.ix then [] else s.core.iss.landedIn ⟨.s, d.toNat⟩
    clean := !(s.core.iss.landedIn ⟨.s, d.toNat⟩).isEmpty, unit := unit }

/-- The state with one more scalar result in flight and nothing else changed; for s0 nothing at all (05 R106), but for a squashable one, whose
cancellation counts (04 R87). -/
def State.plusResult (s : State) (sl : Slot) (d : Reg) (v : Word) (lat : Nat) (unit : Option Nat := none) : State :=
  if d = 0 ∧ (s.resultOf sl d v lat unit).q = false then s
  else { s with core := { s.core with ctx := { s.core.ctx with fl := { s.core.ctx.fl with
    pend := s.core.ctx.fl.pend ++ [s.resultOf sl d v lat unit] } } } }

/-- The results in flight with one more for a register; for s0 without it, but for a squashable one, whose cancellation counts (04 R87). -/
def State.withResult (s : State) (d : Reg) (p : Pend) : List Pend :=
  if d = 0 ∧ p.q = false then s.core.ctx.fl.pend else s.core.ctx.fl.pend ++ [p]

/-! ### What a step leaves alone -/

/-- Every byte of memory reads as before. -/
def SameBytes (s t : State) : Prop := ∀ k, t.rd1 k = s.rd1 k

/-- Every byte outside a set of places reads as before. -/
def SameBytesBut (ks : List Nat) (s t : State) : Prop := ∀ k, k ∉ ks → t.rd1 k = s.rd1 k

/-- Nothing outside the core in focus has changed. -/
def OnlyCore (s t : State) : Prop := t = { s with core := t.core }

/-- Nothing but the running context has changed. -/
def OnlyCtx (s t : State) : Prop := t = { s with core := { s.core with ctx := t.core.ctx } }

/-- The registers and flow of the running stream are as before: what lands in them lands later. -/
def SameRegs (s t : State) : Prop := t.core.ctx.r = s.core.ctx.r ∧ t.core.ctx.f = s.core.ctx.f ∧ t.core.trap = s.core.trap

/-! ### Control flow (04) -/

/-- Address of the fetch block at a displacement from the block of the bundle being issued (02 R36). -/
def State.blockTarget (s : State) (disp : Int) : Nat := ((((s.core.ctx.f.pc / 64 : Nat) : Int) + disp) * 64 % ((2 ^ 48 : Nat) : Int)).toNat

/-- A result with Q, issued at or before the present cycle and due after it: a taken branch cancels it (04 R87). -/
def State.cancelled (s : State) (p : Pend) : Bool := p.q && decide (p.iat ≤ s.core.icyc) && decide (s.core.icyc < p.due)

/-- A taken branch of `s` has led to `t` (04 R87, R94, R98): its target is next, three issue cycles on; TKN.N is one higher; of the
results in flight just those that R87 names are gone; nothing outside the core has changed, and no register has. -/
def Branched (s t : State) (target : Nat) (link : List Pend) : Prop :=
  t.core.ctx.f = { s.core.ctx.f with pc := target % 2 ^ 48, highPc := target / 2 ^ 48, skip := none } ∧
  t.core.iss = { s.core.iss with taken := some 3 } ∧ t.core.ctr.tknN = s.core.ctr.tknN + 1 ∧
  t.core.ctx.fl.pend = (s.core.ctx.fl.pend ++ link).filter (fun p => !s.cancelled p) ∧
  t.core.ctx.r = s.core.ctx.r ∧ t.core.trap = s.core.trap ∧ OnlyCore s t

/-! ### Control and status registers (05 R117 to R119) -/

/-- The CSRs whose written fields read back as written, with the mask of those fields: the others read zero (04 R91, R96; 05 R118;
09 R215, R221; 12 R313; 16 R383; 17 R411). -/
def csrMask (n : Nat) : Option Word :=
  if n = 0x010 then some 0xFFF
  else if 0x012 ≤ n ∧ n ≤ 0x015 then some 0xFFFFFFFFFFC0
  else if 0x016 ≤ n ∧ n ≤ 0x019 then some 0xFFFFFFFF
  else if n = 0x100 then some 0xFFFFFFFFFFFFFC0
  else if n = 0x104 then some 0xFFFFFFFFFFFFFE0
  else if n = 0x105 then some 7
  else if n = 0x106 then some 0x1F
  else if n = 0x108 then some 0xF1F
  else if n = 0x109 then some 0xF
  else if 0x10C ≤ n ∧ n ≤ 0x10F then some (BitVec.allOnes 64)
  else if n = 0x110 then some 0xFFFFFFFFFFC0
  else if n = 0x131 then some 0xFFFFFFFFFF0000
  else if n = 0x141 then some (BitVec.allOnes 64)
  else if n = 0x324 then some 0xFF
  else if (0x400 ≤ n ∧ n ≤ 0x407) ∨ (0x450 ≤ n ∧ n ≤ 0x456) ∨ n = 0x460 ∨ n = 0x461 then some (BitVec.allOnes 64)
  else if n = 0x500 then some 0xFF
  else if n = 0x501 ∨ n = 0x502 then some 0xFFFFFFFF
  else if n = 0x503 then some 0xFFFF
  else if 0x504 ≤ n ∧ n ≤ 0x508 then some (BitVec.allOnes 64)
  else none

/-- An address that the table-base CSRs take: 0, or an aligned one under a valid handle of the running partition in D (11 R283,
12 R313, 13 R343). -/
def State.baseTaken (s : State) (v : Word) (align : Nat) : Prop :=
  let e := s.hEnt s.station s.part (v.toNat / 2 ^ 52)
  v = 0 ∨ (v.toNat % align = 0 ∧ v.toNat / 2 ^ 52 ≠ 7 ∧ hValid e = true ∧ hPart e = s.part ∧ hSpace e = spD)

/-! ### Memory (07 R157; 10 R228 to R246; 16 R393) -/

/-- Every byte lies in a word whose check bits are right (16 R393). -/
def State.cleanAt (s : State) (ks : List Nat) : Prop := ∀ k ∈ ks, s.eccWord (k / 8) = .clean

/-- So does every byte there is: no read corrects a word or reports one (16 R393). -/
def State.allClean (s : State) : Prop := ∀ w, s.eccWord w = .clean

/-- A write to these places zeroes the place `k`: it lies in an OFF buffer bank that one of them lies in (05 R111, 07 R157). -/
def State.zeroed (s : State) (ks : List Nat) (k : Nat) : Bool :=
  (keyBanks ks).any (fun x => (s.getCore x.1).bank x.2.1 x.2.2 == .off
    && decide (rBuf x.1 x.2.1 + 262144 * x.2.2 ≤ k) && decide (k < rBuf x.1 x.2.1 + 262144 * x.2.2 + 262144))

/-- What a place reads after bytes were written to places in order, a later one over an earlier. -/
def State.afterStore (s : State) (ks : List Nat) (bs : List Byte) (k : Nat) : Byte :=
  match (List.zip ks bs).reverse.find? (fun p => p.1 == k) with
  | some p => p.2
  | none => if s.zeroed ks k then 0 else s.rd1 k

/-- The running stream awaits no number that the core has not given out. -/
def State.serialsBelow (s : State) : Prop := ∀ p ∈ s.core.ctx.fl.pend, ∀ n, p.unit = some n → n ≤ s.core.serial

/-- The value of a load from the number its bytes make (10 R244). -/
def loaded (size : LdSize) (x : Nat) : Word :=
  match size with
  | .b => (BitVec.ofNat 8 x).signExtend 64
  | .bn => (BitVec.ofNat 8 x).setWidth 64
  | .h => (BitVec.ofNat 16 x).signExtend 64
  | .hn => (BitVec.ofNat 16 x).setWidth 64
  | .w => (BitVec.ofNat 32 x).signExtend 64
  | .wn => (BitVec.ofNat 32 x).setWidth 64
  | .d => BitVec.ofNat 64 x

/-- The old value that an atomic on a word or doubleword returns (10 R245, R246). -/
def oldValue (dword : Bool) (x : Nat) : Word := if dword then BitVec.ofNat 64 x else (BitVec.ofNat 32 x).signExtend 64

/-- What `amo` leaves in a word of `w` bits (10 R245). -/
def amoResult {w : Nat} (op : AmoOp) (x y : BitVec w) : BitVec w :=
  match op with
  | .add => x + y
  | .and => x &&& y
  | .or => x ||| y
  | .xor => x ^^^ y
  | .min => if x.toInt ≤ y.toInt then x else y
  | .max => if x.toInt ≤ y.toInt then y else x
  | .minn => if x.toNat ≤ y.toNat then x else y
  | .maxn => if x.toNat ≤ y.toNat then y else x
  | .swap => y

/-- The latency of a load by the space of its entry (10 R243, 07 R174). -/
def loadLatency (sp : Nat) : Nat := if sp = spD then 64 else if sp = spG then 256 else if sp = spH then 1024 else 4

/-- A handle entry leads to a buffer of the core or to K: accesses through it keep an order of their own (07 R174). -/
def localEnt (e : HEnt) : Bool := decide (hSpace e < 4) || hSpace e == spK

/-- No access of the core that issued earlier, with Q or without, stands before one through an entry (10 R228; 07 R174): it is being
executed at its own due cycle, or none is ahead of it. -/
def State.unblocked (s : State) (e : HEnt) (wr : Bool) (ks : List Nat) : Prop :=
  s.core.iss.now = true ∨
    (s.core.leaseAhead s.nextSerial (localEnt e) wr ks = false ∧ s.core.ctx.fl.qAhead s.nextSerial (localEnt e) wr ks = false)

/-- A store through an entry is not sent before its bundle is compared, nor before five cycles have passed since its issue (10 R242): it is
one to D, G or H, and it is executed at its issue, or at c+L before either. -/
def State.heldBack (s : State) (e : HEnt) : Prop :=
  localEnt e = false ∧ (s.core.iss.now = false ∨ s.core.checked < s.core.iss.bun ∨ s.core.ccyc < s.core.iss.clk + 5)

/-- One more access waits for its place in the order of issue, with its operands, and nothing of memory has changed (10 R228, R242). -/
def Leased (s t : State) (i : Instr) (ks : List Nat) : Prop :=
  (∃ l : Lease, t.core.leases = insertLease l s.core.leases ∧ l.ins = i ∧ l.keys = ks ∧ l.caps = s.args i ∧ l.serial = s.core.serial + 1 ∧
    l.ord = s.nextSerial) ∧
  SameRegs s t ∧ SameBytes s t

/-! ### Commands (04 R81; 08 R184; 16 R386) -/

/-- One more command of the running context waits to be compared, in its place in the order of issue, with the operands of its instruction, its
serial number and its phase; no register, no byte of memory and nothing outside the core has changed. One that is not compared is at its
unit (14 R361). -/
def Sent (s t : State) (i : Instr) : Prop :=
  (∃ m : Cmd, t.core.ctx.cmds = insertCmd m s.core.ctx.cmds ∧ m.ins = i ∧ (∀ k < (srcs i).length, m.caps[k]? = some (s.arg i k)) ∧
    m.serial = s.nextSerial ∧ m.phase = s.core.ctx.phase ∧
    (s.core.iss.now = false → (m.sent = none ↔ goesStraight i = false) ∧ m.bundle = s.core.bundles + 1)) ∧
  t.core.serial = max s.core.serial s.nextSerial ∧ SameRegs s t ∧ SameBytes s t ∧ OnlyCore s.begun t

/-- Every store, atomic, arrival and publication write of the core that issued earlier, with Q or without, is performed or discarded (10 R250). -/
def State.allPerformed (s : State) : Prop :=
  (∀ l ∈ s.core.leases, leavesLease l.ins = false) ∧ (∀ d ∈ s.core.defers, leavesLease d.ins = false) ∧
    (∀ u : Tl, (s.core.ctx.tl u).livePubs = []) ∧ (∀ m ∈ s.core.ctx.cmds, ∀ u a b, m.ins ≠ .tlPub u a b) ∧
    ∀ d ∈ s.core.ctx.defers, isPub d.ins = false

/-- What the core issued to durable places is in the checkpoint domain (10 R251; 17 R404, R407, R412): stores and their like, publications,
copies, durable writes on their way, the mirror work of commits that have been applied or have only issued, records. -/
def State.allDurable (s : State) : Prop :=
  (∀ l ∈ s.core.leases, leavesLease l.ins = false ∨ l.durable = false) ∧
    (∀ d ∈ s.core.defers, (leavesLease d.ins = false ∨ durAcc d.acc = false) ∧ isCommit d.ins = false) ∧
    (∀ d ∈ s.core.ctx.defers, isPub d.ins = false ∨ durAcc d.acc = false) ∧
    (∀ u : Tl, ∀ p ∈ (s.core.ctx.tl u).livePubs, p.durable = false) ∧
    (∀ m ∈ s.core.ctx.cmds, ∀ u a b, m.ins = .tlPub u a b → m.nums.getD 1 0 ≠ 1) ∧ s.durCopies = false ∧
    (∀ d ∈ s.durq, d.core ≠ s.cix) ∧ (∀ w ∈ s.mirq, w.core = s.cix → w.free = true) ∧
    ∀ x ∈ s.core.contexts, x.rp = none ∧ ∀ m ∈ x.cmds, isCommit m.ins = false

/-- The accesses of the core that issued before a `bo.wait` are performed: it reads its object (10 R228, R249). -/
def State.boReads (s : State) : Prop := s.core.leases = [] ∧ ∀ d ∈ s.core.ctx.fl.defer, accesses d.ins = false

/-- The commands that a unit answers: the register of the answer and the latency (04 R81). -/
def answered : Instr → Option (Reg × Nat)
  | .kvApp d .. | .kvRef d _ | .kvFree d _ | .kvFreeSeq d _ => some (d, 8)
  | .kvLk d .. => some (d, 64)
  | .kvAlloc d | .kvAllocFork d _ | .kvCow d .. | .kvCowSpill d .. | .kvLenCommit d _ | .kvLenRestore d _ => some (d, 16)
  | .pfxIns d .. | .pfxFind d .. | .pfxFindDrop d .. => some (d, 16)
  | .rqNextAdv d .. | .rqNextDone d .. | .rqNextSusp d .. | .rqNextResume d .. | .rqNextRelease d .. => some (d, 8)
  | .cmpApp d .. | .cmpTake d _ | .termOpen d | .termClose d => some (d, 8)
  | .bltOpen d .. | .bltPost d .. | .bltRead d .. | .bltClose d _ => some (d, 8)
  | .govRes d _ | .govRel d | .govBallast d _ | .opReq d _ => some (d, 8)
  | .segPin d .. | .segHold d .. => some (d, 8)
  | .spawn d _ => some (d, 16)
  | .cpRes d _ | .cpResDrop d _ | .ctxSpill d _ | .ctxFill d _ => some (d, 8)
  | _ => none

/-- The answer `v` to a command has reached the results that await it. -/
def Answered (s t : State) (m : Cmd) (v : Nat) : Prop :=
  ∀ p ∈ s.core.ctx.fl.pend, p.unit = some m.serial →
    { p with val := (BitVec.ofNat 64 v).setWidth 512, unit := none } ∈ t.core.ctx.fl.pend

/-- The oldest command that has come to its front or unit is `m`, of the running context. -/
def State.applies (s : State) (m : Cmd) : Prop := s.core.nextCmd = some (s.core.ctx.cid, m)

/-! ### Slot V (05 R107 to R115; 06) -/

/-- An operation of slot V is not stopped: the checks of its bundle are done, or every bank that its source blocks touch is FULL (05 R112,
R115). -/
def State.vready (s : State) (i : Instr) : Prop :=
  s.core.iss.checked = true ∨ ∀ b ∈ srcBlocks i, ∀ k ∈ b.banks s.core.ctx.f, s.vbank k = .full

/-- Register `n` as field `k` (1 a, 2 b, 3 c) of slot V reads it. -/
def State.vsrc (s : State) (k n : Nat) : Vec := s.rv (srcTag .v k * 1024 + n) n

/-- A vector result of the operation is on its way to logical register `n`, with the latency of the operation; `P` says of its value and
of the bits that it writes. -/
def Lands (s t : State) (i : Instr) (n : Nat) (P : Vec → Vec → Prop) : Prop :=
  ∃ p ∈ t.core.ctx.fl.pend, p.dst = ⟨.v, physV s.core.ctx.f n⟩ ∧ p.slot = .v ∧ p.iat = s.core.icyc ∧ p.due = s.core.icyc + vLat i ∧
    p.vpn = s.core.ctx.tlVp.issued + 1 ∧ P p.val p.mask

/-- Element `j` of a register is an integer of a type (03 R56, R57). -/
def laneInt (ty : VTy) (x : Vec) (j : Nat) : Int :=
  let w := ty.width
  if signedTy ty then sextInt (elem w x j) w else elem w x j

/-- An exact result in a lane: clamped to the type with sat, else modulo its width (03 R57, 06 R138). -/
def laneOf (ty : VTy) (sat : Bool) (e : Int) : Nat :=
  let w := ty.width
  let lo : Int := if signedTy ty then -((2 ^ (w - 1) : Nat) : Int) else 0
  let hi : Int := if signedTy ty then ((2 ^ (w - 1) : Nat) : Int) - 1 else ((2 ^ w : Nat) : Int) - 1
  ((if sat then max lo (min hi e) else e) % ((2 ^ w : Nat) : Int)).toNat

/-- The mask of a result lets through the elements whose predicate bit is 1 (06 R130). -/
def masksBy (w : Nat) (p : Word) (mask : Vec) : Prop := ∀ b < 512, mask.getLsbD b = p.getLsbD (b / w)

/-! ### Numbers (03 R58 to R70; 06 R138, R144) -/

/-- The encoding of a finite value. -/
def Fmt.isFin (f : Fmt) (z : Nat) : Prop := z < 2 ^ (f.p + 8) ∧ z % 2 ^ (f.p + 7) < f.infBits

/-- A finite value in units of the smallest subnormal, of which every finite value is a multiple (03 R58). -/
def Fmt.units (f : Fmt) (z : Nat) : Int :=
  match f.dec z with
  | .fin neg m e => Fl.scaled neg m e f.qmin
  | _ => 0

/-- `z` is the encoding that n/d with a sign is rounded to (03 R58, R68, R70): of the finite values the nearest and on a tie the even one, the
nearest toward 0, above or below; beyond the largest of them infinity, or that largest one with sat; the sign is kept. -/
def Fmt.RoundsTo (f : Fmt) (rnd : Rnd) (sat neg : Bool) (n d z : Nat) : Prop :=
  let mag := n * 2 ^ (-f.qmin).toNat
  let x : Int := if neg then -(mag : Int) else mag
  let top := (2 ^ f.p - 1) * 2 ^ 253
  let v := fun (y : Nat) => f.units y * d
  let finite := f.isFin z ∧ z / 2 ^ (f.p + 7) = if neg then 1 else 0
  let beyond := z = f.withSign neg (if sat then f.maxBits else f.infBits)
  match rnd with
  | .rne => if mag < (top + 2 ^ 252) * d then finite ∧ ∀ y, f.isFin y → (v z - x).natAbs ≤ (v y - x).natAbs ∧
        ((v y - x).natAbs = (v z - x).natAbs → f.units y ≠ f.units z → z % 2 = 0)
      else beyond
  | .rtz => finite ∧ (v z).natAbs ≤ mag ∧ ∀ y, f.isFin y → (v y).natAbs ≤ mag → (v y).natAbs ≤ (v z).natAbs
  | .rup => if x ≤ ((top * d : Nat) : Int) then finite ∧ x ≤ v z ∧ ∀ y, f.isFin y → x ≤ v y → v z ≤ v y else beyond
  | .rdn => if -((top * d : Nat) : Int) ≤ x then finite ∧ v z ≤ x ∧ ∀ y, f.isFin y → v y ≤ x → v y ≤ v z else beyond

/-- The order of the encodings of a float type of `w` bits, -0 below +0 (03 R60). -/
def floatKey (w z : Nat) : Int := if z / 2 ^ (w - 1) % 2 = 1 then -((z % 2 ^ (w - 1) : Nat) : Int) - 1 else z % 2 ^ (w - 1)

/-- The same with the zeros equal (06 R140). -/
def floatOrder (w z : Nat) : Int := if z / 2 ^ (w - 1) % 2 = 1 then -((z % 2 ^ (w - 1) : Nat) : Int) else z % 2 ^ (w - 1)

/-- An element of a float type is a NaN (03 R58). -/
def Fmt.isNan (f : Fmt) (z : Nat) : Prop := f.infBits < z % 2 ^ (f.p + 7)

/-- `i` is the integer that a finite value is rounded to (03 R68, R69). -/
def roundsToInt (rnd : Rnd) (neg : Bool) (m : Nat) (e i : Int) : Prop :=
  let n : Int := Fl.scaled neg m e (min e 0)
  let d : Int := ((2 ^ (-e).toNat : Nat) : Int)
  match rnd with
  | .rne => 2 * (i * d - n).natAbs ≤ d ∧ (2 * (i * d - n).natAbs = d → i % 2 = 0)
  | .rtz => (i * d).natAbs ≤ n.natAbs ∧ n.natAbs < (i * d).natAbs + d ∧ (i = 0 ∨ (i < 0 ↔ n < 0))
  | .rup => n ≤ i * d ∧ i * d < n + d
  | .rdn => i * d ≤ n ∧ n < i * d + d

/-- The value at the root of a balanced tree of `2^k` leaves, neighbours joined first (06 R144). -/
def balanced (f : Nat → Nat → Nat) (leaf : Nat → Nat) : Nat → Nat → Nat
  | 0, i => leaf i
  | k + 1, i => f (balanced f leaf k (2 * i)) (balanced f leaf k (2 * i + 1))

/-- Place `g` of a reduction over a row of registers of `w`-bit elements: its element, or what stands for a masked one and beyond the row
(06 R144). -/
def reduceLeaf (w : Nat) (row : List Vec) (p : Word) (ident g : Nat) : Nat :=
  let n := 512 / w
  if g < row.length * n ∧ p.getLsbD (g % n) = true then elem w (row.getD (g / n) 0) (g % n) else ident

/-! ### The hub (01 R25, R27; 18 R423) -/

/-- One violation has been recorded: one more in LOG.OVF where all 4096 entries are unread; else an entry with this cause, address and (where
the spec gives it) DETAIL, with the number of its place and the stroke. It stands last, or before entries of the same ring cycle, of which
each has moved by one place and number; no other entry has changed. -/
def Logged (s t : State) (cause addr : Nat) (detail : Option Nat) : Prop :=
  let old := fun (k : Nat) => (Tab.get 0 s.log.ents k).toNat
  let new := fun (k : Nat) => (Tab.get 0 t.log.ents k).toNat
  (4096 ≤ s.log.head - s.log.tail → t.log = { s.log with ovf := s.log.ovf + 1 }) ∧
  (s.log.head - s.log.tail < 4096 →
    t.log.head = s.log.head + 1 ∧ t.log.tail = s.log.tail ∧ t.log.ovf = s.log.ovf ∧
    ∃ q, q ≤ s.log.head ∧ (q = s.log.head ∨ s.log.since ≤ q) ∧
      (let e := new (q % 4096)
       e % 2 ^ 64 = addr % 2 ^ 64 ∧ e / 2 ^ 64 % 256 = cause ∧ e / 2 ^ 96 % 2 ^ 32 = q % 2 ^ 32 ∧ e / 2 ^ 128 % 2 ^ 64 = s.stroke % 2 ^ 64 ∧
       ∀ d, detail = some d → e / 2 ^ 192 = d % 2 ^ 64) ∧
      ∀ k, k ≠ q % 4096 → new k = old k ∨ ∃ j, s.log.since ≤ j ∧ j < s.log.head ∧ k = (j + 1) % 4096 ∧
        new k % 2 ^ 96 = old (j % 4096) % 2 ^ 96 ∧ new k / 2 ^ 128 = old (j % 4096) / 2 ^ 128 ∧ new k / 2 ^ 96 % 2 ^ 32 = (j + 1) % 2 ^ 32)

/-- Nothing has changed but the violation log and the count of free values. -/
def OnlyLog (s t : State) : Prop := t = { s with log := t.log, free := t.free }

/-- Nothing has changed but the log, the count of free values, and how the endpoint has answered the host (01 R24). -/
def OnlyAnswer (s t : State) : Prop :=
  t = { s with log := t.log, free := t.free, hub := { s.hub with reply := t.hub.reply, aer := t.hub.aer } }

/-! ### Invariants -/

/-- Memory keeps its canonical form. -/
def State.memWf (s : State) : Prop := Memory.wf s.mem = true

end Sys2Proof.Machine
end

