-- ==== Sys2Proof/Certificates/Slice0/Obligations.lean ====
section
/-! DEFINITION. The statements about the model, from the numbered rules of the spec. -/

open Sys2Proof Sys2Proof.Machine

/-- 05 R121: the arithmetic, bitwise and shift rows of `alu`, each landing after its latency, with nothing else changed: sums, differences and
products; the bitwise rows and the shifts bit by bit, of whose amount only bits [5:0] count. -/
def Obligations.ScalarArithmeticAndLogic : Prop :=
  (∀ (s : State) (d a b : Reg),
    let x := s.rs (srcTag .m 0) a
    let y := s.rs (srcTag .m 1) b
    exec (.add d a b) s = .next (s.plusResult .m d (BitVec.ofNat 64 (x.toNat + y.toNat)) 1) ∧
    exec (.sub d a b) s = .next (s.plusResult .m d (BitVec.ofInt 64 (x.toInt - y.toInt)) 1) ∧
    exec (.mul d a b) s = .next (s.plusResult .m d ((x.setWidth 128 * y.setWidth 128).extractLsb' 0 64) 3) ∧
    exec (.mulh d a b) s = .next (s.plusResult .m d ((x.signExtend 128 * y.signExtend 128).extractLsb' 64 64) 3) ∧
    exec (.mulhn d a b) s = .next (s.plusResult .m d ((x.setWidth 128 * y.setWidth 128).extractLsb' 64 64) 3)) ∧
  (∀ (s : State) (d a b : Reg),
    let x := s.rs (srcTag .m 0) a
    let y := s.rs (srcTag .m 1) b
    (∃ v, exec (.and d a b) s = .next (s.plusResult .m d v 1) ∧ ∀ i < 64, v.getLsbD i = (x.getLsbD i && y.getLsbD i)) ∧
    (∃ v, exec (.or d a b) s = .next (s.plusResult .m d v 1) ∧ ∀ i < 64, v.getLsbD i = (x.getLsbD i || y.getLsbD i)) ∧
    (∃ v, exec (.xor d a b) s = .next (s.plusResult .m d v 1) ∧ ∀ i < 64, v.getLsbD i = (x.getLsbD i != y.getLsbD i)) ∧
    (∃ v, exec (.andn d a b) s = .next (s.plusResult .m d v 1) ∧ ∀ i < 64, v.getLsbD i = (x.getLsbD i && !y.getLsbD i))) ∧
  (∀ (s : State) (d a b : Reg),
    let x := s.rs (srcTag .m 0) a
    let n := (s.rs (srcTag .m 1) b).toNat % 64
    (∃ v, exec (.shl d a b) s = .next (s.plusResult .m d v 1) ∧ ∀ i < 64, v.getLsbD i = (decide (n ≤ i) && x.getLsbD (i - n))) ∧
    (∃ v, exec (.shr d a b) s = .next (s.plusResult .m d v 1) ∧ ∀ i < 64, v.getLsbD i = (decide (i + n < 64) && x.getLsbD (i + n))) ∧
    (∃ v, exec (.sar d a b) s = .next (s.plusResult .m d v 1) ∧
      ∀ i < 64, v.getLsbD i = if i + n < 64 then x.getLsbD (i + n) else x.getLsbD 63) ∧
    (∃ v, exec (.rol d a b) s = .next (s.plusResult .m d v 1) ∧ ∀ i < 64, v.getLsbD ((i + n) % 64) = x.getLsbD i))

/-- 05 R121: the comparisons of `alu`, signed as s64 and unsigned as n64. 05 R121: the one-source rows of `alu`. -/
def Obligations.ScalarComparisonsAndCounts : Prop :=
  (∀ (s : State) (d a b : Reg),
    let x := s.rs (srcTag .m 0) a
    let y := s.rs (srcTag .m 1) b
    exec (.min d a b) s = .next (s.plusResult .m d (if x.toInt ≤ y.toInt then x else y) 1) ∧
    exec (.max d a b) s = .next (s.plusResult .m d (if x.toInt ≤ y.toInt then y else x) 1) ∧
    exec (.minn d a b) s = .next (s.plusResult .m d (if x.toNat ≤ y.toNat then x else y) 1) ∧
    exec (.maxn d a b) s = .next (s.plusResult .m d (if x.toNat ≤ y.toNat then y else x) 1) ∧
    exec (.seq d a b) s = .next (s.plusResult .m d (if x.toNat = y.toNat then 1 else 0) 1) ∧
    exec (.sne d a b) s = .next (s.plusResult .m d (if x.toNat = y.toNat then 0 else 1) 1) ∧
    exec (.slt d a b) s = .next (s.plusResult .m d (if x.toInt < y.toInt then 1 else 0) 1) ∧
    exec (.sltn d a b) s = .next (s.plusResult .m d (if x.toNat < y.toNat then 1 else 0) 1) ∧
    exec (.sle d a b) s = .next (s.plusResult .m d (if x.toInt ≤ y.toInt then 1 else 0) 1) ∧
    exec (.slen d a b) s = .next (s.plusResult .m d (if x.toNat ≤ y.toNat then 1 else 0) 1)) ∧
  (∀ (s : State) (d a : Reg),
    let x := s.rs (srcTag .m 0) a
    (∃ n, exec (.clz d a) s = .next (s.plusResult .m d (BitVec.ofNat 64 n) 1) ∧
      n ≤ 64 ∧ (∀ i < 64, 64 ≤ i + n → x.getLsbD i = false) ∧ (n < 64 → x.getLsbD (63 - n) = true)) ∧
    (∃ n, exec (.ctz d a) s = .next (s.plusResult .m d (BitVec.ofNat 64 n) 1) ∧
      n ≤ 64 ∧ (∀ i < n, x.getLsbD i = false) ∧ (n < 64 → x.getLsbD n = true)) ∧
    exec (.popc d a) s = .next (s.plusResult .m d (BitVec.ofNat 64 ((List.range 64).countP (fun i => x.getLsbD i))) 1) ∧
    (∃ v, exec (.bswap d a) s = .next (s.plusResult .m d v 1) ∧
      ∀ i < 8, v.extractLsb' (8 * (7 - i)) 8 = x.extractLsb' (8 * i) 8) ∧
    exec (.mov d a) s = .next (s.plusResult .m d x 1))

/-- 05 R123: the rows of `alui`; the immediate is sign-extended, the shift amounts are 6 bits. 05 R124 and R125: `li` and `lih` build a
constant, `sel` picks by one bit of a predicate read through the rotation (R109). -/
def Obligations.ScalarImmediatesAndConstants : Prop :=
  (∀ (s : State) (d a : Reg) (imm : BitVec 32) (amt : BitVec 6),
    let x := s.rs (srcTag .m 0) a
    exec (.addi d a imm) s = .next (s.plusResult .m d (BitVec.ofInt 64 (x.toInt + imm.toInt)) 1) ∧
    exec (.andi d a imm) s = .next (s.plusResult .m d (x &&& imm.signExtend 64) 1) ∧
    exec (.ori d a imm) s = .next (s.plusResult .m d (x ||| imm.signExtend 64) 1) ∧
    exec (.xori d a imm) s = .next (s.plusResult .m d (x ^^^ imm.signExtend 64) 1) ∧
    exec (.shli d a amt) s = .next (s.plusResult .m d (BitVec.ofNat 64 (x.toNat * 2 ^ amt.toNat)) 1) ∧
    exec (.shri d a amt) s = .next (s.plusResult .m d (BitVec.ofNat 64 (x.toNat / 2 ^ amt.toNat)) 1) ∧
    exec (.sari d a amt) s = .next (s.plusResult .m d (BitVec.ofInt 64 (x.toInt / ((2 ^ amt.toNat : Nat) : Int))) 1) ∧
    exec (.slti d a imm) s = .next (s.plusResult .m d (if x.toInt < imm.toInt then 1 else 0) 1) ∧
    exec (.sltni d a imm) s = .next (s.plusResult .m d (if x.toNat < (imm.signExtend 64).toNat then 1 else 0) 1) ∧
    exec (.seqi d a imm) s = .next (s.plusResult .m d (if x.toInt = imm.toInt then 1 else 0) 1) ∧
    exec (.muli d a imm) s = .next (s.plusResult .m d (BitVec.ofInt 64 (x.toInt * imm.toInt)) 3)) ∧
  (∀ (s : State) (d a b p : Reg) (imm : BitVec 32) (idx : BitVec 6),
    (∃ v, exec (.li d imm) s = .next (s.plusResult .m d v 1) ∧ v.toInt = imm.toInt) ∧
    (∃ v, exec (.lih d imm) s = .next (s.plusResult .m d v 1) ∧
      v.extractLsb' 32 32 = imm ∧ v.extractLsb' 0 32 = (s.rs (srcTag .m 0) d).extractLsb' 0 32) ∧
    exec (.sel d a b p idx) s = .next (s.plusResult .m d
      (if p = 0 ∨ (s.rp (srcTag .m 2) p.toNat).getLsbD idx.toNat = true then s.rs (srcTag .m 0) a else s.rs (srcTag .m 1) b) 1))

/-- 05 R122: quotients and remainders where no divisor is zero; -2^63 by -1 wraps. 05 R122: a division without Q whose divisor is zero takes
the divide trap before anything of its bundle happens: cause 0x13 of slot M with the bundle's own address, the handler at TVEC, at
privilege S. -/
def Obligations.Division : Prop :=
  (∀ (s : State) (d a b : Reg),
    let x := s.arg (.div d a b) 0
    let y := s.arg (.div d a b) 1
    y ≠ 0 →
    (s.admits (.div d a b) → exec (.div d a b) s = .next (s.begun.plusResult .m d
      (if x.toInt = -(2 ^ 63 : Int) ∧ y.toInt = -1 then x else BitVec.ofInt 64 (x.toInt.tdiv y.toInt)) 24)) ∧
    (s.admits (.rem d a b) → ∃ v, exec (.rem d a b) s = .next (s.begun.plusResult .m d v 24) ∧
      v.toInt = x.toInt - y.toInt * x.toInt.tdiv y.toInt) ∧
    (s.admits (.divn d a b) → ∃ v, exec (.divn d a b) s = .next (s.begun.plusResult .m d v 24) ∧ v.toNat = x.toNat / y.toNat) ∧
    (s.admits (.remn d a b) → ∃ v, exec (.remn d a b) s = .next (s.begun.plusResult .m d v 24) ∧
      v.toNat + y.toNat * (x.toNat / y.toNat) = x.toNat)) ∧
  (∀ (s : State) (i : Instr) (d a b : Reg),
    i = .div d a b ∨ i = .divn d a b ∨ i = .rem d a b ∨ i = .remn d a b →
    s.core.iss.checked = false → s.core.iss.q.getLsbD 1 = false → s.arg i 1 = 0 → s.core.ctx.f.act = false → s.core.ctx.held.length < 4 →
    ∃ t, exec i s = .next t ∧
      t.core.trap.cause.extractLsb' 0 8 = BitVec.ofNat 8 cDivZero ∧ t.core.trap.cause.extractLsb' 9 3 = 2#3 ∧
      t.core.trap.addr = BitVec.ofNat 64 s.core.ctx.f.pc ∧ t.core.trap.detail = 0 ∧
      t.core.ctx.f.pc = fld s.core.ctx.f.tvec 0 48 ∧ t.core.ctx.f.level = 1 ∧ t.core.ctx.f.act = true ∧
      t.core.ctx.r = s.core.ctx.r ∧ SameBytes s t)

/-- 04 R97: the branches on a register or a predicate go to their block exactly where their condition holds, and otherwise do nothing; p0
reads all ones. That a target past either end of the code space wraps is the model's reading (log 116). -/
def Obligations.ConditionalBranches : Prop :=
  ∀ (s : State) (r : Reg) (w : BitVec 2) (d19 : BitVec 19) (d16 : BitVec 16),
    let p := s.rp (srcTag .b 1) r.toNat
    let bits := if w = 0 then 64 else if w = 1 then 32 else 16
    (s.admits (.brZ r d19) → ∃ t, exec (.brZ r d19) s = .next t ∧
      if s.rs (srcTag .b 0) r = 0 then Branched s.begun t (s.blockTarget d19.toInt) [] else t = s.begun) ∧
    (s.admits (.brNz r d19) → ∃ t, exec (.brNz r d19) s = .next t ∧
      if s.rs (srcTag .b 0) r = 0 then t = s.begun else Branched s.begun t (s.blockTarget d19.toInt) []) ∧
    (s.admits (.brpAny r w d16) → ∃ t, exec (.brpAny r w d16) s = .next t ∧
      ((∃ i < bits, p.getLsbD i = true) → Branched s.begun t (s.blockTarget d16.toInt) []) ∧
      ((∀ i < bits, p.getLsbD i = false) → t = s.begun)) ∧
    (s.admits (.brpAll r w d16) → ∃ t, exec (.brpAll r w d16) s = .next t ∧
      ((∀ i < bits, p.getLsbD i = true) → Branched s.begun t (s.blockTarget d16.toInt) []) ∧
      ((∃ i < bits, p.getLsbD i = false) → t = s.begun)) ∧
    (s.admits (.brpNone r w d16) → ∃ t, exec (.brpNone r w d16) s = .next t ∧
      ((∀ i < bits, p.getLsbD i = false) → Branched s.begun t (s.blockTarget d16.toInt) []) ∧
      ((∃ i < bits, p.getLsbD i = true) → t = s.begun)) ∧
    (r = 0 → p = BitVec.allOnes 64)

/-- 04 R97, R98: jumps, calls and returns are always taken; a call puts the address of the block after its own into s63, and `callr` reads
its target before. 02 R34, 04 R98: a register-held target that is no first bundle of a block raises the alignment trap, with the target
recorded. That a block past either end of the code space wraps is the model's reading (log 116). -/
def Obligations.JumpsAndCalls : Prop :=
  (∀ (s : State) (r : Reg) (disp : BitVec 26),
    let link := s.resultOf .b 63 (BitVec.ofNat 64 ((s.core.ctx.f.pc / 64 + 1) * 64)) 1 none
    (s.admits (.jmp disp) → ∃ t, exec (.jmp disp) s = .next t ∧ Branched s.begun t (s.blockTarget disp.toInt) []) ∧
    (s.admits (.call disp) → ∃ t, exec (.call disp) s = .next t ∧ Branched s.begun t (s.blockTarget disp.toInt) [link]) ∧
    (s.admits (.jmpr r) → ∃ t, exec (.jmpr r) s = .next t ∧ Branched s.begun t (s.rs (srcTag .b 0) r).toNat []) ∧
    (s.admits (.callr r) → ∃ t, exec (.callr r) s = .next t ∧ Branched s.begun t (s.rs (srcTag .b 0) r).toNat [link]) ∧
    (s.admits .ret → ∃ t, exec .ret s = .next t ∧ Branched s.begun t (s.rs (srcTag .b 0) 63).toNat [])) ∧
  (∀ (s : State) (i : Instr) (r : Reg),
    i = .jmpr r ∨ i = .callr r ∨ (i = .ret ∧ r = 63) →
    s.core.iss.checked = false → s.core.iss.q.getLsbD 0 = false → (s.rs (srcTag .b 0) r).toNat % 64 ≠ 0 →
    s.core.ctx.f.act = false → s.core.ctx.held.length < 4 →
    ∃ t, exec i s = .next t ∧ t.core.trap.cause.extractLsb' 0 8 = 2#8 ∧ t.core.trap.addr = s.rs (srcTag .b 0) r ∧
      t.core.trap.pc = BitVec.ofNat 64 (s.core.ctx.f.pc % 2 ^ 48 + s.core.ctx.f.codeh.toNat * 2 ^ 48) ∧
      t.core.ctx.f.pc = fld s.core.ctx.f.tvec 0 48 ∧ t.core.ctr.trapsN = s.core.ctr.trapsN + 1 ∧ t.core.ctx.r = s.core.ctx.r ∧
      SameBytes s t)

/-- 04 R100: `loop.set` and `loop.seti` set the counter and the start; a count of 0 passes to the block after the end, at once from the
second bundle of a block and after it from the first. 04 R101: `loop.end` counts down modulo 2^32, rotates, and goes to the loop's start
at the next cycle unless the count is 0; it squashes nothing. That blocks past the end of the code space wrap is the model's reading (log
116). -/
def Obligations.Loops : Prop :=
  (∀ (s : State) (l : BitVec 2) (r : Reg) (o18 : BitVec 18) (cnt o12 : BitVec 12) (i : Instr) (n off : Nat),
    (i = .loopSet l r o18 ∧ n = (s.rs (srcTag .b 0) r).toNat % 2 ^ 32 ∧ off = o18.toNat) ∨
      (i = .loopSeti l cnt o12 ∧ n = cnt.toNat ∧ off = o12.toNat) →
    s.admits i →
    ∃ t, exec i s = .next t ∧ OnlyCore s.begun t ∧
      Tab.get 0 t.core.ctx.r.l l.toNat = BitVec.ofNat 32 n ∧
      Tab.get 0 t.core.ctx.f.ls l.toNat = (s.core.ctx.f.pc / 64 + 1) * 64 % 2 ^ 48 ∧
      (∀ k, k ≠ l.toNat → Tab.get 0 t.core.ctx.r.l k = Tab.get 0 s.core.ctx.r.l k ∧ Tab.get 0 t.core.ctx.f.ls k = Tab.get 0 s.core.ctx.f.ls k) ∧
      t.core.ctx.r.s = s.core.ctx.r.s ∧ t.core.ctx.r.v = s.core.ctx.r.v ∧ t.core.ctx.r.p = s.core.ctx.r.p ∧
      (n ≠ 0 → t.core.iss = s.core.iss ∧ t.core.ctx.f.pc = s.core.ctx.f.pc ∧ t.core.ctx.f.skip = s.core.ctx.f.skip ∧
        t.core.ctx.fl = s.core.ctx.fl) ∧
      (n = 0 → s.core.ctx.f.pc / 32 % 2 = 1 →
        t.core.iss.taken = some 3 ∧ t.core.ctx.f.pc = (s.core.ctx.f.pc / 64 + off + 1) * 64 % 2 ^ 48) ∧
      (n = 0 → s.core.ctx.f.pc / 32 % 2 = 0 →
        t.core.iss = s.core.iss ∧ t.core.ctx.f.pc = s.core.ctx.f.pc ∧
          t.core.ctx.f.skip = some ((s.core.ctx.f.pc / 64 + off + 1) * 64 % 2 ^ 48) ∧ t.core.ctx.fl = s.core.ctx.fl)) ∧
  (∀ (s : State) (l : BitVec 2), s.admits (.loopEnd l) →
    ∃ t, exec (.loopEnd l) s = .next t ∧ OnlyCore s.begun t ∧
      (Tab.get 0 t.core.ctx.r.l l.toNat).toNat = ((Tab.get 0 s.core.ctx.r.l l.toNat).toNat + (2 ^ 32 - 1)) % 2 ^ 32 ∧
      (∀ k, k ≠ l.toNat → Tab.get 0 t.core.ctx.r.l k = Tab.get 0 s.core.ctx.r.l k) ∧
      t.core.ctx.f.rotlo = s.core.ctx.f.rotlo ∧
      (16 ≤ s.core.ctx.f.rotlo → t.core.ctx.f.rotb = s.core.ctx.f.rotb) ∧
      (s.core.ctx.f.rotlo < 16 → (t.core.ctx.f.rotb + 1) % (16 - s.core.ctx.f.rotlo) = s.core.ctx.f.rotb % (16 - s.core.ctx.f.rotlo)) ∧
      (Tab.get 0 s.core.ctx.r.l l.toNat = 1 → t.core.iss = s.core.iss ∧ t.core.ctx.f.pc = s.core.ctx.f.pc) ∧
      (Tab.get 0 s.core.ctx.r.l l.toNat ≠ 1 → t.core.iss.taken = some 1 ∧ t.core.ctr.tknN = s.core.ctr.tknN + 1 ∧
        t.core.ctx.f.pc = Tab.get 0 s.core.ctx.f.ls l.toNat % 2 ^ 48) ∧
      t.core.ctx.fl = s.core.ctx.fl ∧ t.core.ctx.r.s = s.core.ctx.r.s ∧ t.core.ctx.r.v = s.core.ctx.r.v ∧ t.core.ctx.r.p = s.core.ctx.r.p)

/-- 04 R99: a status branch tests bits [5:0] of the status word under its mask; the word of a buffer without a visible slot, or without a
trailer, reads zero. Where no check bit is in error the read changes nothing. 04 R103, R104; 16 R388: `phmark` sets PHPC and gives the
phase its restart point, if it has none; `ipf` changes no register, no address and, where no word has to be corrected, no byte of memory. That
a block past either end of the code space wraps is the model's reading (log 116). -/
def Obligations.StatusBranchesAndMarks : Prop :=
  (∀ (s : State) (cb : BitVec 4) (mask : BitVec 6) (disp : BitVec 15),
    s.chk = [] →
    (s.admits (.tsbAny cb mask disp) → ∃ t, exec (.tsbAny cb mask disp) s = .next t ∧
      if s.tsbBits cb &&& mask = 0 then t = s.begun else Branched s.begun t (s.blockTarget disp.toInt) []) ∧
    (s.admits (.tsbNone cb mask disp) → ∃ t, exec (.tsbNone cb mask disp) s = .next t ∧
      if s.tsbBits cb &&& mask = 0 then Branched s.begun t (s.blockTarget disp.toInt) [] else t = s.begun) ∧
    ((Tab.get {} s.core.ctx.cb cb.toNat).seen = false ∨ (Tab.get {} s.core.ctx.cb cb.toNat).trl = 0 → s.tsbBits cb = 0)) ∧
  (∀ (s : State) (disp : BitVec 26) (n : BitVec 4) (d22 : BitVec 22),
    (s.admits (.phmark disp) → ∃ t, exec (.phmark disp) s = .next t ∧ OnlyCore s.begun t ∧
      t.core.ctx.f = { s.core.ctx.f with phpc := s.blockTarget disp.toInt } ∧ t.core.ctx.r = s.core.ctx.r ∧
      (∃ p ∈ t.core.ctx.phases, p.idx = s.core.ctx.phase) ∧
      ((∀ p ∈ s.core.ctx.phases, p.idx ≠ s.core.ctx.phase) →
        ∃ p, t.core.ctx.phases = s.core.ctx.phases ++ [p] ∧ p.restart = some (s.blockTarget disp.toInt))) ∧
    (s.admits (.ipf n d22) → ∃ t, exec (.ipf n d22) s = .next t ∧ SameRegs s t ∧ (s.allClean → SameBytes s t)))

/-- 16 R398, R378: executed by themselves outside a handler, `trap` and an enabled `brk` take their trap behind their bundle: cause, DETAIL,
the saved address and rotation, privilege S, the handler at TVEC 24 cycles on; a disabled `brk` does nothing. 16 R398 to R400: a `trap`
or `brk` in a bundle leaves its cause for the boundary behind the bundle; a disabled `brk` is a nop; `idle` issues nothing more, and when
its bundle has issued the check core has caught up with it; `nop` changes nothing. The model's choices in it: a trap or `idle` executed by
itself takes effect at once (log 22), and catching up takes no time (log 21). -/
def Obligations.TrapsAndIdle : Prop :=
  (∀ (s : State) (code : BitVec 16) (i : Instr) (c : Nat),
    (i = .trap code ∧ c = 0x1C) ∨ (i = .brk code ∧ c = 0x1D ∧ s.core.ctx.f.brken = true) →
    s.admits i → s.core.iss.bundle = false → s.core.ctx.pending = [] → s.core.ctx.f.act = false → s.core.ctx.held.length < 4 →
    ∃ t, exec i s = .next t ∧
      t.core.trap.cause.extractLsb' 0 8 = BitVec.ofNat 8 c ∧ t.core.trap.cause.getLsbD 8 = decide (s.core.ctx.f.level % 2 = 1) ∧
      t.core.trap.detail = code.setWidth 64 ∧
      t.core.trap.pc = BitVec.ofNat 64 ((s.core.ctx.f.pc + 32) % 2 ^ 48 + s.core.ctx.f.codeh.toNat * 2 ^ 48) ∧
      t.core.trap.rot = BitVec.ofNat 64 (s.core.ctx.f.rotlo + s.core.ctx.f.rotb * 256) ∧
      t.core.ctx.f.pc = fld s.core.ctx.f.tvec 0 48 ∧ t.core.ctx.f.codeh = s.core.ctx.f.tvec.extractLsb' 48 12 ∧
      t.core.ctx.f.level = 1 ∧ t.core.ctx.f.act = true ∧ t.core.ctx.f.rotlo = 16 ∧ t.core.ctx.f.rotb = 0 ∧ t.core.gap = 24 ∧
      t.core.ctx.held.length = s.core.ctx.held.length + 1 ∧ t.core.ctx.r = s.core.ctx.r ∧ SameBytes s t) ∧
  (∀ (s : State) (code : BitVec 16),
    exec .nop s = .next s ∧
    (s.admits (.brk code) → s.core.ctx.f.brken = false → exec (.brk code) s = .next s.begun) ∧
    (s.admits (.trap code) → s.core.iss.bundle = true → ∃ t, exec (.trap code) s = .next t ∧ OnlyCtx s.begun t ∧ SameRegs s t ∧
      t.core.ctx.pending = s.core.ctx.pending ++ [{ code := 0x1C, part := 1, detail := code.toNat }]) ∧
    (s.admits .idle → ∃ t, exec .idle s = .next t ∧ OnlyCore s.begun t ∧ t.core.ctx.f = { s.core.ctx.f with idle := true } ∧
      t.core.checkLag = (if s.core.iss.bundle then s.core.checkLag else 0) ∧ t.core.ctx.r = s.core.ctx.r ∧ t.core.ctx.fl = s.core.ctx.fl ∧
      t.core.ctr.frzN = s.core.ctr.frzN)) ∧
  (∀ (s : State) (pc : Nat) (armed : Bool), s.core.ctx.f.idle = true → (s.closeIssue pc armed).core.checkLag = 0)

/-- 16 R400: at privilege S `eret` restores rotation, code handle, privilege and address from the trap CSRs, ends the handler, clears
TRAP.QCTL, restarts every stopped queue and squashes nothing. -/
def Obligations.ReturnFromTrap : Prop :=
  ∀ (s : State), s.admits .eret →
    ∃ t, exec .eret s = .next t ∧ OnlyCore s.begun t ∧
      t.core.ctx.f.rotlo = min 16 (s.core.trap.rot.toNat % 32) ∧
      (s.core.trap.rot.toNat % 32 < 16 → t.core.ctx.f.rotb = s.core.trap.rot.toNat / 256 % 16 % (16 - s.core.trap.rot.toNat % 32)) ∧
      t.core.ctx.f.codeh = s.core.trap.pc.extractLsb' 48 12 ∧ t.core.ctx.f.pc = s.core.trap.pc.toNat % 2 ^ 48 / 32 * 32 ∧
      t.core.ctx.f.level = (if s.core.trap.cause.getLsbD 8 then 1 else 0) ∧ t.core.ctx.f.act = false ∧
      t.core.trap = { s.core.trap with qctl := 0 } ∧ t.core.ctx.stepArmed = s.core.ctx.f.step ∧
      t.core.ctx.meStop = none ∧ t.core.ctx.ceStop = none ∧ t.core.ctx.paeStop = none ∧ t.core.ctx.daeStop = none ∧
      t.core.iss.taken = some 3 ∧ t.core.ctx.held.length = s.core.ctx.held.length - 1 ∧ t.core.ctx.r = s.core.ctx.r ∧
      (∀ p ∈ s.core.ctx.fl.pend, p ∈ t.core.ctx.fl.pend)

/-- 05 R119: `csrr` lands the CSR's value two cycles on and changes nothing else; `csrw`, `csrs` and `csrc` leave in a plain read-write CSR
what they form, under the mask of its fields, and change no general register and no byte of memory. -/
def Obligations.CsrReadsAndWrites : Prop :=
  (∀ (s : State) (d : Reg) (n : BitVec 12), s.admits (.csrr d n) →
    exec (.csrr d n) s = .next (s.begun.plusResult .b d (s.csrRead n.toNat) 2)) ∧
  ∀ (s : State) (n : BitVec 12) (a : Reg) (m : Word) (i : Instr) (v : Word),
    csrMask n.toNat = some m →
    (i = .csrw n a ∧ v = s.rs (srcTag .b 0) a) ∨ (i = .csrs n a ∧ v = s.csrRead n.toNat ||| s.rs (srcTag .b 0) a) ∨
      (i = .csrc n a ∧ v = s.csrRead n.toNat &&& ~~~(s.rs (srcTag .b 0) a)) →
    s.admits i →
    ∃ t, exec i s = .next t ∧ t.csrRead n.toNat = v &&& m ∧
      t.core.ctx.r.s = s.core.ctx.r.s ∧ t.core.ctx.r.v = s.core.ctx.r.v ∧ t.core.ctx.r.p = s.core.ctx.r.p ∧
      t.core.ctx.fl = s.core.ctx.fl ∧ t.core.ctx.f.pc = s.core.ctx.f.pc ∧ t.core.iss = s.core.iss ∧ SameBytes s t

/-- 05 R117: below privilege S the CSRs of traps, recovery and power, and the writes of CODEH, of unit views and of counters, raise the CSR-
privilege trap; nothing else happens. 05 R117, 16 R400 and R401, 16 R402, 09 R207: below privilege S these instructions take the
privilege trap before anything happens. -/
def Obligations.PrivilegeTraps : Prop :=
  (∀ (s : State) (n : BitVec 12) (a d : Reg) (i : Instr),
    ((0x100 ≤ n.toNat ∧ n.toNat < 0x200 ∨ 0x50B ≤ n.toNat) ∧ i = .csrr d n) ∨
      ((n.toNat = 0x010 ∨ (0x100 ≤ n.toNat ∧ n.toNat ≠ 0x30B ∧ n.toNat ≠ 0x324 ∧ ¬(0x500 ≤ n.toNat ∧ n.toNat ≤ 0x509))) ∧
        (i = .csrw n a ∨ i = .csrs n a ∨ i = .csrc n a)) →
    s.core.iss.checked = false → s.core.ctx.f.level = 0 → s.core.ctx.f.act = false → s.core.ctx.held.length < 4 →
    ∃ t, exec i s = .next t ∧ t.core.trap.cause.extractLsb' 0 8 = 4#8 ∧ t.core.trap.cause.extractLsb' 9 3 = 1#3 ∧
      t.core.ctx.f.level = 1 ∧ t.core.ctx.f.pc = fld s.core.ctx.f.tvec 0 48 ∧ t.core.ctx.r = s.core.ctx.r ∧ SameBytes s t) ∧
  (∀ (s : State) (i : Instr) (a b d : Reg) (h : BitVec 12) (imm : BitVec 20),
    i = .eret ∨ i = .hset a b ∨ i = .hinv a ∨ i = .dstc d a b h imm ∨ i = .dldc d a h imm ∨ i = .cpRes d a ∨ i = .cpResDrop d a ∨
      i = .ctxSwap d ∨ i = .ctxSpill d a ∨ i = .ctxFill d a →
    s.core.iss.checked = false → s.core.ctx.f.level = 0 → s.core.ctx.f.act = false → s.core.ctx.held.length < 4 →
    ∃ t, exec i s = .next t ∧ t.core.trap.cause.extractLsb' 0 8 = 5#8 ∧ t.core.trap.cause.getLsbD 8 = false ∧
      t.core.ctx.f.level = 1 ∧ t.core.ctx.f.act = true ∧ t.core.ctx.f.pc = fld s.core.ctx.f.tvec 0 48 ∧
      t.core.trap.pc = BitVec.ofNat 64 (s.core.ctx.f.pc % 2 ^ 48 + s.core.ctx.f.codeh.toNat * 2 ^ 48) ∧
      t.core.ctx.r = s.core.ctx.r ∧ SameBytes s t)

/-- 05 R110, R118; 16 R383; 11 R283: the writes with rules of their own: ROTLO, which clears ROTB; ROTB, modulo its range; a loop counter;
TVEC with its low bits dropped; SEG.EV, cleared by ones. 11 R283, 12 R313, 13 R343, 17 R408: the table bases take 0 or an aligned
address in D and ignore any other write; KVMIRB clears its error and goes to the recovery directory. 17 R411, R412: a write of RP.CTL without
BUSY stores POSTED; with BUSY it starts a record only for a request of the running partition that holds something, and says 1 otherwise.
That the record is taken at the issue of the write, that a missing sequence counts as an empty one, and that a place where it cannot be
written is found then, is the model's reading (log 67). -/
def Obligations.CsrFieldAndBaseRules : Prop :=
  (∀ (s : State) (v : Word) (l : BitVec 2),
    exec (.rotloWrite v) s = .next { s with
      core.ctx.f.rotlo := (if v.toNat % 32 ≤ 16 then v.toNat % 32 else 16), core.ctx.f.rotb := 0 } ∧
    (s.core.ctx.f.rotlo < 16 → exec (.rotbWrite v) s = .next { s with core.ctx.f.rotb := v.toNat % 16 % (16 - s.core.ctx.f.rotlo) }) ∧
    (s.core.ctx.f.rotlo = 16 → exec (.rotbWrite v) s = .next { s with core.ctx.f.rotb := 0 }) ∧
    (∃ t, exec (.lcWrite l v) s = .next t ∧ t = { s with core.ctx.r.l := t.core.ctx.r.l } ∧
      Tab.get 0 t.core.ctx.r.l l.toNat = v.setWidth 32 ∧ ∀ k, k ≠ l.toNat → Tab.get 0 t.core.ctx.r.l k = Tab.get 0 s.core.ctx.r.l k) ∧
    exec (.tvecWrite v) s = .next { s with core.ctx.f.tvec := v &&& 0xFFFFFFFFFFFFFC0 } ∧
    (∃ t, exec (.segEvWrite v) s = .next t ∧ t = { s with core.ctx.csr.segEv := t.core.ctx.csr.segEv } ∧
      ∀ k < 4, t.core.ctx.csr.segEv.testBit k = (s.core.ctx.csr.segEv.testBit k && !v.getLsbD k))) ∧
  (∀ (s : State) (v : Word) (c : Bool),
    (∃ t, exec (.avtbWrite v) s = .next t ∧ t = { s with dparts := t.dparts } ∧
      (s.baseTaken v 65536 → t.dpart s.station s.part = { s.dpart s.station s.part with avtb := v }) ∧ (¬ s.baseTaken v 65536 → t = s)) ∧
    (∃ t, exec (.schbWrite c v) s = .next t ∧ t = { s with dparts := t.dparts } ∧
      (s.baseTaken v 65536 → t.dpart s.station s.part =
        if c then { s.dpart s.station s.part with cmpb := v } else { s.dpart s.station s.part with schb := v }) ∧
      (¬ s.baseTaken v 65536 → t = s)) ∧
    (∃ t, exec (.kvpolbWrite v) s = .next t ∧ t = { s with kv := t.kv } ∧
      (s.baseTaken v 512 → t.kvp s.station s.part = { s.kvp s.station s.part with kvpolb := v }) ∧ (¬ s.baseTaken v 512 → t = s)) ∧
    (∃ t, exec (.kvmirbWrite v) s = .next t ∧ t = { s with kv := t.kv, recdir := t.recdir } ∧
      t.kvp s.station s.part = { s.kvp s.station s.part with kvmirb := v, mirErr := false } ∧
      (Tab.get {} t.recdir (4 * s.station + s.part)).kvmirb = v.toNat)) ∧
  (∀ (s : State) (v : Word),
    let e := (s.die s.station).req (s.core.ctx.csr.rpRq.toNat % 256)
    (v.getLsbD 0 = false → ∃ t, exec (.rpCtlWrite v) s = .next t ∧ t = { s with core.ctx.csr.rpCtl := t.core.ctx.csr.rpCtl } ∧
      t.core.ctx.csr.rpCtl.getLsbD 1 = v.getLsbD 1) ∧
    (v.getLsbD 0 = true → e.part ≠ s.part ∨ e.state = 0 ∨ e.state = 6 → ∃ t, exec (.rpCtlWrite v) s = .next t ∧
      t = { s with core.ctx.csr.rpCtl := t.core.ctx.csr.rpCtl } ∧ t.core.ctx.csr.rpCtl.extractLsb' 2 4 = 1#4) ∧
    (v.getLsbD 0 = true → e.part = s.part → e.state ≠ 0 → e.state ≠ 6 → (s.kvp s.station s.part).kvmirb ≠ 0 →
      (s.kvp s.station s.part).mirErr = false → (s.rpPlace e.rpha).2.isSome = true →
      fld s.core.ctx.csr.rpLen 0 32 ≤ ((s.kvp s.station s.part).seq (e.kvroot % 2 ^ 16) |>.getD {}).clen →
      ∃ t, exec (.rpCtlWrite v) s = .next t ∧ t.core.ctx.csr.rpCtl.extractLsb' 2 4 = 0#4 ∧ t.core.ctx.rp.isSome = true ∧
        ((t.die s.station).req (s.core.ctx.csr.rpRq.toNat % 256)).hseq = e.hseq + 1 ∧ SameRegs s t ∧ SameBytes s t))

/-- 10 R243, R244: a load whose access passes, and before which no earlier access has to come, lands its bytes with their extension after the
latency of its space; s0 discards them. Behind an earlier access it joins those that wait (10 R228). Which earlier accesses have to come
first is the model's reading (log 33). -/
def Obligations.Loads : Prop :=
  ∀ (s : State) (size : LdSize) (d base : Reg) (h : BitVec 12) (imm : BitVec 20) (e : HEnt) (ks : List Nat),
    let i : Instr := .ld size d base h imm
    s.admits i → s.access (opAddr h (s.arg i 0) imm.toInt) (ldBytes size) true false spLd = .ok e ks → s.cleanAt ks →
    s.serialsBelow →
    (s.unblocked e false ks → ∃ t, exec i s = .next t ∧
      t.core.ctx.fl.pend = s.withResult d (s.resultOf .m d (loaded size (leNat (s.rdKeys ks))) (loadLatency (hSpace e)) none) ∧
      t.core.leases = s.core.leases ∧ SameRegs s t ∧ SameBytes s t) ∧
    (¬ s.unblocked e false ks → ∃ t, exec i s = .next t ∧ Leased s t i ks)

/-- 10 R242, R244: a store to a buffer of its core, before which no earlier access has to come, writes its bytes at once, and no other byte but
those of an OFF bank that it wakes; a store to D, G or H joins the accesses that wait for their place in the order, unless it is executed
at its due cycle, compared, and five cycles after its issue. Which earlier accesses hold a store back is the model's reading (log 33). -/
def Obligations.Stores : Prop :=
  ∀ (s : State) (size : StSize) (src base : Reg) (h : BitVec 12) (imm : BitVec 20) (e : HEnt) (ks : List Nat),
    let i : Instr := .st size src base h imm
    s.admits i → s.access (opAddr h (s.arg i 0) imm.toInt) (stBytes size) false true spLd = .ok e ks →
    ∃ t, exec i s = .next t ∧
      (¬ s.heldBack e → s.unblocked e true ks →
        SameRegs s t ∧ ∀ k, t.rd1 k = s.afterStore ks (leBytes (s.arg i 1).toNat (stBytes size)) k) ∧
      (s.heldBack e ∨ ¬ s.unblocked e true ks → Leased s t i ks)

/-- 07 R173, R174: a vector load whose accesses pass, and before which no earlier access has to come, brings the 64 bytes of each place of the
block to its register, mapped at issue. 07 R175: `vld.ver` does the same for a tile whose version word is even, four cycles later; while
it is odd its access waits. That it waits as one access and reads all its places in one event is the model's reading (log 39), and so is
which earlier accesses come first (log 33). -/
def Obligations.VectorLoads : Prop :=
  (∀ (s : State) (m : VMem) (e : HEnt),
    let i : Instr := .vld m
    s.admits i → s.cleanAt (memKeys i s) → s.serialsBelow →
    (∀ r ∈ memReqs i s, ∃ ks, s.reqAccess r = .ok e ks) → s.unblocked e false (memKeys i s) →
    ∃ t, exec i s = .next t ∧ SameRegs s t ∧ SameBytes s t ∧
      ∀ p ∈ vmPlaces m, ∃ x ∈ t.core.ctx.fl.pend,
        x.dst = ⟨.v, physV s.core.ctx.f (m.v.toNat + 16 * p.1 + p.2)⟩ ∧ x.unit = none ∧ x.iat = s.core.icyc ∧
        (s.core.iss.now = false → x.due = s.core.icyc + ((if hSpace e = spD then 64 else 4) + ((m.h.toNat + 1) * (m.w.toNat + 1) + 1) / 2)) ∧
        x.val = BitVec.ofNat 512 (leNat (s.rdKeys
          (s.access (vmAddr (vmBase i m s) m p.1 p.2) 64 true false spVec).keys))) ∧
  (∀ (s : State) (m : VMem) (e : HEnt),
    let i : Instr := .vldVer m
    let hdr := (s.access (vmBase i m s) 64 true false spVec).keys
    s.admits i → s.cleanAt (memKeys i s) → s.serialsBelow →
    (∀ r ∈ memReqs i s, ∃ ks, s.reqAccess r = .ok e ks) → s.unblocked e false (memKeys i s) →
    ∃ t, exec i s = .next t ∧ SameRegs s t ∧ SameBytes s t ∧
      (leNat (s.rdKeys ((hdr.drop 8).take 8)) % 2 = 1 → Leased s t i (memKeys i s)) ∧
      (leNat (s.rdKeys ((hdr.drop 8).take 8)) % 2 = 0 →
        ∀ p ∈ vmPlaces m, ∃ x ∈ t.core.ctx.fl.pend,
          x.dst = ⟨.v, physV s.core.ctx.f (m.v.toNat + 16 * p.1 + p.2)⟩ ∧ x.unit = none ∧
          (s.core.iss.now = false →
            x.due = s.core.icyc + ((if hSpace e = spD then 68 else 8) + ((m.h.toNat + 1) * (m.w.toNat + 1) + 1) / 2)) ∧
          x.val = BitVec.ofNat 512 (leNat (s.rdKeys (s.access (vmAddr (vmBase i m s) m p.1 p.2) 64 true false spVec).keys))))

/-- 07 R173, R174: a vector store to a buffer of its core, before which no earlier access has to come, writes the block's registers in order of
row and column, a later one over an earlier; one to D waits for its place in the order, unless it is executed at its due cycle, compared,
and five cycles after its issue. Which earlier accesses hold a store back is the model's reading (log 33). -/
def Obligations.VectorStores : Prop :=
  ∀ (s : State) (m : VMem) (e : HEnt),
    let i : Instr := .vst m
    let vs := if s.core.iss.cap.isSome then s.core.iss.capV else (s.rblock (srcTag .m 3) m.v (m.h.toNat + 1) (m.w.toNat + 1)).flatten
    s.admits i → (∀ r ∈ memReqs i s, ∃ ks, s.reqAccess r = .ok e ks) →
    ∃ t, exec i s = .next t ∧
      (¬ s.heldBack e → s.unblocked e true (memKeys i s) →
        SameRegs s t ∧ ∀ k, t.rd1 k = s.afterStore (memKeys i s) ((vs.map (fun v => leBytes v.toNat 64)).flatten) k) ∧
      (s.heldBack e ∨ ¬ s.unblocked e true (memKeys i s) → Leased s t i (memKeys i s))

/-- 10 R242, R245, R246, R248; 16 R402: atomics and arrivals issue into the order with their destination awaiting the old value after the
latency of their space; one that is executed at its due cycle, compared, and five cycles after its issue takes effect at once, on its own
bytes. -/
def Obligations.AtomicsIssue : Prop :=
  ∀ (s : State) (op : AmoOp) (dw : Bool) (sc : Scope) (d base b c : Reg) (h : BitVec 12) (imm : BitVec 20) (i18 : BitVec 18) (i : Instr)
    (rq : MemReq) (e : HEnt) (ks : List Nat),
    i = .amo op dw sc d base b h imm ∨ i = .cas dw sc d base b c h i18 ∨ i = .boArr d base b h imm →
    s.admits i → memReqs i s = [rq] → s.reqAccess rq = .ok e ks → s.cleanAt ks → s.serialsBelow → keyBanks ks = [] →
    ∃ t, exec i s = .next t ∧
      (s.heldBack e → Leased s t i ks ∧
        t.core.ctx.fl.pend = s.withResult d { s.resultOf .m d 0 (if hSpace e = spG then 512 else 96) (some (s.core.serial + 1)) with store := true }) ∧
      (¬ s.heldBack e → t.core.leases = s.core.leases ∧ SameRegs s t ∧ SameBytesBut ks s t)

/-- 10 R228, R229, R242; 07 R174: the oldest access of the core to D, G or H, or the oldest to its buffers, once it may, takes its place: a
store's bytes are written, a load's value is delivered, and nothing else of memory changes; where neither may, nothing happens. That an
access goes whole is the model's choice (log 33). -/
def Obligations.StoresAndLoadsPerform : Prop :=
  ∀ (s : State) (l : Lease) (sz : StSize) (lz : LdSize) (a b : Reg) (h : BitVec 12) (imm : BitVec 20),
    ((∀ o ∈ s.core.leases, s.leaseReady o = false) → exec .storePerform s = .next s) ∧
    (s.nextLease = some l → ∃ t, exec .storePerform s = .next t ∧ t.core.leases = s.core.leases.erase l ∧
      (l.ins = .st sz a b h imm → ∀ k, t.rd1 k = s.afterStore l.keys (leBytes (l.caps.getD 1 0).toNat (stBytes sz)) k) ∧
      (l.ins = .ld lz a b h imm → s.cleanAt l.keys → SameBytes s t ∧ ∀ p ∈ s.core.ctx.fl.pend,
        (if p.unit = some l.serial then { p with val := (loaded lz (leNat (s.rdKeys l.keys))).setWidth 512, unit := none } else p)
          ∈ t.core.ctx.fl.pend))

/-- 10 R245, R246: an atomic is one event: what it leaves and what it returns follow from the bytes it finds. When the event takes place is
the model's choice (log 33). -/
def Obligations.AtomicsPerform : Prop :=
  ∀ (s : State) (l : Lease) (op : AmoOp) (dw : Bool) (sc : Scope) (d base b c : Reg) (h : BitVec 12) (imm : BitVec 20)
    (i18 : BitVec 18),
    let w := if dw then 64 else 32
    let x := leNat (s.rdKeys l.keys)
    let y := (l.caps.getD 1 0).toNat
    let z := (l.caps.getD 2 0).toNat
    s.nextLease = some l → l.keys.length = w / 8 → keyBanks l.keys = [] → l.keys.Nodup → s.cleanAt l.keys →
    ∃ t, exec .storePerform s = .next t ∧ t.core.leases = s.core.leases.erase l ∧ SameBytesBut l.keys s t ∧
      (l.ins = .amo op dw sc d base b h imm → leNat (t.rdKeys l.keys) = (amoResult op (BitVec.ofNat w x) (BitVec.ofNat w y)).toNat) ∧
      (l.ins = .cas dw sc d base b c h i18 → leNat (t.rdKeys l.keys) = if x = y % 2 ^ w then z % 2 ^ w else x) ∧
      (l.ins = .amo op dw sc d base b h imm ∨ l.ins = .cas dw sc d base b c h i18 → ∀ p ∈ s.core.ctx.fl.pend, p.unit = some l.serial →
        { p with val := (oldValue dw x).setWidth 512, unit := none } ∈ t.core.ctx.fl.pend)

/-- 10 R248: one arrival at a barrier object: counted, completing its phase, overrunning it, or refused, with its result word. When the
event takes place is the model's choice (log 33). -/
def Obligations.BarrierArrivals : Prop :=
  ∀ (s : State) (l : Lease) (d base b : Reg) (h : BitVec 12) (imm : BitVec 20),
    let o := leNat (s.rdKeys l.keys)
    let k := (l.caps.getD 1 0).toNat
    let arrived := o / 2 ^ 16 % 2 ^ 16
    let expected := o % 2 ^ 16
    let phase := o / 2 ^ 32 % 16
    let bad := expected = 0 ∨ o / 2 ^ 37 % 2 ^ 27 ≠ 0 ∨ k = 0 ∨ 65535 < k
    s.nextLease = some l → l.ins = .boArr d base b h imm → l.keys.length = 16 → keyBanks l.keys = [] →
    l.keys.Nodup → s.cleanAt l.keys →
    ∃ t o' r, exec .storePerform s = .next t ∧ SameBytesBut l.keys s t ∧ leNat (t.rdKeys l.keys) = o' ∧
      (∀ p ∈ s.core.ctx.fl.pend, p.unit = some l.serial → { p with val := (BitVec.ofNat 64 r).setWidth 512, unit := none } ∈ t.core.ctx.fl.pend) ∧
      (bad → o' = o ∧ r = arrived * 2 ^ 16 + phase * 2 ^ 8 + 3) ∧
      (¬bad → expected < arrived + k → o'.testBit 36 = true ∧ (∀ j, j ≠ 36 → o'.testBit j = o.testBit j) ∧
        r = arrived * 2 ^ 16 + phase * 2 ^ 8 + 2) ∧
      (¬bad → arrived + k = expected → o' % 2 ^ 16 = expected ∧ o' / 2 ^ 16 % 2 ^ 16 = 0 ∧ o' / 2 ^ 32 % 16 = (phase + 1) % 16 ∧
        o'.testBit 36 = o.testBit 36 ∧ o' / 2 ^ 64 = s.stroke % 2 ^ 64 ∧ r = phase * 2 ^ 8 + 1) ∧
      (¬bad → arrived + k < expected → o' % 2 ^ 16 = expected ∧ o' / 2 ^ 16 % 2 ^ 16 = arrived + k ∧ o' / 2 ^ 32 = o / 2 ^ 32 ∧
        r = (arrived + k) * 2 ^ 16 + phase * 2 ^ 8)

/-- 10 R249: `bo.wait` whose address is good, once the accesses of its core that issued before it are performed, reads its object: where the
phase is another than the given one, or the object is malformed, it lands the phase with code 0 or 3; where it is the given one, it
freezes the core for a cycle, and with its bound passed lands code 1. 10 R250: `fence` issues, and changes nothing, once every earlier
store, atomic, arrival and publication write is performed or discarded. 10 R251: `rel.rec` issues, and changes nothing, once what the core
issued to durable places is in the checkpoint domain. While a store of the core is not performed both freeze the core for a cycle, and no
register and no byte changes. That these waits perform the core's own uncompared stores is the model's reading (log 20, 32), and so is which
earlier accesses come before the read of `bo.wait` (log 33). -/
def Obligations.OrderWaits : Prop :=
  (∀ (s : State) (d base b e : Reg) (h : BitVec 12) (imm : BitVec 20) (ent : HEnt) (ks : List Nat),
    let i : Instr := .boWait d base b e h imm
    let o := leNat (s.rdKeys ks)
    let bad := o % 2 ^ 16 = 0 ∨ o / 2 ^ 37 % 2 ^ 27 ≠ 0
    let other := o / 2 ^ 32 % 16 ≠ (s.arg i 1).toNat % 16
    let answer := fun (s : State) (code : Nat) => s.plusResult .m d (BitVec.ofNat 64 (o / 2 ^ 32 % 16 * 2 ^ 8 + code)) 1
    s.core.iss.q.getLsbD 1 = false → memFault i s = none → s.access (opAddr h (s.arg i 0) imm.toInt) 16 true false spAtom = .ok ent ks →
    s.anyAsleep ks = false → s.boReads →
    (s.cleanAt ks → bad → exec i s = .next (answer s.begun 3)) ∧
    (s.cleanAt ks → ¬bad → other → exec i s = .next (answer s.begun 0)) ∧
    (s.cleanAt ks → ¬bad → ¬other → s.core.iss.checked = false → s.timedOut = true → exec i s = .next (answer s.thaw 1)) ∧
    (¬bad → ¬other → s.core.iss.checked = false → s.timedOut = false → ∃ t w, exec i s = .next t ∧ t.core.frz.line = true ∧
      t.core.frz.cls = .wait ∧ t.core.ccyc = s.core.ccyc + 1 ∧ t.core.icyc = s.core.icyc ∧ t.core.wait = some w ∧
      (s.core.wait = none → w.bound = (s.arg i 2).toNat ∧ w.elapsed = 1) ∧ SameRegs s t ∧ SameBytes s t)) ∧
  (∀ (s : State) (sc : Scope), s.core.iss.q.getLsbD 1 = false → s.allPerformed → exec (.fence sc) s = .next s.begun) ∧
  (∀ (s : State), s.core.iss.q.getLsbD 1 = false → s.allDurable → exec .relRec s = .next s.begun) ∧
  (∀ (s : State) (sc : Scope) (i : Instr) (l : Lease),
    i = .fence sc ∨ (i = .relRec ∧ l.durable = true) →
    s.core.iss.checked = false → s.core.iss.q.getLsbD 1 = false → l ∈ s.core.leases → leavesLease l.ins = true → s.timedOut = false →
    ∃ t, exec i s = .next t ∧ t.core.frz.line = true ∧ t.core.frz.cls = .wait ∧ t.core.ctr.frzCyc = s.core.ctr.frzCyc + 1 ∧
      t.core.ccyc = s.core.ccyc + 1 ∧ t.core.icyc = s.core.icyc ∧ t.core.leases = s.core.leases ∧ SameRegs s t ∧ SameBytes s t)

/-- 16 R402: at privilege S a raw write to a buffer of the core stores its data and its check byte as given; a raw read lands the check byte
that the word holds. 09 R207, R208: at privilege S `hset` and `hinv` send their command, `hset` with the entry it read, and freeze the
core until it has taken effect; nothing is written before. The latency of `dldc` in K, and which earlier accesses hold a raw access back, are the
model's readings (log 33, 35). -/
def Obligations.RawBytesAndHandles : Prop :=
  (∀ (s : State) (c d base b : Reg) (h : BitVec 12) (imm : BitVec 20) (e : HEnt) (ks : List Nat),
    let i : Instr := .dstc c base b h imm
    let j : Instr := .dldc d base h imm
    (s.admits i → s.access (opAddr h (s.arg i 0) imm.toInt) 8 false true spRaw = .ok e ks → ks.headD 0 % 8 = 0 →
      ¬ s.heldBack e → s.unblocked e true ks → ∃ t, exec i s = .next t ∧ SameRegs s t ∧ (∀ k, t.rd1 k = s.afterStore ks (leBytes (s.arg i 1).toNat 8) k) ∧
        t.chkOf (ks.headD 0 / 8) = (s.arg i 2).toNat % 256) ∧
    (s.admits j → s.access (opAddr h (s.arg j 0) imm.toInt) 8 true false spRaw = .ok e ks → s.unblocked e false ks →
      s.serialsBelow →
      ∃ t, exec j s = .next t ∧ SameRegs s t ∧ SameBytes s t ∧
        t.core.ctx.fl.pend = s.withResult d (s.resultOf .m d (BitVec.ofNat 64 (s.chkOf (ks.headD 0 / 8))) (if hSpace e = spK then 64 else loadLatency (hSpace e)) none))) ∧
  (∀ (s : State) (a b : Reg) (e : HEnt),
    (s.admits (.hset a b) ∨ (s.defers (.hset a b) ∧ memFault (.hset a b) s = none) → s.hImage (s.arg (.hset a b) 1).toNat = some e →
      s.cleanAt (s.access (s.arg (.hset a b) 1).toNat 32 true false [spP, spD]).keys →
      (∀ m ∈ s.core.ctx.cmds, m.serial ≠ s.nextSerial) →
      ∃ t m, exec (.hset a b) s = .next t ∧ t.core.ctx.cmds = insertCmd m s.core.ctx.cmds ∧ m.serial = s.nextSerial ∧ m.ins = .hset a b ∧ m.ent = [(0, e)] ∧
        t.core.holdCmd = some m.serial ∧ t.handles = s.handles ∧ SameRegs s t ∧ SameBytes s t) ∧
    (s.admits (.hinv a) ∨ (s.defers (.hinv a) ∧ memFault (.hinv a) s = none) → (∀ m ∈ s.core.ctx.cmds, m.serial ≠ s.nextSerial) →
      ∃ t m, exec (.hinv a) s = .next t ∧ t.core.ctx.cmds = insertCmd m s.core.ctx.cmds ∧ m.serial = s.nextSerial ∧ m.ins = .hinv a ∧
        t.core.holdCmd = some m.serial ∧ t.handles = s.handles ∧ SameRegs s t ∧ SameBytes s t))

/-- 10 R244, 09 R205: a load or store at an address that is no multiple of its size, or whose handle is invalid, another partition's,
without the right, or left by the access, traps before its bundle issues with the address recorded, and accesses nothing. -/
def Obligations.AccessFaultsTrap : Prop :=
  ∀ (s : State) (i : Instr) (sz : LdSize) (zz : StSize) (d base : Reg) (h : BitVec 12) (imm : BitVec 20) (ha n : Nat) (wr : Bool) (c : Nat),
    let e := s.hEnt s.station s.part (haHandle ha)
    (i = .ld sz d base h imm ∧ n = ldBytes sz ∧ wr = false) ∨ (i = .st zz d base h imm ∧ n = stBytes zz ∧ wr = true) →
    ha = opAddr h (s.arg i 0) imm.toInt →
    (ha % 2 ^ 52 % n ≠ 0 ∧ c = 0x0A) ∨
      (ha % 2 ^ 52 % n = 0 ∧ (haHandle ha = 7 ∨ hValid e = false) ∧ c = 0x0B) ∨
      (ha % 2 ^ 52 % n = 0 ∧ haHandle ha ≠ 7 ∧ hValid e = true ∧ hPart e ≠ s.part ∧ c = 0x0C) ∨
      (ha % 2 ^ 52 % n = 0 ∧ haHandle ha ≠ 7 ∧ hValid e = true ∧ hPart e = s.part ∧ hCpol e ≤ 1 ∧ hSpace e ∈ spLd ∧
        ((wr = false ∧ hRd e = false) ∨ (wr = true ∧ hWr e = false)) ∧ c = 0x0E) ∨
      (ha % 2 ^ 52 % n = 0 ∧ haHandle ha ≠ 7 ∧ hValid e = true ∧ hPart e = s.part ∧ hCpol e ≤ 1 ∧ hSpace e ∈ spLd ∧
        ((wr = false ∧ hRd e = true) ∨ (wr = true ∧ hWr e = true)) ∧ hBound e < ha % 2 ^ 52 + n ∧ c = 0x0F) →
    s.core.iss.checked = false → s.core.iss.q.getLsbD 1 = false → s.core.ctx.f.act = false → s.core.ctx.held.length < 4 →
    ∃ t, exec i s = .next t ∧ t.core.trap.cause.extractLsb' 0 8 = BitVec.ofNat 8 c ∧ t.core.trap.addr = BitVec.ofNat 64 ha ∧
      t.core.ctx.f.pc = fld s.core.ctx.f.tvec 0 48 ∧ t.core.ctx.f.level = 1 ∧ t.core.leases = s.core.leases ∧
      t.core.ctx.r = s.core.ctx.r ∧ SameBytes s t

/-- 09 R212 to R214: the end of a walk takes it and the misses that joined it from the queue: its leaf reaches the translations of the core
and those of its die, or its fault waits for each access that asked; no byte of memory changes. What ends a walk early, that a leaf without
the right is not kept (log 28), and that a block asked for ahead is dropped where its walk found a fault (log 170) are the model's readings. -/
def Obligations.PageWalkEnds : Prop :=
  ∀ (s : State) (w : Walk) (rest : List Walk), s.walks = w :: rest → s.allClean →
    ∃ t, exec .pageWalkEnd s = .next t ∧ SameBytes s t ∧ t.core = s.core ∧
      (∀ c, s.walk w.part w.va = .bad c → t.tlb = s.tlb ∧
        (∀ o ∈ s.walks, if o.part = w.part ∧ o.va / 65536 = w.va / 65536 ∧ stationOf o.core = stationOf w.core then
          (o.ahead = false → (o, c) ∈ t.walkFault) else o ∈ t.walks) ∧
        (∀ o ∈ t.walks, o ∈ rest) ∧ ∀ p ∈ t.walkFault, p ∈ s.walkFault ∨ p.2 = c) ∧
      (∀ leaf size c, s.walk w.part w.va = .ok leaf size → leafUse leaf w.rd w.wr w.space = some c → w.ahead = false → (w, c) ∈ t.walkFault) ∧
      (∀ leaf size, s.walk w.part w.va = .ok leaf size → leafUse leaf w.rd w.wr w.space = none → 0 < size →
        (∀ p ∈ t.walkFault, p ∈ s.walkFault ∨ p.1 ∈ rest) ∧ (∀ o ∈ t.walks, o ∈ rest) ∧
        (∃ x ∈ t.tlb, x.part = w.part ∧ x.va ≤ w.va ∧ w.va < x.va + x.size ∧ x.core = some w.core ∧ x.leaf = BitVec.ofNat 64 leaf) ∧
        ∃ x ∈ t.tlb, x.part = w.part ∧ x.va ≤ w.va ∧ w.va < x.va + x.size ∧ x.core = none ∧ x.station = stationOf w.core ∧
          x.leaf = BitVec.ofNat 64 leaf)

/-- 07 R158, R166 to R168, R171; 04 R81: `cb.set` writes the descriptor that its image holds, with every pointer 0; `cb.push` and `cb.pop`
move PPTR and CPTR modulo 2N; `cb.rel` ends the phase with a record of the buffers that it names. Each leaves as a compared command, and
no other descriptor changes. -/
def Obligations.CbCommands : Prop :=
  ∀ (s : State) (cb : BitVec 4) (a : Reg) (n : BitVec 9) (mask : BitVec 16),
    let d := Tab.get {} s.core.ctx.cb cb.toNat
    let two := 2 * (d.nslot + 1)
    let ks := (s.access (s.arg (.cbSet cb a) 0).toNat 64 true false [spP, spD]).keys
    let m : BitVec 512 := BitVec.ofNat 512 (leNat (s.rdKeys ks))
    (s.admits (.cbSet cb a) → s.cleanAt ks → (∀ m ∈ s.core.ctx.cmds, m.serial ≠ s.nextSerial) → ∃ t, exec (.cbSet cb a) s = .next t ∧ Sent s t (.cbSet cb a) ∧
      Tab.get {} t.core.ctx.cb cb.toNat =
        { handle := fld m 0 12, base := fld m 16 48, slotsz := fld m 64 17, nslot := fld m 81 8, trl := fld m 96 11, prod := fld m 112 3,
          cons := fld m 116 3, vrel := m.getLsbD 120, valid := true } ∧
      ∀ k, k ≠ cb.toNat → Tab.get {} t.core.ctx.cb k = Tab.get {} s.core.ctx.cb k) ∧
    (s.admits (.cbPush cb n) → ∃ t, exec (.cbPush cb n) s = .next t ∧ Sent s t (.cbPush cb n) ∧
      (∃ e, Tab.get {} t.core.ctx.cb cb.toNat = e ∧ e = { d with pptr := (d.pptr + n.toNat) % two, vptr := e.vptr, seen := e.seen } ∧
        e.vptr = (if d.vrel then d.vptr else (d.pptr + n.toNat) % two)) ∧
      ∀ k, k ≠ cb.toNat → Tab.get {} t.core.ctx.cb k = Tab.get {} s.core.ctx.cb k) ∧
    (s.admits (.cbPop cb n) → ∃ t, exec (.cbPop cb n) s = .next t ∧ Sent s t (.cbPop cb n) ∧
      Tab.get {} t.core.ctx.cb cb.toNat = { d with cptr := (d.cptr + n.toNat) % two } ∧
      ∀ k, k ≠ cb.toNat → Tab.get {} t.core.ctx.cb k = Tab.get {} s.core.ctx.cb k) ∧
    (s.admits (.cbRel mask) → s.core.ctx.task.missed = false → s.core.ctx.rqs = [] →
      ∃ t c, exec (.cbRel mask) s = .next t ∧ t.core.ctx.phase = s.core.ctx.phase + 1 ∧
        t.core.ctx.commits = s.core.ctx.commits ++ [c] ∧ c.phase = s.core.ctx.phase ∧ c.mask = mask.toNat ∧ c.lateP = [] ∧ c.lateC = [] ∧
        (∀ k < 16, Tab.get {} t.core.ctx.cb k =
          { Tab.get {} s.core.ctx.cb k with npend := (Tab.get {} s.core.ctx.cb k).npend + if mask.getLsbD k then 1 else 0 }) ∧
        (∃ m : Cmd, t.core.ctx.cmds = insertCmd m s.core.ctx.cmds ∧ m.ins = .cbRel mask ∧ m.phase = s.core.ctx.phase + 1) ∧ SameRegs s t ∧ SameBytes s t ∧ OnlyCore s.begun t)

/-- 07 R163, R171; 16 R388: a record applies once nothing holds it: of each buffer that it names, VPTR and KPTR become the pointer up to
which its phase produced, FPTR the one up to which it consumed, PH toggles and NPEND falls; its phase is committed; no byte changes.
When nothing holds a record is the model's reading (log 45). -/
def Obligations.CommitsApply : Prop :=
  ∀ (s : State) (r : Commit),
    s.core.readyCommit s.core.ctx = some r → s.core.ctx.rqs = [] →
    ∃ t, exec .commitApply s = .next t ∧ t.core.ctx.commits = s.core.ctx.commits.erase r ∧ SameRegs s t ∧ SameBytes s t ∧ OnlyCore s t ∧
      (∀ p ∈ t.core.ctx.phases, p.idx ≠ r.phase) ∧
      ∀ k < 16,
        let d := Tab.get {} s.core.ctx.cb k
        let e := Tab.get {} t.core.ctx.cb k
        let two := 2 * (d.nslot + 1)
        (r.mask.testBit k = false → e = d) ∧
        (r.mask.testBit k = true → e.ph = !d.ph ∧ e.npend = d.npend - 1 ∧ e.pptr = d.pptr ∧ e.cptr = d.cptr ∧ e.vptr = (if d.vrel then e.kptr else d.vptr) ∧
          (e.fptr + Tab.get 0 r.lateC k) % two = d.cptr % two ∧
          (d.prod = 6 → e.kptr = d.pptr) ∧
          (d.prod ≠ 6 → (e.kptr + Tab.get 0 r.lateP k) % two = d.pptr % two))

/-- 07 R169, 10 R253, 12 R320: a bounded wait whose condition holds lands its value with code 0, one whose bound has run out with code 1;
any other passes one cycle with the core frozen, the bound read when the wait begins, and no register and no byte changed. 07 R169, 10
R249 and R253, 11 R285, 12 R308 and R320: when the bound of a wait passes, the rest of its cycles go by frozen and the wait has ended; a
wait with bound 0 has none. A `bar` then lands code 1, and its arrival stays. That the arrival of a timed-out `bar` opens nothing later
is the model's reading (log 36). -/
def Obligations.BoundedWaits : Prop :=
  (∀ (s : State) (i : Instr) (d a b : Reg) (cb : BitVec 4) (room : Bool) (n : BitVec 9) (u : Tl) (met : Bool) (bound high : Nat),
    let x := s.core.ctx
    (i = .cbWait d cb room n b ∧ (Tab.get {} x.cb cb.toNat).valid = true ∧ bound = (s.arg i 0).toNat ∧ high = 0 ∧
        met = (if room then decide (n.toNat ≤ (Tab.get {} x.cb cb.toNat).room) else decide (n.toNat ≤ s.core.cbAvail x cb.toNat))) ∨
      (i = .tlWait u d a b ∧ bound = (s.arg i 1).toNat ∧ high = 0 ∧ met = decide ((s.arg i 0).toNat ≤ (x.tl u).value)) ∨
      (i = .termWait d b ∧ bound = (s.arg i 0).toNat ∧ high = (s.dpart s.station s.part).qepoch % 2 ^ 32 ∧ met = s.quiet s.station s.part) →
    s.core.iss.checked = false → s.mustDefer i = false → s.qOf .e = false →
    (met = true → exec i s = .next (s.thaw.plusResult .e d (BitVec.ofNat 64 (high * 2 ^ 32)) 1)) ∧
    (met = false → s.timedOut = true → exec i s = .next (s.thaw.plusResult .e d (BitVec.ofNat 64 (high * 2 ^ 32 + 1)) 1)) ∧
    (met = false → s.timedOut = false → ∃ t w, exec i s = .next t ∧ t.core.frz.line = true ∧ t.core.frz.cls = .wait ∧
      t.core.ctr.frzCyc = s.core.ctr.frzCyc + 1 ∧ t.core.ccyc = s.core.ccyc + 1 ∧ t.core.icyc = s.core.icyc ∧ t.core.wait = some w ∧
      (s.core.wait = none → w.bound = bound ∧ w.elapsed = 1) ∧ (∀ v, s.core.wait = some v → w.bound = v.bound ∧ w.elapsed = v.elapsed + 1) ∧
      t.core.ctx = s.core.ctx ∧ t.core.trap = s.core.trap ∧ SameBytes s t)) ∧
  (∀ (s : State) (w : Wait) (i : Instr),
    i = .cbWaitTimeout ∨ i = .tlWaitTimeout ∨ i = .boWaitTimeout ∨ i = .arrWaitTimeout ∨ i = .termWaitTimeout ∨ i = .barTimeout →
    s.core.wait = some w → w.boundM = 0 →
    ∃ t, exec i s = .next t ∧ SameRegs s t ∧ SameBytes s t ∧
      (i ≠ .barTimeout → w.bound = 0 → t = s) ∧
      (i ≠ .barTimeout → w.bound ≠ 0 → w.elapsed ≤ w.bound → t.timedOut = true ∧ t.core.ccyc = s.core.ccyc + (w.bound - w.elapsed) ∧
        t.core.ctr.frzCyc = s.core.ctr.frzCyc + BitVec.ofNat 64 (w.bound - w.elapsed) ∧ t.core.ctx = s.core.ctx) ∧
      (i = .barTimeout → s.core.bar = none ∨ w.bound = 0 → t = s) ∧
      (i = .barTimeout → w.bound ≠ 0 → ∀ lvl num, s.core.bar = some (lvl, num) → t.core.bar = none ∧ t.core.wait = none ∧ t.core.frz.line = false ∧
        t.bars = s.bars ∧ ∀ p ∈ s.core.ctx.fl.pend, p.unit = some num → { p with val := 1, unit := none } ∈ t.core.ctx.fl.pend))

/-- 07 R170, 10 R254: `cb.rd` lands the slot addresses of a descriptor, its pointers and counts, or the trailer of the slot made visible
last; `tl.rd` lands the timeline's value. 10 R255: `tl.pub` leaves as a compared command with its place and value and changes no byte;
its write takes place when the timeline has come to its value and the accesses issued before it are performed: eight bytes, and no other
byte but those of an OFF bank; while no timeline has come to a publication nothing is written. That the write takes place at once when it may, after the accesses of its own bundle, is the model's
reading (log 37). -/
def Obligations.TimelinesAndPublications : Prop :=
  (∀ (s : State) (d : Reg) (cb : BitVec 4) (k : BitVec 8) (u : Tl),
    let c := Tab.get {} s.core.ctx.cb cb.toNat
    let slot := fun (p : Nat) => c.base + p % (c.nslot + 1) * (64 * c.slotsz + 64 * ((c.trl + 63) / 64))
    (s.admits (.cbRd d cb 0 k) →
      exec (.cbRd d cb 0 k) s = .next (s.begun.plusResult .e d (BitVec.ofNat 64 (c.handle * 2 ^ 52 + slot (c.cptr + k.toNat))) 2)) ∧
    (s.admits (.cbRd d cb 1 k) →
      exec (.cbRd d cb 1 k) s = .next (s.begun.plusResult .e d (BitVec.ofNat 64 (c.handle * 2 ^ 52 + slot (c.pptr + k.toNat))) 2)) ∧
    (s.admits (.cbRd d cb 2 k) → exec (.cbRd d cb 2 k) s = .next (s.begun.plusResult .e d (BitVec.ofNat 64
      (c.pptr + c.vptr * 2 ^ 9 + c.cptr * 2 ^ 18 + c.fptr * 2 ^ 27 + c.kptr * 2 ^ 36 + (if c.ph then 1 else 0) * 2 ^ 45 + c.npend * 2 ^ 46 +
        c.nslot * 2 ^ 49)) 2)) ∧
    (s.admits (.cbRd d cb 3 k) → ∃ p, exec (.cbRd d cb 3 k) s = .next (s.begun.plusResult .e d (BitVec.ofNat 64
      (haAdd (c.handle * 2 ^ 52 + slot p) (64 * c.slotsz))) 2) ∧ (p + 1) % (c.nslot + 1) = c.vptr % (c.nslot + 1)) ∧
    (s.admits (.tlRd u d) → exec (.tlRd u d) s = .next (s.begun.plusResult .e d (BitVec.ofNat 64 (s.core.ctx.tl u).value) 2))) ∧
  (∀ (s : State) (u : Tl) (a b : Reg) (p : Pub) (rest : List Pub),
    (s.admits (.tlPub u a b) → ∃ t, exec (.tlPub u a b) s = .next t ∧ Sent s t (.tlPub u a b)) ∧
    ((s.core.ctx.tl u).pubs = p :: rest → p.val.toNat ≤ (s.core.ctx.tl u).value →
      (∀ n ∈ (s.core.ctx.tl u).bad, n ≤ p.low ∨ p.val.toNat < n) → (∀ l ∈ s.core.leases, p.bundle < l.bundle) →
      (∀ d ∈ s.core.defers, accesses d.ins = false ∨ p.bundle < d.bundle) → p.durable = false →
      ∃ t, exec (.publicationWrite u) s = .next t ∧ SameRegs s t ∧
        ∀ k, t.rd1 k = s.afterStore (keysFrom p.key 8) (leBytes p.val.toNat 8) k) ∧
    ((∀ x ∈ s.core.contexts, ∀ q ∈ (x.tl u).livePubs, (x.tl u).value < q.val.toNat) → exec (.publicationWrite u) s = .next s))

/-- 08 R184, R197 to R201; 09 R216, R223 to R226; 13 R345; 02 R48: the commands of the engines leave with their operands; `mm`, a copy and
each issuing word of a patch pair take the next number of their timeline, a copy lands it in its register, and a load takes the places
of its image along. 04 R81, R88; 09 R221; 11 R286; 12 R316 to R321; 13 R346 to R352; 14 R361; 15 R375; 16 R401: a command to a unit
leaves with its operands, and its register awaits the answer; `seg.unpin` and `fe.set` have none, `dm.set` writes its mask without the
core's own bit, which is always one, and `bar` begins the core's wait. -/
def Obligations.CommandsIssue : Prop :=
  (∀ (s : State) (i : Instr) (t6 : BitVec 6) (keep ver ph : Bool) (d a b c : Reg) (f : CpFlags) (cb n4 : BitVec 4) (off : BitVec 16)
    (e : Eng) (first n5 : BitVec 5) (hi lo : PatchWord),
    let x := s.core.ctx
    let words := (if hi.issue then [hi.eng.toNat] else []) ++ (if lo.issue then [lo.eng.toNat] else [])
    i = .mm t6 keep a b c ∨ i = .cp f cb d a b c ∨ i = .cpM ver ph cb off d a b c ∨ i = .cp2d f t6 cb d a b c ∨ i = .gat f t6 cb d a b c ∨
      i = .sca f t6 cb d a b c ∨ i = .mtLd e t6 a ∨ i = .ftLd first n5 a ∨ i = .epLd t6 n5 a ∨ i = .atMask n4 a ∨ i = .patchPair hi lo →
    s.admits i →
    ∃ t m, exec i s = .next t ∧ Sent s t i ∧ t.core.ctx.cmds = insertCmd m x.cmds ∧ m.ins = i ∧ m.serial = s.nextSerial ∧
      (i = .mm t6 keep a b c → m.nums = [x.tlMe.issued + 1] ∧ t.core.ctx.tlMe.issued = x.tlMe.issued + 1 ∧ t.core.ctx.fl = x.fl) ∧
      (i = .cp f cb d a b c ∨ i = .cpM ver ph cb off d a b c ∨ i = .cp2d f t6 cb d a b c ∨ i = .gat f t6 cb d a b c ∨
          i = .sca f t6 cb d a b c →
        m.nums = [x.tlCe.issued + 1] ∧ t.core.ctx.tlCe.issued = x.tlCe.issued + 1 ∧
          t.core.ctx.fl.pend = s.withResult d (s.resultOf .e d (BitVec.ofNat 64 (x.tlCe.issued + 1)) 2 none)) ∧
      (i = .mtLd e t6 a ∨ i = .epLd t6 n5 a → m.keys = (s.access (s.arg i 0).toNat 64 true false [spP, spD]).keys ∧ t.core.ctx.fl = x.fl) ∧
      (i = .ftLd first n5 a →
        m.keys = (s.access (s.arg i 0).toNat (32 * (n5.toNat + 1)) true false [spP, spD]).keys ∧ t.core.ctx.fl = x.fl) ∧
      (i = .atMask n4 a → m.keys = (s.access (s.arg i 0).toNat 2112 true false [spP, spD]).keys ∧ t.core.ctx.fl = x.fl) ∧
      (i = .patchPair hi lo →
        t.core.ctx.tlMe.issued = x.tlMe.issued + words.countP (· == 0) ∧ t.core.ctx.tlCe.issued = x.tlCe.issued + words.countP (· == 3) ∧
          t.core.ctx.tlAt.issued = x.tlAt.issued + words.countP (fun w => w == 1 || w == 2) ∧ m.nums.length = words.length ∧
          t.core.ctx.fl = x.fl)) ∧
  (∀ (s : State) (i : Instr) (lvl : Level) (d a b : Reg),
    let v := (s.arg i 0).toNat
    s.admits i →
    (∀ L, answered i = some (d, L) → ∃ t, exec i s = .next t ∧ Sent s t i ∧ t.core.ctx.tlMe = s.core.ctx.tlMe ∧
      t.core.ctx.csr = s.core.ctx.csr ∧ t.core.ctx.fl.pend = s.withResult d (s.resultOf .e d 0 L (some s.nextSerial))) ∧
    (i = .segUnpin a ∨ i = .feSetFull a ∨ i = .feSetEmpty a →
      ∃ t, exec i s = .next t ∧ Sent s t i ∧ t.core.ctx.fl = s.core.ctx.fl ∧ t.core.ctx.csr = s.core.ctx.csr) ∧
    (i = .dmSet lvl a → ∃ t, exec i s = .next t ∧ Sent s t i ∧ t.core.ctx.fl = s.core.ctx.fl ∧ t.bars = s.bars ∧
      t.core.ctx.csr = (match lvl with
        | .clus => { s.core.ctx.csr with dmbClus := v - if v.testBit (s.cix % 8) then 2 ^ (s.cix % 8) else 0 }
        | .die => { s.core.ctx.csr with dmbDie := v - if v.testBit (s.cix % 48) then 2 ^ (s.cix % 48) else 0 }
        | .mod => { s.core.ctx.csr with dmbMod := v })) ∧
    (i = .bar lvl d b → ∃ t, exec i s = .next t ∧ Sent s t i ∧ t.core.wait = some { bound := v } ∧ t.bars = s.bars ∧
      t.core.bar = some ((match lvl with
        | .clus => 0
        | .die => 1
        | .mod => 2), s.nextSerial) ∧
      t.core.ctx.fl.pend = s.withResult d (s.resultOf .e d 0 1 (some s.nextSerial))))

/-- 08 R181, R184, R198; 09 R216; 10 R255; 09 R207; 07 R171: the oldest command that has come to its front is applied and goes: an issue
enters the queue of its engine with its number and phase, a handle command writes its entry, a publication joins its timeline, and the
marker of a phase reaches the ME. When a command has come to its front, and the marker, are the model's readings (log 40, 41, 43). -/
def Obligations.FrontsApplyCommands : Prop :=
  ∀ (s : State) (m : Cmd) (t6 : BitVec 6) (keep : Bool) (a b c d : Reg) (f : CpFlags) (cb : BitVec 4) (u : Tl) (mask : BitVec 16),
    let x := s.core.ctx
    let v := fun (k : Nat) => m.caps.getD k 0
    s.applies m →
    ∃ t, exec .engineFrontApply s = .next t ∧
      (m.ins = .mm t6 keep a b c → SameRegs s t ∧ SameBytes s t ∧ (∀ o ∈ t.core.ctx.cmds, o.serial ≠ m.serial) ∧
        ∃ op, t.core.ctx.meq = x.meq ++ [op] ∧ op.num = m.nums.headD 0 ∧ op.phase = m.phase ∧
          (v 2 ++ v 1 ++ v 0 : BitVec 192) = op.tmpl.setWidth 192 ∧
          op.tmpl.extractLsb' 192 320 = (Tab.get 0 x.tmpl t6.toNat).extractLsb' 192 320 ∧
          (keep = false → t.core.ctx.tmpl = x.tmpl) ∧ (keep = true → Tab.get 0 t.core.ctx.tmpl t6.toNat = op.tmpl)) ∧
      (m.ins = .cp f cb d a b c → SameRegs s t ∧ SameBytes s t ∧ (∀ o ∈ t.core.ctx.cmds, o.serial ≠ m.serial) ∧
        ∃ k, t.core.copies = s.core.copies ++ [k] ∧ k.num = m.nums.headD 0 ∧ k.phase = m.phase ∧ k.owner = x.cid ∧ k.pos = 0 ∧
          k.park = none) ∧
      (m.ins = .hset a b → SameRegs s t ∧ SameBytes s t ∧ (s.core.holdCmd = some m.serial → t.core.holdCmd = none) ∧
        t.hEnt s.station s.part ((v 0).toNat % 4096) = (m.ent.headD (0, 0)).2 ∧
        (s.part < 4 → ∀ st p h, p < 4 → h < 4096 → ¬(st = s.station ∧ p = s.part ∧ h = (v 0).toNat % 4096) → t.hEnt st p h = s.hEnt st p h)) ∧
      (m.ins = .hinv a → SameRegs s t ∧ SameBytes s t ∧ hValid (t.hEnt s.station s.part ((v 0).toNat % 4096)) = false ∧
        ∀ i, i ≠ 131 → (t.hEnt s.station s.part ((v 0).toNat % 4096)).getLsbD i = (s.hEnt s.station s.part ((v 0).toNat % 4096)).getLsbD i) ∧
      (m.ins = .tlPub u a b → SameRegs s t ∧ SameBytes s t ∧ ∃ p, (t.core.ctx.tl u).pubs = (x.tl u).pubs ++ [p] ∧ p.val = v 1 ∧ p.key = m.keys.headD 0 ∧
        p.low = m.nums.headD 0 ∧ p.phase = m.phase ∧ p.bundle = m.bundle) ∧
      (m.ins = .cbRel mask → SameRegs s t ∧ SameBytes s t ∧ t.core.ctx.meCut = true)

/-- 13 R325, R346 to R349, R352: what the KV units do with a command and answer: a sequence is allocated with length 0, or refused and
counted; references of a page are counted; a lookup of 0xFFFFFFFF answers both lengths; a key that is not in the index is not found.
Which free sequence is taken is a free value (log 58). -/
def Obligations.KvCommandsTakeEffect : Prop :=
  ∀ (s : State) (m : Cmd) (d a b : Reg) (g : BitVec 6),
    let k := s.kvp s.station s.part
    let p := (m.caps.getD 0 0).toNat
    s.applies m →
    ∃ t, exec .engineFrontApply s = .next t ∧
      (let k' := t.kvp s.station s.part
       (m.ins = .kvAlloc d → (∀ i < k.nseq, k.seq i ≠ none) → Answered s t m 1 ∧ k' = { k with kvfailN := k.kvfailN + 1 }) ∧
       (m.ins = .kvAlloc d → (∃ i < k.nseq, k.seq i = none) → ∃ i, i < k.nseq ∧ k.seq i = none ∧ k'.seq i = some {} ∧
         (∀ j, j ≠ i → k'.seq j = k.seq j) ∧ k'.hdr = k.hdr ∧ Answered s t m (i + 2 ^ 16)) ∧
       (m.ins = .kvRef d a ∨ m.ins = .kvFree d a → 2 ^ 24 ≤ p ∨ k.isPage p = false ∨ pRef (k.h p) = 0 → k' = k ∧ Answered s t m 1) ∧
       (m.ins = .kvRef d a → p < 2 ^ 24 → k.isPage p = true → pRef (k.h p) = 65535 → k' = k ∧ Answered s t m 2) ∧
       (m.ins = .kvRef d a → p < 2 ^ 24 → k.isPage p = true → 0 < pRef (k.h p) → pRef (k.h p) < 65535 →
         pRef (k'.h p) = pRef (k.h p) + 1 ∧ pVer (k'.h p) = (pVer (k.h p) + 1) % 2 ^ 32 ∧ (∀ q, q ≠ p → k'.h q = k.h q) ∧ k'.seqs = k.seqs ∧
           Answered s t m 0) ∧
       (m.ins = .kvFree d a → p < 2 ^ 24 → k.isPage p = true → 0 < pRef (k.h p) →
         pRef (k'.h p) = pRef (k.h p) - 1 ∧ (∀ q, q ≠ p → k'.h q = k.h q) ∧ k'.seqs = k.seqs ∧ Answered s t m 0) ∧
       (m.ins = .kvLk d a b g → m.caps.getD 1 0 = 0xFFFFFFFF → p < 2 ^ 16 → k' = k ∧ ∀ q pol, k.seq p = some q →
         s.pol s.station s.part g.toNat = some pol → Answered s t m (q.clen * 2 ^ 32 + Tab.get 0 q.app g.toNat)) ∧
       (m.ins = .kvLk d a b g → 2 ^ 16 ≤ p ∨ k.seq p = none → k' = k ∧ Answered s t m 0) ∧
       (m.ins = .pfxFindDrop d b g → s.pfxEnt s.station s.part g.toNat (m.caps.getD 0 0) = none → k' = k ∧ Answered s t m 1))

/-- 12 R303 to R306, R317, R319, R320; 11 R286: what the scheduler and the station do with a command and answer: OPEN counts between 0 and
65535, a list gives its oldest item and all ones once it is empty, a request operation is refused with 1 where the entry's state or
partition does not allow it, and an unpin drops the pins of its slot. 14 R357, R360 to R362; 15 R375: the ballot unit opens a free group
with its quorum, refuses one in use, closes one of the partition, refuses posts without one, and answers 5 to the replay of a post; the
governor refuses sizes and
frequencies out of range with 1, and posts a frequency floor. The order of the codes is the model's reading (log 69). -/
def Obligations.UnitCommandsTakeEffect : Prop :=
  (∀ (s : State) (m : Cmd) (d a b : Reg),
    let p := s.dpart s.station s.part
    let v := (m.caps.getD 0 0).toNat
    let e := (s.die s.station).req (v % 256)
    s.applies m →
    ∃ t, exec .engineFrontApply s = .next t ∧
      (let p' := t.dpart s.station s.part
       (m.ins = .termOpen d → if p.open_ = 65535 then Answered s t m 1 ∧ p' = p else Answered s t m 0 ∧ p' = { p with open_ := p.open_ + 1 }) ∧
       (m.ins = .termClose d → if p.open_ = 0 then Answered s t m 1 ∧ p' = p else Answered s t m 0 ∧ p'.open_ = p.open_ - 1) ∧
       (m.ins = .cmpTake d a → (s.die s.station).listOf s.part (v % 65536) = none → Answered s t m (2 ^ 64 - 1) ∧ t.dies = s.dies) ∧
       (∀ l x xs, m.ins = .cmpTake d a → (s.die s.station).listOf s.part (v % 65536) = some l → l.items = x :: xs → Answered s t m x ∧
         (xs = [] → (t.die s.station).listOf s.part (v % 65536) = none) ∧
         (xs ≠ [] → ∃ l', (t.die s.station).listOf s.part (v % 65536) = some l' ∧ l'.items = xs)) ∧
       ((m.ins = .rqNextAdv d a b ∨ m.ins = .rqNextDone d a b) ∧ (e.part ≠ s.part ∨ (e.state ≠ 1 ∧ e.state ≠ 2)) ∨
           m.ins = .rqNextSusp d a b ∧ (e.part ≠ s.part ∨ e.state ≠ 1) ∨ m.ins = .rqNextResume d a b ∧ (e.part ≠ s.part ∨ e.state ≠ 3) ∨
           m.ins = .rqNextRelease d a b ∧ (e.part ≠ s.part ∨ (e.state ≠ 4 ∧ e.state ≠ 5)) →
         Answered s t m 1 ∧ t.dies = s.dies) ∧
       (m.ins = .segUnpin a → ∀ q ∈ t.core.ctx.pins, q ∈ s.core.ctx.pins ∧ ∃ r, q.2 = some r ∧ r.slot ≠ m.slot s.station))) ∧
  (∀ (s : State) (m : Cmd) (d a b : Reg) (sel : BitVec 4),
    let u := (m.caps.getD 0 0).toNat
    let v := (m.caps.getD 1 0).toNat
    let x := (s.die s.station).group (u % 64)
    s.applies m →
    ∃ t, exec .engineFrontApply s = .next t ∧
      (let x' := (t.die s.station).group (u % 64)
       (m.ins = .bltOpen d a b → 64 ≤ u ∨ 4096 ≤ v ∨ v % 64 = 0 ∨ 32 < v % 64 ∨ v % 64 < v / 64 → Answered s t m 2 ∧ t.dies = s.dies) ∧
       (m.ins = .bltOpen d a b → u < 64 → v < 4096 → 0 < v % 64 → v % 64 ≤ 32 → v / 64 ≤ v % 64 → x.state ≠ 0 →
         Answered s t m 1 ∧ t.dies = s.dies) ∧
       (m.ins = .bltOpen d a b → u < 64 → v < 4096 → 0 < v % 64 → v % 64 ≤ 32 → v / 64 ≤ v % 64 → x.state = 0 →
         Answered s t m 0 ∧ x' = { n := v % 64, q := if v / 64 = 0 then v % 64 / 2 + 1 else v / 64, state := 1, part := s.part }) ∧
       (m.ins = .bltPost d a b → 256 ≤ u ∨ ((s.die s.station).req (u % 256)).state = 0 ∨ ((s.die s.station).req (u % 256)).part ≠ s.part ∨
           63 < ((s.die s.station).req (u % 256)).sibg → Answered s t m 4 ∧ t.dies = s.dies) ∧
       (m.ins = .bltPost d a b → u < 256 → ((s.die s.station).req u).state ≠ 0 → ((s.die s.station).req u).part = s.part →
         ((s.die s.station).req u).sibg ≤ 63 →
         (let y := (s.die s.station).group ((s.die s.station).req u).sibg
          y.state ≠ 0 → y.part = s.part → u ∈ y.posted → s.core.ctx.replays u = true → Answered s t m 5 ∧ t.dies = s.dies)) ∧
       (m.ins = .bltRead d a sel → x.state = 0 ∨ x.part ≠ s.part → Answered s t m 0 ∧ t.dies = s.dies) ∧
       (m.ins = .bltClose d a → x.state = 0 ∨ x.part ≠ s.part → Answered s t m 1 ∧ t.dies = s.dies) ∧
       (m.ins = .bltClose d a → x.state ≠ 0 → x.part = s.part → Answered s t m 0 ∧ x'.state = 0) ∧
       (m.ins = .govRes d a → u = 0 ∨ 256 < u → Answered s t m 1 ∧ t.clusters = s.clusters ∧ t.core.ctx.gov = s.core.ctx.gov) ∧
       (m.ins = .govBallast d a → 320 < u → Answered s t m 1 ∧ t.clusters = s.clusters ∧ t.core.ctx.gov = s.core.ctx.gov) ∧
       (m.ins = .govBallast d a → u ≤ 320 → Answered s t m 0 ∧ t.core.ctx.gov = { s.core.ctx.gov with bfloor := u }) ∧
       (m.ins = .opReq d a → 2048 ≤ u ∨ (u ≠ 0 ∧ (u < 400 ∨ 1600 < u ∨ u % 25 ≠ 0)) → Answered s t m 1 ∧ t.clusters = s.clusters) ∧
       (m.ins = .opReq d a → u = 0 ∨ (400 ≤ u ∧ u ≤ 1600 ∧ u % 25 = 0) → Answered s t m 0 ∧
         t.core.ctx.gov = { s.core.ctx.gov with opfloor := u })))

/-- 03 R58, R59, R68, R70: the one rounding of FP32 and BF16 gives, in each mode, the value that IEEE 754-2019 gives: the nearest of the finite
values, on a tie the even one, the nearest on the side of the mode, or infinity, which sat makes the largest finite value; NaN is
canonical. A sum and a product before it are exact; a zero sum has the sign of the mode. 03 R63, R64: the rounding RNE to M8 takes the
nearest magnitude, on a tie the even code, or of two codes alike the smaller magnitude. -/
def Obligations.FloatRounding : Prop :=
  (∀ (f : Fmt) (rnd : Rnd) (sat neg : Bool) (n d m : Nat) (e : Int), f = fp32 ∨ f = bf16 →
    (0 < n → 0 < d → f.RoundsTo rnd sat neg n d (f.encRat rnd sat neg n d).1) ∧
    (0 < m → f.RoundsTo rnd sat neg (m * 2 ^ e.toNat) (2 ^ (-e).toNat) (f.bits rnd sat (.fin neg m e))) ∧
    f.bits rnd sat (.fin neg 0 e) = f.withSign neg 0 ∧ f.bits rnd sat .nan = f.nanBits ∧
    f.bits rnd sat (.inf neg) = f.withSign neg (if sat then f.maxBits else f.infBits) ∧
    (∀ z, f.isFin z → f.bits rnd sat (f.dec z) = z)) ∧
  (∀ (rnd : Rnd) (na nb : Bool) (ma mb : Nat) (ea eb : Int),
    (∃ n m e, Fl.add rnd (.fin na ma ea) (.fin nb mb eb) = .fin n m e ∧
      (m ≠ 0 → e = min ea eb ∧ Fl.scaled n m e (min ea eb) = Fl.scaled na ma ea (min ea eb) + Fl.scaled nb mb eb (min ea eb)) ∧
      (m = 0 → Fl.scaled na ma ea (min ea eb) + Fl.scaled nb mb eb (min ea eb) = 0 ∧
        n = if ma = 0 ∧ mb = 0 ∧ na = nb then na else decide (rnd = .rdn))) ∧
    Fl.mul (.fin na ma ea) (.fin nb mb eb) = .fin (na != nb) (ma * mb) (ea + eb) ∧
    Fl.add rnd (.inf na) (.inf (!na)) = .nan ∧ Fl.mul (.inf na) (.fin nb 0 eb) = .nan) ∧
  (∀ (neg : Bool) (n d c : Nat), 0 < n → 0 < d → n * 2 ^ 11 ≤ 2 ^ 21 * d → (m8EncRat .rne true neg n d).1 % 128 = c →
    (c ≠ 0 → (m8EncRat .rne true neg n d).1 / 128 = if neg then 1 else 0) ∧
    ∀ b ∈ m8Codes, (((m8Mag c * d : Nat) : Int) - ((n * 2 ^ 11 : Nat) : Int)).natAbs ≤ (((m8Mag b * d : Nat) : Int) - ((n * 2 ^ 11 : Nat) : Int)).natAbs ∧
      ((((m8Mag b * d : Nat) : Int) - ((n * 2 ^ 11 : Nat) : Int)).natAbs = (((m8Mag c * d : Nat) : Int) - ((n * 2 ^ 11 : Nat) : Int)).natAbs → b ≠ c →
        (c % 2 = 0 ∧ b % 2 = 1) ∨ (c % 2 = b % 2 ∧ m8Mag c < m8Mag b)))

/-- 06 R128 to R136: every operation of slot V that is not stopped takes the next number of tl.vp and puts results in flight that are due
after its latency; the registers keep their values, but that `da` ends the life of its source, and no byte of memory changes. -/
def Obligations.VectorOperationsIssue : Prop :=
  ∀ (s : State) (i : Instr) (v : VArgs) (u : VUse), vUse i = some (v, u) → s.vready i →
    ∃ t l, exec i s = .next t ∧ t.core.ctx.fl.pend = s.core.ctx.fl.pend ++ l ∧
      (∀ p ∈ l, p.slot = .v ∧ p.iat = s.core.icyc ∧ p.due = s.core.icyc + vLat i ∧ p.vpn = s.core.ctx.tlVp.issued + 1 ∧
        (p.dst.file = .v ∨ p.dst.file = .p)) ∧
      t.core.ctx.tlVp.issued = s.core.ctx.tlVp.issued + 1 ∧ t.core.ctx.tlVp.value = s.core.ctx.tlVp.value ∧
      t.core.ctx.f = s.core.ctx.f ∧ t.core.trap = s.core.trap ∧ t.core.icyc = s.core.icyc ∧
      t.core.ctx.r = { s.core.ctx.r with live := t.core.ctx.r.live } ∧ (v.da = false → t.core.ctx.r = s.core.ctx.r) ∧ SameBytes s t

/-- 06 R129, R130, R138, R139: the integer results of slot V, element by element: exact and then wrapped or clamped; shifts by the width or
more give 0 or the sign; each result writes the elements of its predicate. -/
def Obligations.VectorIntegerResults : Prop :=
  ∀ (s : State) (i : Instr) (v : VArgs) (r c j : Nat) (e : Int),
    let w := v.ty.width
    let n := 16 * r + c
    let x := s.vsrc 1 (v.a.toNat + n)
    let y := s.vsrc 2 (v.b.toNat + n)
    let a := laneInt v.ty x j
    let b := laneInt v.ty y j
    let k := elem w y j
    (v.ty.isI = true ∧ i = .vadd v ∧ e = a + b) ∨ (v.ty.isI = true ∧ i = .vsub v ∧ e = a - b) ∨ (v.ty.isI = true ∧ i = .vmul v ∧ e = a * b) ∨
      (v.ty.isI = true ∧ i = .vmin v ∧ e = min a b) ∨ (v.ty.isI = true ∧ i = .vmax v ∧ e = max a b) ∨
      (v.ty.isSI = true ∧ i = .vabs v ∧ e = a.natAbs) ∨ (v.ty.isSI = true ∧ i = .vneg v ∧ e = -a) ∨
      (v.ty.isI = true ∧ v.sat = false ∧ i = .vshl v ∧ e = if w ≤ k then 0 else elem w x j * 2 ^ k) ∨
      (v.ty.isI = true ∧ v.sat = false ∧ i = .vshr v ∧ e = if w ≤ k then 0 else (elem w x j / 2 ^ k : Nat)) ∨
      (v.ty.isSI = true ∧ v.sat = false ∧ i = .vsar v ∧ e = if w ≤ k then (if a < 0 then -1 else 0) else a / ((2 ^ k : Nat) : Int)) ∨
      (v.sat = false ∧ i = .vand v ∧ e = (elem w x j &&& k : Nat)) ∨ (v.sat = false ∧ i = .vor v ∧ e = (elem w x j ||| k : Nat)) ∨
      (v.sat = false ∧ i = .vxor v ∧ e = (elem w x j ^^^ k : Nat)) ∨ (v.sat = false ∧ i = .vnot v ∧ e = -1 - elem w x j) ∨
      (v.sat = false ∧ i = .vmov v ∧ e = elem w x j) ∨
      (v.sat = false ∧ i = .vsel v ∧ e = if (s.rp (srcTag .v 10) v.c.toNat).getLsbD j then elem w x j else k) →
    s.vready i → r < v.hN → c < v.wN → j < 512 / w →
    ∃ t, exec i s = .next t ∧ Lands s t i (v.d.toNat + n) (fun z m =>
      elem w z j = laneOf v.ty v.sat e ∧ masksBy w (s.rp (srcTag .v 4) v.pred.toNat) m)

/-- 06 R140, R144, R145, R151: comparisons of integers and the operations on predicates write predicates; `vbcast`, `vperm`, `vext` and
`vins` move elements, `ppopc` counts, an integer sum reduces a row modulo the width, and every reduction joins the elements of a row in a
balanced tree (R144). -/
def Obligations.VectorMovesAndPredicates : Prop :=
  ∀ (s : State) (i : Instr) (v : VArgs) (op : CmpOp) (r c j : Nat),
    let w := v.ty.width
    let n := 16 * r + c
    let x := s.vsrc 1 (v.a.toNat + n)
    let y := s.vsrc 2 (v.b.toNat + n)
    let m := s.rp (srcTag .v 4) v.pred.toNat
    let pa := s.rp (srcTag .v 8) v.a.toNat
    let pb := s.rp (srcTag .v 9) v.b.toNat
    let sb := (s.rs (srcTag .v 6) (v.b.setWidth 6)).toNat
    let sc := (s.rs (srcTag .v 7) (v.c.setWidth 6)).toNat
    s.vready i → r < v.hN → c < v.wN → j < 512 / w →
    (i = .vcmp op v → v.ty.isI = true → v.d.toNat + (r * v.wN + c) ≠ 0 → ∃ t, exec i s = .next t ∧ ∃ p ∈ t.core.ctx.fl.pend,
      p.dst = ⟨.p, physP s.core.ctx.f (v.d.toNat + (r * v.wN + c))⟩ ∧ p.iat = s.core.icyc ∧ p.due = s.core.icyc + vLat i ∧
      p.val.getLsbD j = (m.getLsbD j && (match op with
        | .eq => decide (laneInt v.ty x j = laneInt v.ty y j)
        | .ne => decide (laneInt v.ty x j ≠ laneInt v.ty y j)
        | .lt => decide (laneInt v.ty x j < laneInt v.ty y j)
        | .le => decide (laneInt v.ty x j ≤ laneInt v.ty y j)
        | .gt => decide (laneInt v.ty y j < laneInt v.ty x j)
        | .ge => decide (laneInt v.ty y j ≤ laneInt v.ty x j))) ∧
      (∀ k < 64, 512 / w ≤ k → p.val.getLsbD k = false)) ∧
    (v.d ≠ 0 → ∀ z : Word, (i = .pand v ∧ z = pa &&& pb) ∨ (i = .por v ∧ z = pa ||| pb) ∨ (i = .pxor v ∧ z = pa ^^^ pb) ∨
        (i = .pnot v ∧ z = ~~~pa) → ∃ t, exec i s = .next t ∧ ∃ p ∈ t.core.ctx.fl.pend,
      p.dst = ⟨.p, physP s.core.ctx.f v.d.toNat⟩ ∧ p.iat = s.core.icyc ∧ p.due = s.core.icyc + vLat i ∧ p.val = z.setWidth 512) ∧
    (∀ z : Nat, (i = .vbcast v ∧ z = (s.rs (srcTag .v 5) (v.a.setWidth 6)).toNat % 2 ^ w) ∨
        (i = .vperm v ∧ z = elem w x (elem w y j % (512 / w))) ∨
        (i = .vext v ∧ z = if j + sc % (512 / w) < 512 / w then elem w x (j + sc % (512 / w)) else elem w y (j + sc % (512 / w) - 512 / w)) ∨
        (i = .vins v ∧ z = if j = sc % (512 / w) then sb % 2 ^ w else elem w x j) ∨
        (i = .ppopc v ∧ z = ((List.range 64).countP (fun k => pa.getLsbD k)) % 2 ^ w) →
      ∃ t, exec i s = .next t ∧ Lands s t i (v.d.toNat + n) (fun q mk => elem w q j = z ∧ masksBy w m mk)) ∧
    (i = .vred .sum v → v.ty.isI = true → v.sat = false → ∃ t, exec i s = .next t ∧ Lands s t i (v.d.toNat + 16 * r) (fun q _ =>
      elem w q 0 = ((List.range v.wN).map (fun c => ((List.range (512 / w)).map (fun k =>
        if m.getLsbD k then elem w (s.vsrc 1 (v.a.toNat + 16 * r + c)) k else 0)).foldl (· + ·) 0)).foldl (· + ·) 0 % 2 ^ w ∧
      ∀ k, 0 < k → k < 512 / w → elem w q k = 0)) ∧
    (∀ (rop : RedOp) (k : Nat), i = .vred rop v → v.ty.isI = true ∨ v.ty.isF = true → v.wN * (512 / w) ≤ 2 ^ k →
      (∀ l < k, 2 ^ l < v.wN * (512 / w)) →
      (let f := fmtOf v.ty
       let row := (List.range v.wN).map (fun c => s.vsrc 1 (v.a.toNat + 16 * r + c))
       let int := fun (e : Int) => laneOf v.ty v.sat e
       let ival := fun (z : Nat) => if signedTy v.ty then sextInt z w else (z : Int)
       let lo := if signedTy v.ty then 2 ^ (w - 1) else 0
       let hi := if signedTy v.ty then 2 ^ (w - 1) - 1 else 2 ^ w - 1
       let ident := match rop with
         | .sum => if v.ty.isF then f.withSign (decide (v.rnd ≠ .rdn)) 0 else 0
         | .max => if v.ty.isF then f.withSign true f.infBits else lo
         | .min => if v.ty.isF then f.infBits else hi
       let join := fun (x y : Nat) => match rop with
         | .sum => if v.ty.isF then f.bits v.rnd v.sat (Fl.add v.rnd (f.dec x) (f.dec y)) else int (ival x + ival y)
         | .max => if v.ty.isF then f.bits .rne false (Fl.max2 (f.dec x) (f.dec y)) else if ival x ≤ ival y then y else x
         | .min => if v.ty.isF then f.bits .rne false (Fl.min2 (f.dec x) (f.dec y)) else if ival x ≤ ival y then x else y
       ∃ t, exec i s = .next t ∧ Lands s t i (v.d.toNat + 16 * r) (fun q mk => mk = BitVec.allOnes 512 ∧
         elem w q 0 = balanced join (reduceLeaf w row m ident) k 0 ∧ ∀ k, 0 < k → k < 512 / w → elem w q k = 0)))

/-- 03 R59; 06 R138, R143: in FP32 a NaN operand gives the canonical NaN, and the functions have their special values. 03 R60, R68; 06 R138,
R140: in FP32 and BF16 a sum, a difference, a product, a fused product and a reciprocal are the exact value rounded once; the minimum and
the maximum take the operand that comes first or last, -0 before +0; `vabs` and `vneg` clear and flip the sign; comparisons order values,
the zeros alike, and with a NaN only ne holds. -/
def Obligations.VectorFloatResults : Prop :=
  (∀ (s : State) (i : Instr) (v : VArgs) (fop : FmaOp) (r c j z : Nat),
    let n := 16 * r + c
    let isNan := fun (q : Nat) => 0x7F800000 < q % 2 ^ 31
    let x := elem 32 (s.vsrc 1 (v.a.toNat + n)) j
    let y := elem 32 (s.vsrc 2 (v.b.toNat + n)) j
    let u := elem 32 (s.vsrc 3 (v.c.toNat + n)) j
    ((i = .vadd v ∨ i = .vsub v ∨ i = .vmul v ∨ i = .vmin v ∨ i = .vmax v) ∧ (isNan x ∨ isNan y) ∧ z = 0x7FC00000) ∨
      (i = .vfma fop v ∧ (isNan x ∨ isNan y ∨ isNan u) ∧ z = 0x7FC00000) ∨
      ((i = .vexp2 v ∨ i = .vlog2 v ∨ i = .vrcp v ∨ i = .vrsq v ∨ i = .vtanh v) ∧ isNan x ∧ z = 0x7FC00000) ∨
      (i = .vexp2 v ∧ v.sat = false ∧ ((x = 0xFF800000 ∧ z = 0) ∨ (x = 0x7F800000 ∧ z = 0x7F800000) ∨
        ((x = 0 ∨ x = 0x80000000) ∧ z = 0x3F800000))) ∨
      (i = .vlog2 v ∧ v.sat = false ∧ ((0x80000000 < x ∧ z = 0x7FC00000) ∨ ((x = 0 ∨ x = 0x80000000) ∧ z = 0xFF800000) ∨
        (x = 0x7F800000 ∧ z = 0x7F800000) ∨ (x = 0x3F800000 ∧ z = 0))) ∨
      (i = .vrcp v ∧ v.sat = false ∧ ((x = 0xFF800000 ∧ z = 0x80000000) ∨ (x = 0x80000000 ∧ z = 0xFF800000) ∨ (x = 0 ∧ z = 0x7F800000) ∨
        (x = 0x7F800000 ∧ z = 0))) ∨
      (i = .vrsq v ∧ v.sat = false ∧ ((0x80000000 < x ∧ z = 0x7FC00000) ∨ (x = 0x80000000 ∧ z = 0xFF800000) ∨ (x = 0 ∧ z = 0x7F800000) ∨
        (x = 0x7F800000 ∧ z = 0))) ∨
      (i = .vtanh v ∧ v.sat = false ∧ ((x = 0xFF800000 ∧ z = 0xBF800000) ∨ (x = 0x7F800000 ∧ z = 0x3F800000) ∨
        (x = 0x80000000 ∧ z = 0x80000000) ∨ (x = 0 ∧ z = 0))) →
    v.ty = .f32 → s.vready i → r < v.hN → c < v.wN → j < 16 →
    ∃ t, exec i s = .next t ∧ Lands s t i (v.d.toNat + n) (fun q m => elem 32 q j = z ∧ masksBy 32 (s.rp (srcTag .v 4) v.pred.toNat) m)) ∧
  (∀ (s : State) (i : Instr) (v : VArgs) (op : CmpOp) (r c j z : Nat),
    let n := 16 * r + c
    let w := v.ty.width
    let f := fmtOf v.ty
    let x := elem w (s.vsrc 1 (v.a.toNat + n)) j
    let y := elem w (s.vsrc 2 (v.b.toNat + n)) j
    let u := elem w (s.vsrc 3 (v.c.toNat + n)) j
    let m := s.rp (srcTag .v 4) v.pred.toNat
    let round := fun (q : Fl) => f.bits v.rnd v.sat q
    v.ty.isF = true → s.vready i → r < v.hN → c < v.wN → j < 512 / w →
    ((i = .vadd v ∧ z = round (Fl.add v.rnd (f.dec x) (f.dec y))) ∨ (i = .vsub v ∧ z = round (Fl.add v.rnd (f.dec x) (f.dec y).neg)) ∨
        (i = .vmul v ∧ z = round (Fl.mul (f.dec x) (f.dec y))) ∨
        (i = .vfma .fma v ∧ z = round (Fl.add v.rnd (Fl.mul (f.dec x) (f.dec y)) (f.dec u))) ∨
        (i = .vfma .fms v ∧ z = round (Fl.add v.rnd (Fl.mul (f.dec x) (f.dec y)) (f.dec u).neg)) ∨
        (i = .vfma .fnma v ∧ z = round (Fl.add v.rnd (Fl.mul (f.dec x) (f.dec y)).neg (f.dec u))) ∨
        (i = .vrcp v ∧ ∃ neg q e, f.dec x = .fin neg q e ∧ q ≠ 0 ∧ z = (f.encRat v.rnd v.sat neg (2 ^ (-e).toNat) (q * 2 ^ e.toNat)).1) ∨
        (i = .vmin v ∧ ¬f.isNan x ∧ ¬f.isNan y ∧ z = if floatKey w x ≤ floatKey w y then x else y) ∨
        (i = .vmax v ∧ ¬f.isNan x ∧ ¬f.isNan y ∧ z = if floatKey w x ≤ floatKey w y then y else x) ∨
        ((i = .vmin v ∨ i = .vmax v) ∧ (f.isNan x ∨ f.isNan y) ∧ z = f.nanBits) ∨
        (i = .vabs v ∧ z = if f.infBits < x % 2 ^ (w - 1) then f.nanBits else x % 2 ^ (w - 1)) ∨
        (i = .vneg v ∧ z = if f.infBits < x % 2 ^ (w - 1) then f.nanBits else (x + 2 ^ (w - 1)) % 2 ^ w) →
      ∃ t, exec i s = .next t ∧ Lands s t i (v.d.toNat + n) (fun q mk => elem w q j = z ∧ masksBy w m mk)) ∧
    (i = .vcmp op v → v.d.toNat + (r * v.wN + c) ≠ 0 → ∃ t, exec i s = .next t ∧ ∃ p ∈ t.core.ctx.fl.pend,
      p.dst = ⟨.p, physP s.core.ctx.f (v.d.toNat + (r * v.wN + c))⟩ ∧ p.iat = s.core.icyc ∧ p.due = s.core.icyc + vLat i ∧
      (f.isNan x ∨ f.isNan y → p.val.getLsbD j = (m.getLsbD j && decide (op = .ne))) ∧
      (¬f.isNan x → ¬f.isNan y → p.val.getLsbD j = (m.getLsbD j && (match op with
        | .eq => decide (floatOrder w x = floatOrder w y)
        | .ne => decide (floatOrder w x ≠ floatOrder w y)
        | .lt => decide (floatOrder w x < floatOrder w y)
        | .le => decide (floatOrder w x ≤ floatOrder w y)
        | .gt => decide (floatOrder w y < floatOrder w x)
        | .ge => decide (floatOrder w y ≤ floatOrder w x))))))

/-- 03 R69; 06 R142, R145 to R150: `vcvt` converts element g of a row, between integers, between float types, and from one to the other;
`vrot` turns a row, `vpack` narrows two registers into one, `vunpk` widens a half, `vdot` sums exact products into its lanes and rounds
once. `vquant` gives a block the scale of its largest magnitude and its codes under that scale, a NaN the scale 255, which `vdeq` reads as
NaN; `vdeq` rounds each scaled code. `vsmx` makes one step of the softmax, NaN where its row holds one. That integers of equal width are
clamped under sat, and that a wider integer is an extension whatever sat says, is the model's reading (log 119). -/
def Obligations.VectorWidthsAndDots : Prop :=
  (∀ (s : State) (i : Instr) (v : VArgs) (src : VTy) (r c j : Nat),
    let w := v.ty.width
    let L := 512 / w
    let x := s.vsrc 1 (v.a.toNat + 16 * r + c)
    let y := s.vsrc 2 (v.b.toNat + 16 * r + c)
    let u := s.vsrc 3 (v.c.toNat + 16 * r + c)
    let sb := (s.rs (srcTag .v 6) (v.b.setWidth 6)).toNat
    let m := s.rp (srcTag .v 4) v.pred.toNat
    let half : VTy := if v.ty = .s16 then .s8 else if v.ty = .n16 then .n8 else if v.ty = .s32 then .s16 else .n16
    let acc : VTy := if v.ty = .n8 then .n32 else .s32
    let isNan := fun (q : Nat) => 0x7F800000 < q % 2 ^ 31
    s.vready i → r < v.hN →
    (i = .vcvt src v → src.isI = true → v.ty.isI = true → c < (if w ≤ src.width then v.wN else v.wN * (w / src.width)) → j < L →
      ∃ t, exec i s = .next t ∧ Lands s t i (v.d.toNat + 16 * r + c) (fun z mk => masksBy w m mk ∧
        elem w z j = laneOf v.ty (v.sat && decide (w ≤ src.width)) (laneInt src (s.vsrc 1 (v.a.toNat + 16 * r + (c * L + j) / (512 / src.width))) ((c * L + j) % (512 / src.width))))) ∧
    (i = .vrot v → c < v.wN → j < L → ∃ t, exec i s = .next t ∧ Lands s t i (v.d.toNat + 16 * r + c) (fun z mk => masksBy w m mk ∧
      (let g := (c * L + j + sb) % (v.wN * L)
       elem w z j = elem w (s.vsrc 1 (v.a.toNat + 16 * r + g / L)) (g % L)))) ∧
    ((v.ty = .s16 ∨ v.ty = .n16 ∨ v.ty = .s32 ∨ v.ty = .n32) → c < v.wN →
      (i = .vpack v → j < 2 * L → ∃ t, exec i s = .next t ∧ Lands s t i (v.d.toNat + 16 * r + c) (fun z _ =>
        elem (w / 2) z j = laneOf half v.sat (if j < L then laneInt v.ty x j else laneInt v.ty y (j - L)))) ∧
      (i = .vunpk v → j < L → ∃ t, exec i s = .next t ∧ Lands s t i (v.d.toNat + 16 * r + c) (fun z mk => masksBy w m mk ∧
        elem w z j = laneOf v.ty false (laneInt half x (j + sb % 2 * L))))) ∧
    (i = .vdot v → v.ty = .s8 ∨ v.ty = .n8 ∨ v.ty = .s16 → c < v.wN → j < 16 → ∃ t, exec i s = .next t ∧
      Lands s t i (v.d.toNat + 16 * r + c) (fun z mk => masksBy 32 m mk ∧ elem 32 z j = laneOf acc v.sat
        (((List.range (32 / w)).map (fun k => laneInt v.ty x (32 / w * j + k) * laneInt v.ty y (32 / w * j + k))).foldl (· + ·) (laneInt acc u j)))) ∧
    (i = .vquant v → v.ty = .f32 → c < v.wN * 4 → j < 16 → m.getLsbD j = true → isNan (elem 32 x j) → ∃ t, exec i s = .next t ∧
      Lands s t i (v.c.toNat + 16 * r) (fun z _ => elem 8 z ((16 * c + j) / 32) = 255)) ∧
    (i = .vdeq v → v.ty = .f32 → c < v.wN * 4 → j < 16 → elem 8 (s.vsrc 3 (v.c.toNat + 16 * r)) ((16 * c + j) / 32) = 255 → ∃ t, exec i s = .next t ∧
      Lands s t i (v.d.toNat + 16 * r + c) (fun z mk => elem 32 z j = 0x7FC00000 ∧ masksBy 32 m mk)) ∧
    (i = .vsmx v → v.ty = .f32 → c < v.wN → j < 16 → m.getLsbD j = true → isNan (elem 32 x j) → ∃ t, exec i s = .next t ∧
      Lands s t i (v.d.toNat + 16 * r) (fun z _ => elem 32 z 0 = 0x7FC00000 ∧ elem 32 z 1 = 0x7FC00000 ∧ elem 32 z 2 = 0x7FC00000 ∧
        ∀ k, 3 ≤ k → k < 16 → elem 32 z k = 0))) ∧
  (∀ (s : State) (i : Instr) (v : VArgs) (src : VTy) (r c j : Nat),
    let w := v.ty.width
    let ws := src.width
    let L := 512 / w
    let f := fmtOf v.ty
    let g := c * L + j
    let x := s.vsrc 1 (v.a.toNat + 16 * r + c)
    let y := s.vsrc 2 (v.b.toNat + 16 * r + c)
    let u := s.vsrc 3 (v.c.toNat + 16 * r + c)
    let m := s.rp (srcTag .v 4) v.pred.toNat
    let e := elem ws (s.vsrc 1 (v.a.toNat + 16 * r + g / (512 / ws))) (g % (512 / ws))
    let sc := elem 8 (s.vsrc 3 (v.c.toNat + 16 * r)) (g / 32)
    let code := elem 8 (s.vsrc 1 (v.a.toNat + 16 * r + g / 64)) (g % 64)
    s.vready i → r < v.hN →
    (i = .vcvt src v → c < (if w ≤ ws then v.wN else v.wN * (w / ws)) → j < L → ∃ t, exec i s = .next t ∧
      Lands s t i (v.d.toNat + 16 * r + c) (fun z mk => masksBy w m mk ∧
        (src.isI = true → v.ty.isF = true →
          (let q := if signedTy src then sextInt e ws else (e : Int)
           elem w z j = f.bits v.rnd v.sat (.fin (decide (q < 0)) q.natAbs 0))) ∧
        (src.isF = true → v.ty.isF = true → elem w z j = f.bits v.rnd v.sat ((fmtOf src).dec e)) ∧
        (src = .bf16 → v.ty = .f32 → v.sat = false → ¬bf16.isNan e → elem w z j = e * 2 ^ 16) ∧
        (src.isF = true → v.ty.isI = true → (fmtOf src).isNan e → elem w z j = 0) ∧
        (∀ neg, src.isF = true → v.ty.isI = true → (fmtOf src).dec e = .inf neg →
          elem w z j = laneOf v.ty true (if neg then -(2 ^ 64 : Int) else 2 ^ 64)) ∧
        (∀ neg n k, src.isF = true → v.ty.isI = true → (fmtOf src).dec e = .fin neg n k →
          ∃ q, roundsToInt v.rnd neg n k q ∧ elem w z j = laneOf v.ty true q) ∧
        (src.isF = true → v.ty = .m8 → elem w z j = (m8Enc v.rnd v.sat ((fmtOf src).dec e)).1) ∧
        (src = .m8 → v.ty.isF = true → elem w z j = f.bits v.rnd v.sat (m8Dec e)))) ∧
    (i = .vdot v → v.ty = .bf16 → c < v.wN → j < 16 → ∃ t, exec i s = .next t ∧
      Lands s t i (v.d.toNat + 16 * r + c) (fun z mk => masksBy 32 m mk ∧
        elem 32 z j = fp32.bits v.rnd v.sat (Fl.add v.rnd
          (Fl.add v.rnd (fp32.dec (elem 32 u j)) (Fl.mul (bf16.dec (elem 16 x (2 * j))) (bf16.dec (elem 16 y (2 * j)))))
          (Fl.mul (bf16.dec (elem 16 x (2 * j + 1))) (bf16.dec (elem 16 y (2 * j + 1))))))) ∧
    (∀ (b : Nat) (val : Nat → Fl), i = .vquant v → v.ty.isF = true → b < 2 * v.wN →
      (∀ k < 32, val k = if m.getLsbD ((32 * b + k) % L) = true then
        f.dec (elem w (s.vsrc 1 (v.a.toNat + 16 * r + (32 * b + k) / L)) ((32 * b + k) % L)) else .fin false 0 0) →
      (∀ k < 32, val k ≠ .nan) →
      ∃ t p q, exec i s = .next t ∧ p ∈ t.core.ctx.fl.pend ∧ q ∈ t.core.ctx.fl.pend ∧
        p.dst = ⟨.v, physV s.core.ctx.f (v.c.toNat + 16 * r)⟩ ∧ q.dst = ⟨.v, physV s.core.ctx.f (v.d.toNat + 16 * r + b / 2)⟩ ∧
        (let sb := elem 8 p.val b
         (∀ k < 32, elem 8 q.val (32 * (b % 2) + k) = (m8Enc .rne true ((val k).scale (127 - (sb : Int)))).1) ∧
         ((∃ k < 32, (val k).isInf = true) → sb = 254) ∧ ((∀ k < 32, (val k).isZero = true) → sb = 127) ∧
         ((∀ k < 32, (val k).isInf = false) → (∃ k < 32, (val k).isZero = false) → ∃ l : Int,
           (∀ k < 32, Fl.lt (val k).abs (.fin false 1 (l + 1)) = true) ∧ (∃ k < 32, Fl.lt (val k).abs (.fin false 1 l) = false) ∧
           (sb : Int) = min 254 (max 0 (127 + l - 9))))) ∧
    (i = .vdeq v → v.ty.isF = true → c < v.wN * (w / 8) → j < L → sc ≠ 255 → ∃ t, exec i s = .next t ∧
      Lands s t i (v.d.toNat + 16 * r + c) (fun z mk => elem w z j = f.bits v.rnd v.sat ((m8Dec code).scale ((sc : Int) - 127)) ∧ masksBy w m mk)) ∧
    (∀ k, i = .vsmx v → v.wN * 16 ≤ 2 ^ k → (∀ l < k, 2 ^ l < v.wN * 16) →
      (let row := (List.range v.wN).map (fun c => s.vsrc 1 (v.a.toNat + 16 * r + c))
       let head := s.vsrc 3 (v.c.toNat + 16 * r)
       let R := fun (q : Fl) => fp32.bits .rne false q
       let D := fp32.dec
       let mx := balanced (fun a b => R (Fl.max2 (D a) (D b))) (reduceLeaf 32 row m 0xFF800000) k 0
       let mn := Fl.max2 (D (elem 32 head 0)) (D mx)
       let term := fun (q : Nat) => fp32.exp2 .rne false (D (R (Fl.add .rne (D q) mn.neg)))
       let al : Fl := if mn = .inf true then .fin false 1 0 else D (term (elem 32 head 0))
       let leaf := fun (p : Nat) => if p < v.wN * 16 ∧ m.getLsbD (p % 16) = true then term (elem 32 (row.getD (p / 16) 0) (p % 16)) else 0x80000000
       let sum : Fl := if mn = .inf true then .fin false 0 0 else D (balanced (fun a b => R (Fl.add .rne (D a) (D b))) leaf k 0)
       ∃ t, exec i s = .next t ∧ Lands s t i (v.d.toNat + 16 * r) (fun z _ => elem 32 z 0 = R mn ∧ elem 32 z 2 = R al ∧
         elem 32 z 1 = R (Fl.add .rne (Fl.mul (D (elem 32 head 1)) al) sum)))))

/-- 08 R187, R188; 13 R332, R336, R339, R340: an operation fires when its queue's head may: it leaves the queue and runs; its MAC steps end
with the array of R71 and R72 and either its drain or its completion; a drain and an attention operation end with their slot complete
and their number done. The buffers that an operation reads and pops lose a slot each, the others none (08 R188; 13 R340). Nothing fires from an
empty or stopped queue. That an engine reads its operands in its last event is the model's
reading (log 56, 57). -/
def Obligations.EnginesFireAndComplete : Prop :=
  ∀ (s : State) (o : MeOp) (rest : List MeOp) (m : MeFired) (T : Nat) (dae : Bool) (p : AtOp) (a : AtRun),
    let x := s.core.ctx
    let cc := s.core.ccyc
    let tm := m.op.tmpl
    let dm := Tab.get {} x.cb (fld tm 44 4)
    let da := Tab.get {} x.cb (fld a.op.tmpl 20 4)
    let dq := Tab.get {} x.cb (fld a.op.tmpl 16 4)
    (x.meq = o :: rest → s.meAct = .fire → ∃ t n, exec .meFire s = .next t ∧ t.core.ctx.meq = rest ∧ t.core.me = s.core.me ++ [n] ∧ n.op = o ∧
      n.owner = x.cid ∧ n.fired = cc ∧ n.stage = .mac (cc + 24 + (if meM8 o.fmt then meK o.tmpl else 2 * meK o.tmpl)) ∧ SameRegs s t ∧ SameBytes s t) ∧
    (x.meq = [] ∨ x.meStop.isSome = true → exec .meFire s = .next s) ∧
    (∀ q, x.meq = o :: rest → s.meAct = .stop q → ∃ t st, exec .meFire s = .next t ∧ t.core.ctx.meStop = some st ∧ st.code = q.code ∧
      st.load = false ∧ t.core.ctx.meq = x.meq ∧ t.core.me = s.core.me ∧ SameRegs s t ∧ SameBytes s t) ∧
    (s.core.me = [m] → m.owner = x.cid → m.stage = .mac T → T ≤ cc → m.bad = false → s.chk = [] →
      ∃ t, exec .meMacComplete s = .next t ∧ SameRegs s t ∧ t.core.ctx.accFree = none ∧
        (∀ e < 16384, Tab.get 0 t.core.ctx.acc e = BitVec.ofNat 64 (fp32eBits (m.sum s x (e / 128) (e % 128)).1)) ∧
        (∀ k < 16,
          let d := Tab.get {} x.cb k
          let pops := (if tm.getLsbD 6 = true ∧ fld tm 32 4 = k then 1 else 0) + (if tm.getLsbD 7 = true ∧ fld tm 36 4 = k then 1 else 0) +
            (if tm.getLsbD 1 = true ∧ fld tm 40 4 = k then 1 else 0)
          Tab.get {} t.core.ctx.cb k = if pops = 0 then d else { d with cptr := (d.cptr + pops) % (2 * (d.nslot + 1)) }) ∧
        (meDr tm = false → SameBytes s t ∧ t.core.me = [] ∧ t.core.ctx.tlMe = x.tlMe.finish m.op.num false) ∧
        (meDr tm = true → t.core.ctx.tlMe = x.tlMe ∧ (meWh tm = false → SameBytes s t) ∧
          ∃ n, t.core.me = [n] ∧ n.op = m.op ∧ n.stage = .drain (cc + 128 * epLen m.op.ep))) ∧
    (s.core.me = [m] → m.owner = x.cid → m.stage = .drain T → T ≤ cc → m.bad = false → s.chk = [] →
      ∃ t, exec .meDrainEnd s = .next t ∧ SameRegs s t ∧ t.core.me = [] ∧ t.core.ctx.tlMe = x.tlMe.finish m.op.num false ∧
        (Tab.get {} t.core.ctx.cb (fld tm 44 4)).pptr = (dm.pptr + 1) % (2 * (dm.nslot + 1)) ∧ t.core.ctx.acc = x.acc) ∧
    (x.atHead dae = some p → s.atAct dae = .fire → s.atTurn dae = true → ∃ t n, exec (.attentionFire dae) s = .next t ∧
      t.core.atRun = s.core.atRun ++ [n] ∧ n.op = p ∧ n.owner = x.cid ∧ t.core.ctx.atq = x.atq.erase p ∧ SameRegs s t ∧ SameBytes s t) ∧
    (x.atHead dae = none → exec (.attentionFire dae) s = .next s) ∧
    (s.core.atRun = [a] → a.op.dae = dae → a.owner = x.cid → a.till ≤ cc → a.bad = false → s.chk = [] →
      ∃ t, exec (.attentionComplete dae) s = .next t ∧ SameRegs s t ∧ t.core.atRun = [] ∧ t.core.ctx.tlAt = x.tlAt.finish a.op.num false ∧
        (Tab.get {} t.core.ctx.cb (fld a.op.tmpl 20 4)).pptr = (da.pptr + 1) % (2 * (da.nslot + 1)) ∧
        (Tab.get {} t.core.ctx.cb (fld a.op.tmpl 16 4)).cptr =
          (if a.op.tmpl.getLsbD 7 then (dq.cptr + 1) % (2 * (dq.nslot + 1)) else dq.cptr))

/-- 09 R216 to R221, 18 R428: with its reservation the copy engine gives a chunk its place in its bandwidth, 128 bytes a cycle, up to the next
64 KiB boundary of either side; at the end of its time it moves the bytes of its source, or those that a port has brought, to its
destination, and nothing else; a copy that has moved all its bytes completes its number, and its slot where it fills one. The bytes that a
port brings stay in hand; an acknowledged write ends the chunk; a request that is refused or lost parks the copy with code 13 at its own
side. The order of the two sides' checks is the model's reading (log 54). -/
def Obligations.CopyEvents : Prop :=
  ∀ (s : State) (num : Nat) (k : Copy) (sp dp : Place) (left a c T : Nat) (ad cd : Bool) (ks ds : List Nat) (bs data : List Byte),
    let x := s.core.ctx
    let who := some (k.num, k.owner)
    let d := Tab.get {} x.cb k.parm.cb
    let n := min (toEdge (chunkAddr k.ent dp)) (min left (toEdge (chunkAddr k.ent sp)))
    let start := max s.core.ccyc s.core.ceFree
    s.core.copies = [k] → k.owner = x.cid → k.park = none → k.stage = .body → s.chk = [] → k.parm.kind = .lin →
    s.ring.fenced.testBit s.station = false →
    (s.core.ceR.held ≠ 0 → k.num = num → k.sent = none → k.pos < k.parm.total → k.till = none → k.at x s.cix 0 k.pos = (sp, dp, left) →
      ∃ t k', exec (.copyChunk num) s = .next t ∧ t.core.copies = [k'] ∧ k'.n = n ∧ k'.till = some (start + (n + 127) / 128) ∧ k'.pos = k.pos ∧
        t.core.ceFree = start + (n + 127) / 128 ∧ SameRegs s t ∧ SameBytes s t) ∧
    (s.core.ceR.held ≠ 0 → k.num = num → k.sent = none → k.pos < k.parm.total → k.till = some T → s.core.ccyc < T →
      exec (.copyChunk num) s = .next s) ∧
    (s.core.ceR.held ≠ 0 → k.num = num → k.sent = none → k.pos < k.parm.total → k.till = some T → T ≤ s.core.ccyc → k.data = some bs →
      k.at x s.cix k.ix k.pos = (sp, dp, left) → s.spot s.cix x k.ent who dp k.n true dstSpaces = .ok c cd ds → s.sideFault ds true = none →
      ∃ t k', exec (.copyChunk num) s = .next t ∧ t.core.copies = [k'] ∧ k'.pos = k.pos + k.n ∧ k'.data = none ∧ k'.till = none ∧ SameRegs s t ∧
        ∀ q, t.rd1 q = s.afterStore ds bs q) ∧
    (s.core.ceR.held ≠ 0 → k.num = num → k.sent = none → k.pos < k.parm.total → k.till = some T → T ≤ s.core.ccyc → k.old = [] → k.data = none →
      k.at x s.cix k.ix k.pos = (sp, dp, left) → s.spot s.cix x k.ent who sp k.n false srcSpaces = .ok a ad ks →
      s.spot s.cix x k.ent who dp k.n true dstSpaces = .ok c cd ds → s.sideFault ks false = none → s.sideFault ds true = none →
      s.anyAsleep ks = false →
      ∃ t k', exec (.copyChunk num) s = .next t ∧ t.core.copies = [k'] ∧ k'.pos = k.pos + k.n ∧ k'.num = num ∧ k'.till = none ∧ SameRegs s t ∧
        ∀ q, t.rd1 q = s.afterStore ds (ks.map (s.copyByte s.cix s.part [])) q) ∧
    (k.num = num → k.sent = none → k.re = false → k.parm.total ≤ k.pos → k.parm.ver = false → k.parm.whole = false →
      (∀ u, k.parm.dcb = true → k.slots = [u] → u.done = false → s.orderTurn k u = true → ∃ t, exec (.copyComplete num) s = .next t ∧
        t.core.copies = [] ∧ t.core.ctx.tlCe = x.tlCe.finish num false ∧ SameRegs s t ∧ SameBytes s t ∧
        (Tab.get {} t.core.ctx.cb k.parm.cb).pptr = (d.pptr + 1) % (2 * (d.nslot + 1))) ∧
      (k.slots = [] → ∃ t, exec (.copyComplete num) s = .next t ∧ t.core.copies = [] ∧ t.core.ctx.tlCe = x.tlCe.finish num false ∧
        t.core.ctx.cb = x.cb ∧ SameRegs s t ∧ SameBytes s t)) ∧
    (∀ r, k.sent = some r → k.at x s.cix k.ix k.pos = (sp, dp, left) →
      (r.data = none → ∃ t k', exec (.xChunkReply false data) s = .next t ∧ t.core.copies = [k'] ∧ k'.sent = none ∧ k'.pos = k.pos ∧
        k'.data = some (data.take r.n) ∧ SameRegs s t ∧ SameBytes s t) ∧
      (r.data ≠ none → ∃ t k', exec (.xChunkReply false data) s = .next t ∧ t.core.copies = [k'] ∧ k'.sent = none ∧ k'.pos = k.pos + k.n ∧
        k'.data = none ∧ SameRegs s t ∧ SameBytes s t) ∧
      (∀ i, i = .xChunkReply true data ∨ i = .xAckTimeout → k.re = false → ∃ t k', exec i s = .next t ∧ t.core.copies = [k'] ∧
        k'.park = some (13, if r.data.isSome then dp.ha else sp.ha) ∧ k'.pos = k.pos ∧ k'.sent = none ∧ SameRegs s t ∧ SameBytes s t))

/-- 06 R133, R134; 08 R188; 09 R218; 15 R364, R365, R368 to R372: power and reservations: a vector operation that waits enters the pipe; an
engine idle for 64 cycles gives its draw units back, and not before; a governor step moves the level by at most 8 toward its target, and
grants a request that arrived before it where it fits; a ramp moves by 25 MHz or 1 mV, upward voltage first; its end is counted; an emergency steps 100 MHz down; the cap's average is that of
the last 1000 samples. No register and no byte of memory changes. The grain of a ramp and the rounding of the mean are the model's
choices (log 49, 50). -/
def Obligations.PowerEvents : Prop :=
  ∀ (s : State) (dae : Bool) (w : VpEnt) (rest : List VpEnt),
    let c := s.core
    let cc := c.ccyc
    let p := s.power s.cl
    (∀ i, i = .vectorIntakeStart ∨ i = .vectorReservationReturn ∨ i = .meReservationReturn ∨ i = .copyReservationReturn ∨
        i = .attentionReservationReturn dae ∨ i = .governorStep ∨ i = .rampStep ∨ i = .rampComplete ∨ i = .droopEmergency ∨ i = .capSample →
      ∃ t, exec i s = .next t ∧ SameRegs s t ∧ SameBytes s t ∧
        (i = .vectorIntakeStart → c.vpWait = w :: rest → w.need = false ∨ c.vpR.held ≠ 0 →
          t.core.vpWait = rest ∧ t.core.vpFree = max cc c.vpFree + w.b ∧
            (w.cid = c.ctx.cid → ∀ q ∈ c.ctx.fl.pend, q.vpn = w.num → q.rdy = none →
              { q with rdy := some (max cc c.vpFree + w.lb + w.b - 1) } ∈ t.core.ctx.fl.pend)) ∧
        (i = .vectorIntakeStart → c.vpWait = w :: rest → w.need = true → c.vpR.held = 0 → t = s) ∧
        (i = .vectorReservationReturn → c.vpWait = [] → c.vpLast + 64 ≤ cc → c.vpR.idle + 64 ≤ cc → t.core.vpR.held = 0) ∧
        (i = .vectorReservationReturn → c.vpWait ≠ [] ∨ cc < c.vpLast + 64 → t = s) ∧
        (i = .meReservationReturn → c.me = [] → c.ctx.meq = [] → c.meR.asked = false → c.meR.held ≠ 0 → c.meR.idle + 64 ≤ cc →
          t.core.meR.held = 0) ∧
        (i = .meReservationReturn → c.me ≠ [] ∨ c.ctx.meq ≠ [] → t = { s with core := { c with meR := { c.meR with idle := cc } } }) ∧
        (i = .meReservationReturn → c.me = [] → c.ctx.meq = [] → cc < c.meR.idle + 64 ∨ c.meR.asked = true → t = s) ∧
        (i = .copyReservationReturn → (∀ k ∈ c.copies, k.sent = none) → c.ceR.held ≠ 0 → c.ceR.idle + 64 ≤ cc → t.core.ceR.held = 0) ∧
        (i = .copyReservationReturn → cc < c.ceR.idle + 64 ∨ (∃ k ∈ c.copies, k.sent ≠ none) → t = s) ∧
        (i = .attentionReservationReturn dae → (∀ j < 8, (s.getCore (8 * s.cl + j)).atRun = [] ∧ (s.getCore (8 * s.cl + j)).ctx.atq = []) →
          (if dae then s.cluster.daeR else s.cluster.paeR).held ≠ 0 → (if dae then s.cluster.daeR else s.cluster.paeR).idle + 64 ≤ s.cluster.clk →
          (if dae then t.cluster.daeR else t.cluster.paeR).held = 0) ∧
        (i = .governorStep → (t.power s.cl).lvl ≤ p.lvl + 8 ∧ p.lvl ≤ (t.power s.cl).lvl + 8 ∧
          (p.acts = [] → p.fifo = [] → max p.held p.maxFloor < p.lvl → (t.power s.cl).lvl = max (max p.held p.maxFloor) (p.lvl - 8)) ∧
          (p.acts = [] → ∀ q qs, p.fifo = q :: qs → q.time < p.bnd.getD cc → p.held + q.size ≤ 320 → p.held + q.size ≤ p.lvl →
            (t.power s.cl).fifo = qs ∧ (t.power s.cl).grantN = p.grantN + 1)) ∧
        (i = .rampStep → p.ramp = false → (t.power s.cl) = p) ∧
        (i = .rampStep → p.ramp = true → p.fcur < p.ftgt → (p.vcur < voltOf p.ftgt → (t.power s.cl) = { p with vcur := p.vcur + 1 }) ∧
          (voltOf p.ftgt < p.vcur → (t.power s.cl) = { p with vcur := p.vcur - 1 }) ∧
          (p.vcur = voltOf p.ftgt → (t.power s.cl) = { p with fcur := min p.ftgt (p.fcur + 25) })) ∧
        (i = .rampStep → p.ramp = true → p.ftgt < p.fcur → (t.power s.cl) = { p with fcur := max p.ftgt (p.fcur - 25) }) ∧
        (i = .rampComplete → p.ramp = true → p.fcur = p.ftgt → p.vcur = voltOf p.ftgt →
          (t.power s.cl).opchgN = p.opchgN + 1 ∧ (t.power s.cl).pend = none ∧ (p.pend = none → (t.power s.cl).ramp = false)) ∧
        (i = .droopEmergency → (t.power s.cl).fcur = max 400 (p.fcur - 100) ∧ (t.power s.cl).droopN = p.droopN + 1 ∧
          (t.power s.cl).vcur = p.vcur) ∧
        (i = .capSample → (t.power s.cl).samples = (p.lvl * p.vcur :: p.samples).take 1000 ∧
          (t.power s.cl).avgw = ((p.lvl * p.vcur :: p.samples).take 1000).foldl (· + ·) 0 / 250000 ∧
          (p.capw ≠ 0 → p.capw < (t.power s.cl).avgw → (t.power s.cl).fceil = max 400 (p.fceil - 25)) ∧
          (p.capw = 0 → (t.power s.cl).fceil = min 1600 (p.fceil + 25))))

/-- 05 R111 to R113, R126, R127: `bank.vec` drives rows of the vector file and `bank.buf` banks of a buffer: to OFF with their contents
lost, to RET with them kept unless they were OFF, to FULL by a wake of 8 or 64 cycles, from OFF with zero contents; a wake that has run
its cycles is over. A result that is due in the cycle of a `bank.vec` lands behind it and wakes the row that it put in RET or OFF (R114).
Rows and banks outside the mask keep everything. -/
def Obligations.BankStates : Prop :=
  ∀ (s : State) (st : BankSt) (rows banks : BitVec 16) (sp : BufSp),
    let cc := s.core.ccyc
    let reg := fun (x : State) (row c : Nat) => (Tab.get 0 x.core.ctx.r.v (16 * row + c), Tab.get false x.core.ctx.r.live (16 * row + c))
    let came := fun (row : Nat) => ∃ p ∈ s.core.ctx.fl.lately, p.1.dst.inRow row = true
    let here := fun (row c : Nat) => ∃ p ∈ s.core.ctx.fl.lately, p.1.dst = ⟨.v, 16 * row + c⟩
    let lost := fun (b : Nat) => st = .off ∨ (st = .full ∧ s.core.bank (bufSpCode sp) b = .off)
    (s.admits (.bankVec st rows) → ∃ t, exec (.bankVec st rows) s = .next t ∧ SameBytes s t ∧ t.core.ctx.f = s.core.ctx.f ∧
      t.core.ctx.fl = { s.core.ctx.fl with lately := t.core.ctx.fl.lately } ∧ t.core.ctx.r.s = s.core.ctx.r.s ∧
      t.core.ctx.r.p = s.core.ctx.r.p ∧ t.core.ctx.r.l = s.core.ctx.r.l ∧
      ∀ row < 16, (rows.getLsbD row = false → t.vbank row = s.vbank row ∧ ∀ c < 16, reg t row c = reg s row c) ∧
        (rows.getLsbD row = true →
          (st = .off → ¬came row → t.vbank row = .off ∧ ∀ c < 16, reg t row c = (0, false)) ∧
          (st = .off → came row → t.vbank row = .waking (cc + 8) ∧ ∀ c < 16, ¬here row c → reg t row c = (0, true)) ∧
          (st = .ret → ¬came row → t.vbank row = (if s.vbank row = .off then .off else .ret) ∧ ∀ c < 16, reg t row c = reg s row c) ∧
          (st = .ret → came row → s.rowWas row = .off → t.vbank row = s.vbank row ∧ ∀ c < 16, reg t row c = reg s row c) ∧
          (st = .ret → came row → s.rowWas row ≠ .off → t.vbank row = .waking (cc + 8)) ∧
          (st = .full → s.vbank row = .off → t.vbank row = .waking (cc + 8) ∧ ∀ c < 16, reg t row c = (0, true)) ∧
          (st = .full → s.vbank row ≠ .off → t.vbank row = (if s.vbank row = .ret then .waking (cc + 8) else s.vbank row) ∧
            ∀ c < 16, reg t row c = reg s row c))) ∧
    (s.admits (.bankBuf st sp banks) → ∃ t, exec (.bankBuf st sp banks) s = .next t ∧ SameRegs s t ∧
      (∀ b < 16, (banks.getLsbD b = false → t.core.bank (bufSpCode sp) b = s.core.bank (bufSpCode sp) b) ∧
        (banks.getLsbD b = true →
          (st = .off → t.core.bank (bufSpCode sp) b = .off) ∧
          (st = .ret → t.core.bank (bufSpCode sp) b = (if s.core.bank (bufSpCode sp) b = .off then .off else .ret)) ∧
          (st = .full → t.core.bank (bufSpCode sp) b =
            (if s.core.bank (bufSpCode sp) b = .off ∨ s.core.bank (bufSpCode sp) b = .ret then .waking (cc + 64)
             else s.core.bank (bufSpCode sp) b)))) ∧
      (∀ k, (∃ b < 16, banks.getLsbD b = true ∧ lost b ∧ rBuf s.cix (bufSpCode sp) + 262144 * b ≤ k ∧
          k < rBuf s.cix (bufSpCode sp) + 262144 * b + 262144) → t.rd1 k = 0) ∧
      (∀ k, (∀ b < 16, banks.getLsbD b = true → lost b → ¬(rBuf s.cix (bufSpCode sp) + 262144 * b ≤ k ∧
          k < rBuf s.cix (bufSpCode sp) + 262144 * b + 262144)) → t.rd1 k = s.rd1 k)) ∧
    (Tab.wf .full s.core.bbs = true → Tab.wf .off s.core.ctx.r.bank = true → ∃ t, exec .bankWakeEnd s = .next t ∧ SameBytes s t ∧
      t.core.ctx.r = { s.core.ctx.r with bank := t.core.ctx.r.bank } ∧ t.core.ctx.f = s.core.ctx.f ∧ t.core.ctx.fl = s.core.ctx.fl ∧
      (∀ row, t.vbank row = s.vbank row) ∧ (∀ q b, t.core.bank q b = s.core.bank q b) ∧
      (∀ p ∈ t.core.ctx.r.bank, ∀ n, p.2 = .waking n → cc < n) ∧ ∀ p ∈ t.core.bbs, ∀ n, p.2 = .waking n → cc < n)

/-- 04 R95, R96; 09 R215: a fill brings the block of the next bundle into the cluster's cache; a flush, once done, takes out the lines of
its partitions; an invalidation, once done, takes out the translations that it covers. No register and no byte of memory changes. That a
fill and a flush are one event each, and which line leaves, are the model's choices (log 30). -/
def Obligations.CachesAndInvalidations : Prop :=
  ∀ (s s1 : State) (all : Bool) (v : BitVec 512) (m : Nat),
    let key := lineKey s.part s.core.ctx.f.codeh.toNat (s.core.ctx.f.pc / 64)
    let page := fld (Tab.get 0 s.tlbflVa s.cix) 16 40
    ∀ i, i = .icacheFill ∨ i = .icflWrite ∨ i = .icacheFlushDone ∨ i = .tlbflWrite all ∨ i = .tlbInvalidateDone →
      (i = .icacheFill → s.allClean) →
      ∃ t, exec i s = .next t ∧ t.core = s.core ∧ SameBytes s t ∧
        (i = .icacheFill → (Tab.get none s.cluster.lines key).isSome = true → t = s) ∧
        (i = .icacheFill → Tab.get none s.cluster.lines key = none → s.blockBytes (s.core.ctx.f.pc / 64) = (s1, some v) →
          Tab.get none t.cluster.lines key = some v) ∧
        (i = .icflWrite → t.cluster.flush = some ((s.cluster.flush.getD 0) ||| 2 ^ s.part) ∧ t.cluster.lines = s.cluster.lines) ∧
        (i = .icacheFlushDone → s.cluster.flush = some m → t.cluster.flush = none ∧ ∀ k, Tab.get none t.cluster.lines k =
          if m.testBit (linePart k) then none else Tab.get none s.cluster.lines k) ∧
        (i = .icacheFlushDone → s.cluster.flush = none → t.cluster = s.cluster) ∧
        (i = .tlbflWrite all → t.tlbinv = s.tlbinv ++ [(s.part, if all then none else some page)] ∧ t.tlb = s.tlb) ∧
        (i = .tlbInvalidateDone → t.tlbinv = [] ∧ ∀ e, e ∈ t.tlb ↔ e ∈ s.tlb ∧ ∀ w ∈ s.tlbinv, w.1 = e.part →
          ∃ p, w.2 = some p ∧ (65536 * p < e.va ∨ e.va + e.size ≤ 65536 * p))

/-- 01 R16; 11 R285; 12 R291, R299, R302, R312: a task that is offered to a waiting core is taken by `arr.wait` and `task.end`: the result of R285 or the
record address lands, the CSRs of the task are written, and control passes to its entry three cycles on; an `arr.wait` whose bound has
run out lands 0. A task is offered to the next free core of the die, with its request list written before (R291), and to none of a fenced
die, nor while the ring is stopped (01 R16); a barrier opens for the waiting core
with code 0 when every condition of R308 holds, and not before. What the CSRs hold after a task, and that only a waiting core passes,
are the model's readings (log 36, 71). -/
def Obligations.TasksAndBarriers : Prop :=
  ∀ (s : State) (i : Instr) (d b : Reg) (races : BitVec 2) (mask : BitVec 4) (id k lvl num : Nat) (a : ArrTask) (z : TileTask),
    let die := s.die s.station
    let x := s.core.ctx
    (i = .arrWait d b races ∨ i = .taskEnd d mask → s.admits i → s.core.offer = some id → s.qOf .e = false →
      (die.arrs.find? (fun t => t.id == id) = some a → ∃ t, exec i s = .next t ∧ t.core.offer = none ∧ t.core.ctx.task.arr = some id ∧
        t.core.ctx.f.pc = 64 * a.entry % 2 ^ 48 ∧ t.core.iss.taken = some 3 ∧ t.core.ctx.r = x.r ∧ t.core.ctx.csr.taskInfo = 1 ∧
        t.core.ctx.csr.arrDep = BitVec.ofNat 64 a.dep ∧ t.core.ctx.csr.arrRot = BitVec.ofNat 64 (a.rot % 2 ^ 32) ∧
        t.core.ctx.csr.taskJoin = BitVec.ofNat 64 a.join ∧ (d ≠ 0 → ∃ p ∈ t.core.ctx.fl.pend, p.dst = ⟨.s, d.toNat⟩ ∧
          p.val = (BitVec.ofNat 64 (6 * 2 ^ 52 + 2 ^ 21 * a.slot)).setWidth 512 ∧ p.iat = s.core.icyc)) ∧
      (die.arrs.find? (fun t => t.id == id) = none → die.tiles.find? (fun t => t.id == id) = some z → ∃ t, exec i s = .next t ∧
        t.core.offer = none ∧ t.core.ctx.task.tile = some id ∧ t.core.ctx.f.pc = 64 * z.entry % 2 ^ 48 ∧ t.core.iss.taken = some 3 ∧
        t.core.ctx.r = x.r ∧ t.core.ctx.csr.taskRec = BitVec.ofNat 64 z.recHa ∧ t.core.ctx.csr.taskArg = BitVec.ofNat 64 z.arg ∧
        (d ≠ 0 → ∃ p ∈ t.core.ctx.fl.pend, p.dst = ⟨.s, d.toNat⟩ ∧ p.val = (BitVec.ofNat 64 z.recHa).setWidth 512 ∧
          p.iat = s.core.icyc))) ∧
    (i = .arrWait d b races → s.core.iss.checked = false → s.qOf .e = false → s.core.offer = none → s.timedOut = true →
      exec i s = .next (s.thaw.plusResult .e d 0 1)) ∧
    (s.ring.fenced.testBit s.station = true ∨ (die.arrs = [] ∧ die.tiles = []) ∨
      (s.ring.stopped = true ∧ die.tiles = []) → exec .taskOffer s = .next s) ∧
    (s.ring.fenced.testBit s.station = false → s.ring.stopped = false → die.arrs = [a] → a.taker = none → a.id ∉ s.offered s.station →
      s.nextCore s.station (fun c => c.freeArr a) = some k → ∃ t, exec .taskOffer s = .next t ∧ (t.getCore k).offer = some a.id ∧
        (t.die s.station).rr = k % 48 ∧ (∀ j, j ≠ k → t.getCore j = s.getCore j) ∧ SameRegs s t ∧
        (s.listKeys k a a.list.length = none → SameBytes s t) ∧
        ∀ l, s.listKeys k a a.list.length = some l → SameBytesBut l s t ∧ (l.Nodup → l.length = a.list.length → t.rdKeys l = a.list)) ∧
    (s.core.bar = none → exec .barrierPass s = .next s) ∧
    (s.core.bar = some (lvl, num) → s.barOpen s.cix lvl = false → exec .barrierPass s = .next s) ∧
    (s.core.bar = some (lvl, num) → s.barOpen s.cix lvl = true → ∃ t, exec .barrierPass s = .next t ∧ t.core.bar = none ∧ t.core.wait = none ∧
      t.core.frz.line = false ∧ (t.barSt s.cix lvl).pend = false ∧ (t.barSt s.cix lvl).count = (s.barSt s.cix lvl).count ∧ SameRegs s t ∧
      SameBytes s t ∧ ∀ p ∈ x.fl.pend, p.unit = some num → { p with val := 0, unit := none } ∈ t.core.ctx.fl.pend)

/-- 01 R15; 11 R257, R262, R266, R276, R277, R279: every stroke boundary counts the stroke, and with the ring at rest changes nothing else, with
no segment on it nothing but the rotations; it switches the sluice round a fenced station, whose pond is lost; a staging ends with its
segment resident, and without an entry its arrival event is counted; a segment to be injected is staged for 42 strokes in a slot that was
free. That a stroke is one event, where a segment is staged, and that an empty cadence slot leaves the origin and turns the rotation, are the
model's choices (log 78, 111, 131). -/
def Obligations.MillraceEvents : Prop :=
  ∀ (s : State) (p : PondSeg) (g : SegImg) (kind slot : Nat),
    let next : State := { s with stroke := s.stroke + 1, free := s.free + 1, log := { s.log with since := s.log.head } }
    (∃ t, exec .strokeBoundary s = .next t ∧ t.stroke = s.stroke + 1 ∧
      (s.ring.stopped = false → ∀ st < 32, s.ring.fenced.testBit st = true → s.ring.bridged.testBit st = false → ∀ i < 640, t.pondAt st i = none)) ∧
    (s.ring.stopped = true ∨ (s.ring.running = false ∧ s.ring.fenced = 0 ∧ s.hub.lost = 0) → exec .strokeBoundary s = .next next) ∧
    (s.ring.running = true → s.ring.stopped = false → s.ring.fenced = 0 → s.hub.lost = 0 → s.pond = [] → ∃ t, exec .strokeBoundary s = .next t ∧
      t = { next with ring := t.ring } ∧ t.ring = { s.ring with rotE := t.ring.rotE, rotW := t.ring.rotW, transE := t.ring.transE, transW := t.ring.transW } ∧
      (s.ring.s0e ≤ s.stroke + 1 → s.ring.pe ≠ 0 → t.ring.rotE = (s.stroke + 1 - s.ring.s0e) / s.ring.pe) ∧
      (s.ring.s0w ≤ s.stroke + 1 → s.ring.pw ≠ 0 → t.ring.rotW = (s.stroke + 1 - s.ring.s0w) / s.ring.pw)) ∧
    ((∀ e ∈ s.pond, ∀ q, e.2 = some q → ∀ n, q.staging = some n → s.stroke < n) → exec .stagingEnd s = .next s) ∧
    (s.pond = [(slot, some p)] → ∀ n, p.staging = some n → n ≤ s.stroke →
      let st := slot / 640
      ∃ t, exec .stagingEnd s = .next t ∧ t.pond = [(slot, some { p with staging := none, since := s.stroke })] ∧ SameBytes s t ∧ t.core = s.core ∧
        (s.ownsDie st p.seg.part = false → t.dies = s.dies ∧ t.dparts = s.dparts) ∧
        (s.ownsDie st p.seg.part = true → avtValid (s.avt st p.seg.part p.seg.tag) = false → t.dies = s.dies ∧
          (t.dpart st p.seg.part).arrnoentN = (s.dpart st p.seg.part).arrnoentN + 1)) ∧
    (s.ring.running = false ∨ s.ring.stopped = true ∨ s.ring.todo = [] → exec .reInjection s = .next s) ∧
    (s.ring.running = true → s.ring.stopped = false → s.ring.todo = [(g, kind)] → (∃ st ∈ s.ring.stations, s.stageAt g st ≠ none) →
      ∃ t st i q, exec .reInjection s = .next t ∧ st ∈ s.ring.stations ∧ i < 640 ∧ s.pondAt st i = none ∧ t.pondAt st i = some q ∧
        q.staging = some (s.stroke + 42) ∧ q.seg.kind = kind ∧ q.seg.tag = g.tag ∧ q.seg.race = g.race ∧ q.seg.cidx = g.cidx ∧
        q.seg.gen = g.gen ∧ q.seg.part = g.part ∧ q.seg.late = 0 ∧ t.ring.todo = [] ∧ t.core = s.core)

/-- 16 R395, R401: `ctx.swap` answers by the kind of the core and the state of the bank, and a swap then waits for the boundary with its
result held; before a channel's time is over nothing ends; a
completed spill writes the bank's context into the slot or D, its s registers where an image has them and nothing outside the image, and
leaves the bank FULL or EMPTY; a completed fill leaves the bank FULL with what the image in the slot or in D holds, or EMPTY with code 4. The order
of the codes, the opaque areas of an image, the address of the shadow storage and the cycles of a channel are the model's choices (log 83 to 86,
141, 168). -/
def Obligations.ContextSwapsAndChannels : Prop :=
  ∀ (s : State) (d : Reg) (x : Ctx) (key : Nat),
    let h := s.core.shadow
    let place := fun (o : Option (Option Nat)) => o = some (some key) ∨ (o = some none ∧ key = rSh s.cix)
    (s.admits (.ctxSwap d) →
      (s.isLaunchCore = true → exec (.ctxSwap d) s = .next (s.begun.plusResult .e d 3 1)) ∧
      (s.isLaunchCore = false → (h.st = .empty ∨ h.st = .filling) → exec (.ctxSwap d) s = .next (s.begun.plusResult .e d 1 1)) ∧
      (s.isLaunchCore = false → (h.st = .full ∨ h.st = .spilling) →
        ∃ t, exec (.ctxSwap d) s = .next { t with core := { t.core with swap := some s.begun.nextSerial, serial := max t.core.serial s.begun.nextSerial } } ∧
          t = s.begun.plusResult .e d 0 1 (some s.begun.nextSerial))) ∧
    (s.core.ccyc < h.spillAt ∨ h.spillTo = none → exec .ctxSpillComplete s = .next s) ∧
    (h.spillAt ≤ s.core.ccyc → place h.spillTo → h.bank = some x → (∀ k < 64, (x.program k).length ≤ 32) →
      (∀ k < 16, (Tab.get [] x.mask k).length ≤ 2176) → ∃ t, exec .ctxSpillComplete s = .next t ∧
        t.core.shadow.st = (if h.spillEnds then .empty else .full) ∧ t.core.shadow.spillTo = none ∧
        t.core.shadow.bank = (if h.spillEnds then none else some x) ∧ t.core.shadow.slotv = (h.slotv || h.spillTo == some none) ∧
        (∀ k < 64, t.rdLE (key + 8 * k) 8 = (Tab.get 0 x.r.s k).toNat) ∧ SameRegs s t ∧ SameBytesBut (keysFrom key imageBytes) s t) ∧
    (s.core.ccyc < h.fillAt ∨ h.fillFrom = none → exec .ctxFillComplete s = .next s) ∧
    (h.fillAt ≤ s.core.ccyc → place h.fillFrom → s.chk = [] →
      let good := s.imageGood key s.part && (h.slotv || h.fillFrom != some none)
      ∃ t, exec .ctxFillComplete s = .next t ∧ t.core.shadow.fillFrom = none ∧ SameRegs s t ∧ SameBytes s t ∧
        (good = false → t.core.shadow.st = .empty ∧ t.core.shadow.bank = none ∧ t.core.shadow.fres = 4) ∧
        (good = true → t.core.shadow.st = .full ∧ t.core.shadow.fres = 0 ∧
          ∃ y, t.core.shadow.bank = some y ∧ y.f.pc = s.rdLE (key + 0x408) 8 % 2 ^ 48 / 32 * 32 ∧
            ∀ k, 0 < k → k < 64 → Tab.get 0 y.r.s k = BitVec.ofNat 64 (s.rdLE (key + 8 * k) 8)))

/-- 05 R118; 16 R383, R396, R397: a core reset leaves the core at address 0 and privilege S with no register, command or trap of before,
touches no other core, and no byte outside the buffers of the core, whose bytes are undefined from then on; a partition swap puts the
context of the incoming image into the core, 48 cycles after the channel has brought it, and spills the outgoing one, with nothing of its
registers changed, to its own image; a bank that wakes is put aside in RET. Both act only where the place exists: a core that is none, and a swap
on a core that partitions do not share or to an image beyond the die's memory, stop the model (log 85, 106); the outgoing context is on its way
when the swap has acted (log 86). The spec gives no PC, no privilege and no registers of a reset core: those values are the model's (log 2 to 4). -/
def Obligations.PartitionSwapsAndCoreResets : Prop :=
  ∀ (s : State) (n imageIn imageOut : Nat) (part : BitVec 2),
    let h := s.core.shadow
    (n < 1536 → ∃ t, exec (.coreReset n) s = .next t ∧ (t.getCore n).ctx.f.pc = 0 ∧ (t.getCore n).ctx.f.level = 1 ∧ (t.getCore n).ctx.f.act = false ∧
      (t.getCore n).ctx.r = {} ∧ (t.getCore n).ctx.cmds = [] ∧ (t.getCore n).leases = [] ∧ (t.getCore n).halted = false ∧
      (∀ k, k ≠ n → t.getCore k = s.getCore k) ∧ t.durq = s.durq ∧ t.log = s.log ∧
      ((∀ x ∈ (s.getCore n).contexts, x.rp = none) → t.dom = s.dom ∧ ∀ x, x / regionSize / 4 ≠ n → t.rd1 x = s.rd1 x)) ∧
    (1536 ≤ n → exec (.coreReset n) s = .fault .noSuchPlace) ∧
    (s.isLaunchCore = false → s.cluster.owner.testBit part.toNat = true → imageIn + imageBytes ≤ 2 ^ 32 → imageOut + imageBytes ≤ 2 ^ 32 →
      (∀ z, h.bank = some z → z.f.part ≠ s.part) → s.chk = [] → s.core.err = none → s.core.swap = none → ∃ t, exec (.partitionSwap part imageIn imageOut) s = .next t ∧ t.core.ctx.f.part = part.toNat ∧
        t.core.ctx.f.pc = s.rdLE (rD s.station + imageIn + 0x408) 8 % 2 ^ 48 / 32 * 32 ∧ t.core.gap = s.moveTime + 48 ∧ t.core.shadow.st = .spilling ∧
        t.core.shadow.spillTo = some (some (rD s.station + imageOut)) ∧ t.core.shadow.slotv = false ∧ SameBytes s t ∧
        ∃ y, t.core.shadow.bank = some y ∧ y.r = { s.core.ctx.r with bank := y.r.bank } ∧ y.f = { s.core.ctx.f with idle := false } ∧
          ∀ k < 16, Tab.get .off y.r.bank k = (Tab.get .off s.core.ctx.r.bank k).saved s.core.ccyc) ∧
    (s.isLaunchCore = false → s.cluster.owner.testBit part.toNat = true → imageIn + imageBytes ≤ 2 ^ 32 → imageOut + imageBytes ≤ 2 ^ 32 →
      s.core.err ≠ none → exec (.partitionSwap part imageIn imageOut) s =
        .next { s with core := { s.core with pswap := some (part.toNat, imageIn, imageOut) } }) ∧
    (s.isLaunchCore = true ∨ s.cluster.owner.testBit part.toNat = false ∨ 2 ^ 32 < imageIn + imageBytes ∨ 2 ^ 32 < imageOut + imageBytes →
      exec (.partitionSwap part imageIn imageOut) s = .fault .noSuchPlace)

/-- 16 R377, R378, R380; 04 R90; 16 R390 to R393: a boundary without a cause changes nothing; with one it takes the trap of the first cause,
and in a handler the core halts. A freeze of 65536 cycles abandons the results in flight, but for transients that have landed, and takes its trap.
A cause waits until every record of an earlier phase has applied; then one of kinds 1 to 3 that a phase contains restores the registers of its
snapshot and goes back to its restart point, one that no phase contains raises its trap, and the next cause, if one waits, takes its place. A stage
to be rewritten is taken up as a copy under no number, one at a time. What is counted as abandoned, when earlier records apply, and that causes
queue, are the model's readings (log 12, 27, 75, 76, 163). -/
def Obligations.TrapEntryAndContainment : Prop :=
  ∀ (s : State) (c : TrapInfo) (e : ErrCause) (p : Phase) (pc : Nat) (sn : Snap) (r : Refetch),
    let f := s.core.ctx.f
    let entered := fun (t : State) (code : Nat) => t.core.trap.cause.extractLsb' 0 8 = BitVec.ofNat 8 code ∧
      t.core.trap.cause.getLsbD 8 = decide (f.level % 2 = 1) ∧ t.core.trap.pc = BitVec.ofNat 64 (f.pc % 2 ^ 48 + f.codeh.toNat * 2 ^ 48) ∧
      t.core.trap.rot = BitVec.ofNat 64 (f.rotlo + f.rotb * 256) ∧ t.core.ctx.f.pc = fld f.tvec 0 48 ∧ t.core.ctx.f.level = 1 ∧
      t.core.ctx.f.act = true ∧ t.core.ctx.f.rotlo = 16 ∧ t.core.gap = 24 ∧ t.core.ctr.trapsN = s.core.ctr.trapsN + 1
    (s.core.ctx.topCause = none → exec .trapEntry s = .next s) ∧
    (s.core.ctx.topCause = some c → c.code < 256 → f.act = false → s.core.ctx.held.length < 4 → ∃ t, exec .trapEntry s = .next t ∧ entered t c.code ∧
      t.core.trap.detail = BitVec.ofNat 64 c.detail ∧ t.core.trap.addr = BitVec.ofNat 64 c.addr ∧ t.core.ctx.r = s.core.ctx.r ∧
      t.core.ctx.pending = s.core.ctx.pending.erase c ∧ SameBytes s t) ∧
    (s.core.ctx.topCause = some c → f.act = true → ∃ t, exec .trapEntry s = .next t ∧ t.core.halted = true ∧ t.core.ctx.f = f ∧
      t.core.ctx.r = s.core.ctx.r ∧ SameBytes s t) ∧
    (s.core.frz.run < 65536 → exec .freezeTimeout s = .next s) ∧
    (65536 ≤ s.core.frz.run → f.act = false → s.core.ctx.held.length < 4 → ∃ t, exec .freezeTimeout s = .next t ∧ entered t 0x1B ∧
      t.core.ctx.fl.pend = [] ∧ (∀ l ∈ t.core.ctx.held.head?, l.fl.pend = [] ∧ l.fl.defer = [] ∧ l.fl.trans = s.core.ctx.fl.trans) ∧ t.core.frz.run = 0 ∧ t.core.holdCmd = none ∧
      t.core.bar = none ∧ SameBytes s t) ∧
    (s.core.err = none → exec .containment s = .next s) ∧
    (s.core.err = some e → (∃ w ∈ (s.core.ownerCtx e.owner).commits, w.phase < e.phase) → exec .containment s = .next s) ∧
    (s.core.err = some e → s.containable e = some (p, pc, sn) → (∀ w ∈ s.core.ctx.commits, e.phase ≤ w.phase) → 1 ≤ e.kind → e.kind ≤ 3 →
      ∃ t, exec .containment s = .next t ∧ t.core.ctx.r.s = sn.s ∧ t.core.ctx.r.l = sn.l ∧ t.core.ctx.r.p = sn.p ∧
        t.core.ctx.r.v = s.core.ctx.r.v ∧ t.core.ctx.f.pc = pc ∧ t.core.ctx.f.rotlo = sn.rotlo ∧ t.core.ctx.f.rotb = sn.rotb ∧
        t.core.ctx.f.ls = sn.ls ∧ t.core.ctx.phase = e.phase ∧ t.core.ctx.commits = [] ∧ t.core.err = s.core.errq.head? ∧
        t.core.ctr.replayN = s.core.ctr.replayN + 1 ∧ t.core.ctr.uncontN = s.core.ctr.uncontN ∧
        t.core.trap = { s.core.trap with errInfo := BitVec.ofNat 64 (e.kind + 256), errAddr := 0 } ∧ SameBytes s t) ∧
    (s.core.err = some e → s.containable e = none → e.owner = s.core.ctx.cid → (∀ w ∈ s.core.ctx.commits, e.phase ≤ w.phase) → f.act = false →
      s.core.ctx.held.length < 4 → ∃ t, exec .containment s = .next t ∧ entered t (if e.kind = 4 then 0x24 else 0x23) ∧ t.core.err = s.core.errq.head? ∧
        t.core.ctr.uncontN = s.core.ctr.uncontN + 1 ∧ t.core.ctr.replayN = s.core.ctr.replayN ∧ t.core.ctx.r = s.core.ctx.r ∧
        t.core.trap.errAddr = (if e.kind = 4 then BitVec.ofNat 64 e.ha else 0) ∧ SameBytes s t) ∧
    ((∀ o ∈ s.core.refetch, o.busy = false) → exec .stageRefetch s = .next s) ∧
    (s.core.refetch.find? (fun o => o.busy) = some r → (∃ k ∈ s.core.copies, k.re = true) → exec .stageRefetch s = .next s) ∧
    (s.core.refetch.find? (fun o => o.busy) = some r → (∀ k ∈ s.core.copies, k.re = false) → ∃ k,
      exec .stageRefetch s = .next { s with core := { s.core with copies := s.core.copies ++ [k] } } ∧ k.re = true ∧ k.num = 0 ∧ k.owner = r.owner ∧
        k.parm = { r.parm with ph := false } ∧ k.slots = [{ core := s.cix, slot := r.slot, done := true }])

/-- 17 R404, R405, R407, R408, R412, R413: a durable write arrives in the order of the writes, and memory does not change by it;
mirror work writes its images, then, once they are in the domain, its sequence word, and is given up where a check of the area fails; a
record is written whole, once, and is in the domain; a checkpoint covers what is on its way, and ends when none of that is left. The order in which
durable writes arrive, the order of mirror work and when a record is ready are the model's choices (log 89, 142, 149). -/
def Obligations.RecoveryEvents : Prop :=
  ∀ (s : State) (w : MirWork) (c : Nat) (l : List (List Nat × List Byte)) (ks : List Nat) (d : DurWrite) (rest : List DurWrite) (p : RpWrite)
    (k : Ckpt),
    ((∀ o ∈ s.mirHeads, o.stage ≠ 0) → exec .kvMirrorWork s = .next s) ∧
    (s.mirHeads.find? (fun o => o.stage == 0) = some w →
      (s.mirFault w.station w.part = some c → ∃ t, exec .kvMirrorWork s = .next t ∧ (t.kvp w.station w.part).mirErr = true ∧ w ∉ t.mirq ∧
        SameRegs s t ∧ SameBytes s t ∧ t.durq = s.durq) ∧
      (s.mirFault w.station w.part = none → s.mirKeys w.station w.part (s.mirImages w) = some l → ∃ t, exec .kvMirrorWork s = .next t ∧
        { w with stage := 1 } ∈ t.mirq ∧ SameRegs s t ∧ SameBytesBut (l.map (·.1)).flatten s t ∧ t.dom = s.dom ∧
        t.durq = s.durq ++ l.map (fun x => { core := w.core, bytes := List.zip x.1 x.2 }))) ∧
    ((∀ o ∈ s.mirHeads, o.stage ≠ 1) → exec .mirrorSequenceWord s = .next s) ∧
    (s.mirHeads.find? (fun o => o.stage == 1) = some w → s.wordKeys w = some ks → s.mirKeys w.station w.part (s.mirImages w) = some l →
      ((∃ x ∈ l, s.settledIn x.1 = false) → exec .mirrorSequenceWord s = .next s) ∧
      ((∀ x ∈ l, s.settledIn x.1 = true) → ∃ t v, exec .mirrorSequenceWord s = .next t ∧ { w with stage := 2 } ∈ t.mirq ∧ SameRegs s t ∧
        SameBytesBut ks s t ∧ t.durq = s.durq ++ [{ core := w.core, bytes := List.zip ks (leBytes v 64) }] ∧
        (let old := leNat (s.rdKeys ks)
         (w.free = false → v % 2 ^ 32 = w.len % 2 ^ 32 ∧ v / 2 ^ 32 % 2 ^ 32 = 1 ∧ v / 2 ^ 64 = (old / 2 ^ 64 + 1) % 2 ^ 64) ∧
         (w.free = true → v % 2 ^ 32 = old % 2 ^ 32 ∧ v / 2 ^ 32 % 2 = 0 ∧ v / 2 ^ 33 = old / 2 ^ 33)))) ∧
    (s.durq = [] → s.mirq = [] → exec .durableWriteInCheckpointDomain s = .next s) ∧
    (s.durq = d :: rest → ∃ t, exec .durableWriteInCheckpointDomain s = .next t ∧ t.durq = rest ∧ SameRegs s t ∧ SameBytes s t ∧
      (∀ x, (∀ b ∈ d.bytes, b.1 ≠ x) → Tab.get 0 t.dom x = Tab.get 0 s.dom x) ∧
      ((d.bytes.map (·.1)).Nodup → ∀ b ∈ d.bytes, Tab.get 0 t.dom b.1 = b.2) ∧ (∀ o ∈ s.mirq, o.stage ≠ 2 → o ∈ t.mirq)) ∧
    ((∀ x ∈ s.core.contexts, x.rp = none) → exec .recordComplete s = .next s) ∧
    (s.core.ctx.rp = some p → s.recordReady p = true → ∃ t, exec .recordComplete s = .next t ∧ t.core.ctx.rp = none ∧ SameRegs s t ∧
      t.core.ctr.rpwN = s.core.ctr.rpwN + 1 ∧ SameBytesBut p.keys s t ∧ (p.keys.Nodup → p.keys.length = p.bytes.length →
        ∀ i < p.bytes.length, t.rd1 (p.keys.getD i 0) = p.bytes.getD i 0 ∧ Tab.get 0 t.dom (p.keys.getD i 0) = p.bytes.getD i 0)) ∧
    (s.mbRuns 1 = false ∨ s.hub.ckpt ≠ none → exec .mbCheckpoint s = .next s) ∧
    (s.mbRuns 1 = true → s.hub.ckpt = none → ∃ q, exec .mbCheckpoint s = .next { s with hub := { s.hub with ckpt := some q } } ∧ q.dur = s.durq ∧
      q.recs = s.records ∧ ∀ o ∈ s.mirq, o.free = false → (4 * o.station + o.part, o.num) ∈ q.mir) ∧
    (s.hub.ckpt = none → exec .checkpointComplete s = .next s) ∧
    (s.hub.ckpt = some k → (∃ x ∈ k.dur, x ∈ s.durq) → exec .checkpointComplete s = .next s) ∧
    (s.hub.ckpt = some k → (∀ x ∈ k.dur, x ∉ s.durq) → (∀ x ∈ k.recs, x ∉ s.records) →
      (∀ o ∈ s.mirq, (4 * o.station + o.part, o.num) ∉ k.mir) →
      exec .checkpointComplete s = .next { s with hub := { s.hub with ckpt := none, ckptEp := s.hub.ckptEp + 1, ended := some 0 } })

/-- 17 R415, R416; 14 R358: a restore is reported and its entry FREE where its mirror cannot be read or a policy differs; it waits where a sequence
or pages are lacking; else its entry is READY with a new sequence of the record's length, or, where its group has decided without it, CANC. With
the ring stopped nothing is restored. The requests of a lost die enter REST with what their records hold, and the group that they were in
is opened with the size and quorum of its newest record and the posts of its records. That one restore runs at a time, and its target, are the
model's choices (log 90, 161). -/
def Obligations.RequestsRestored : Prop :=
  ∀ (s : State) (r : Restore) (p : RestorePlan) (home part g : Nat) (l : List LostReq) (n : LostReq),
    let k := s.kvp r.station r.part
    let e := (s.die r.station).req r.rq
    let grp := (s.die r.station).group e.sibg
    (s.ring.stopped = true → exec .restoreComplete s = .next s) ∧
    (s.ring.stopped = false → s.hub.restores = [] → s.hub.lost = 0 → exec .restoreComplete s = .next { s with free := s.free + 1 }) ∧
    (s.ring.stopped = false → s.hub.restores = [r] → s.hub.lost = 0 →
      (s.restorePlan r = none → ∃ t, exec .restoreComplete s = .next t ∧ t.hub.restores = [] ∧ ((t.die r.station).req r.rq).state = 0 ∧
        t.hub.rcv = s.hub.rcv ++ [(r.home, r.part, r.homeRq)] ∧ t.mem = s.mem ∧ t.dom = s.dom ∧ t.core = s.core) ∧
      (s.restorePlan r = some p → k.freeSeqs = [] → exec .restoreComplete s = .next { s with free := s.free + 1 }) ∧
      (s.restorePlan r = some p → k.freeSeqs ≠ [] → k.npage ≤ 2 ^ 17 → s.chk = [] →
        (∀ b ∈ p.blocks, ∀ q ∈ b.2.2, s.mirRead r (mirBody (Tab.get {} s.recdir (4 * r.home + r.part)).npage q.1) 16384 ≠ none) →
        (k.freeDie.length + k.freeSpill.length < p.pages → exec .restoreComplete s = .next { s with free := s.free + 1 }) ∧
        (p.pages ≤ k.freeDie.length + k.freeSpill.length → ∃ t sq q, exec .restoreComplete s = .next t ∧ SameRegs s t ∧ t.dom = s.dom ∧
          t.hub.restores = [] ∧ t.hub.rcv = s.hub.rcv ∧ sq ∈ k.freeSeqs ∧ ((t.die r.station).req r.rq).kvroot = kvRoot sq ∧
          ((t.die r.station).req r.rq).state = (if e.sibg < 64 ∧ grp.state = 2 ∧ grp.part = r.part ∧ r.rq ∉ grp.posted then 5 else 1) ∧
          (((t.die r.station).req r.rq).state = 1 → (t.kvp r.station r.part).seq sq = some q ∧ q.clen = r.image / 2 ^ 96 % 2 ^ 32)))) ∧
    (s.ring.stopped = false → s.hub.restores = [] → home < 32 → s.hub.lost = 2 ^ home → s.ring.fenced.testBit home = false → part < 4 →
      (∀ i < 4, s.ownsDie home i = decide (i = part)) → s.lostOf home part = l.map (fun q => (q.rq, q.rpha)) →
      (∀ q ∈ l, ∃ ks, s.bestRecord home part q.rpha = some (ks, q.val)) → g < 64 → (∀ q ∈ l, q.sibg = g) → n ∈ l → n.gn ≠ 0 →
      (∀ q ∈ l, q.gn ≠ 0 → q ≠ n → q.f 0 64 < n.f 0 64) → ((s.die home).group g).state = 0 → (∀ q ∈ l, ((s.die home).req q.rq).state = 0) →
      ∃ t, exec .restoreComplete s = .next t ∧ SameRegs s t ∧ SameBytes s t ∧ t.dom = s.dom ∧
        t.hub.restores = l.map (fun q => { station := home, rq := q.rq, home := home, homeRq := q.rq, part := part, image := q.val }) ∧
        (∀ q ∈ l, let o := (t.die home).req q.rq
          o.state = 6 ∧ o.part = part ∧ o.tag = q.f 160 16 ∧ o.cls = q.f 176 4 ∧ o.sibg = g ∧ o.hseq = q.f 0 64 ∧ o.rpha = q.rpha ∧ o.missed = 0) ∧
        (let x := (t.die home).group g
         x.n = n.gn ∧ x.q = n.f 518 6 ∧ x.part = part ∧
         ((∀ q ∈ l, q.f 188 1 = 0) → x.state = 1 ∧ x.posted = []) ∧
         ∀ q, l.filter (fun q => q.f 188 1 == 1) = [q] → x.posted = [q.rq] ∧ x.slots = [(BitVec.ofNat 64 (q.f 192 64), 1)]))

/-- 01 R17, R24; 12 R310, R311; 18 R420 to R424, R426, R429: during bring-up an access but to HUB.ID, HUB.STAT and the violation log is
refused and recorded: a read completes with Completer Abort, a write is dropped and its address goes to the Advanced Error Report; once the module is up a malformed record or another access to window L is recorded with its reason, an accepted record occupies its
launch core, and an admission sets its entry; registers of window M are written, LOG.TAIL within its range and the mailbox while it is
free; window K reaches the keep tier where it is enabled; a measurement advances bring-up, or ends it. The order of a record's checks
and the widths of window M, both answers of the endpoint to a refused access to window L, and that a write to HUB.ID or HUB.STAT is refused
in bring-up, are the model's readings (log 91 to 95, 115, 133). -/
def Obligations.HostWindows : Prop :=
  ∀ (s : State) (i : Instr) (part : BitVec 2) (addr off n k : Nat) (r : BitVec 512) (v32 : BitVec 32) (v : Word) (w : Option (List Byte))
    (bs : List Byte) (ok : Bool) (m : BitVec 512),
    let h := s.hub
    let st := fld r 2 5
    let base := h.kapbase.toNat / 2 ^ 30 % 2 ^ 10 * 2 ^ 30 + off
    let dropped := fun (t : State) (a : Nat) => OnlyAnswer s t ∧ t.hub.aer = some a ∧ t.hub.reply = h.reply
    let aborted := fun (t : State) => OnlyAnswer s t ∧ t.hub.reply = some .abort ∧ t.hub.aer = h.aer
    (i = .launchAdmit part addr r ∨ i = .launchRun part addr r →
      (h.phase ≠ 4 → ∃ t, exec i s = .next t ∧ Logged s t 2 addr none ∧ dropped t addr) ∧
      (h.phase = 4 → (fld r 0 2 = 0 ∨ fld r 0 2 = 3 ∨ fld r 7 9 ≠ 0 ∨ fld r 256 256 ≠ 0) → ∃ t, exec i s = .next t ∧ Logged s t 1 addr (some 1) ∧ dropped t addr) ∧
      (h.phase = 4 → lrBad r = false → s.ring.fenced.testBit st = true → ∃ t, exec i s = .next t ∧ Logged s t 6 addr none ∧ dropped t addr) ∧
      (h.phase = 4 → lrBad r = false → s.ring.fenced.testBit st = false → s.ring.stopped = true → ∃ t, exec i s = .next t ∧ Logged s t 7 addr none ∧
        dropped t addr) ∧
      (h.phase = 4 → lrBad r = false → s.ring.fenced.testBit st = false → s.ring.stopped = false →
        (fld r 0 2 = 1 → ((s.die st).req (fld r 16 8)).state = 0) → s.launchBusy st part.toNat = false → s.launchCore st part.toNat = some k →
        ∃ t l, exec i s = .next t ∧ t.hub = { h with launches := h.launches ++ [l] } ∧ l.part = part.toNat ∧ l.station = st ∧ l.entry = fld r 24 24 ∧
          l.arg = fld r 64 64 ∧ l.addr = addr ∧ l.started = false ∧ t.log = s.log ∧ SameRegs s t ∧
          (fld r 0 2 = 2 → t = { s with hub := t.hub }) ∧
          (fld r 0 2 = 1 → (let e := (t.die st).req (fld r 16 8)
            e.state = 1 ∧ e.part = part.toNat ∧ e.tag = fld r 48 16 ∧ e.cls = fld r 64 4 ∧ e.sibg = fld r 68 8 ∧ e.missed = 0 ∧ e.admitted = s.stroke ∧
              e.hseq = 0 ∧ e.kvroot = fld r 128 64 ∧ e.rpha = fld r 192 64) ∧
            (Tab.get {} t.rdir (256 * (4 * st + part.toNat) + fld r 16 8)).rpha = fld r 192 64))) ∧
    (∃ t, exec (.launchWindowRefused addr) s = .next t ∧ OnlyAnswer s t ∧ t.hub.aer = some addr ∧ t.hub.reply = some .abort ∧ (h.phase = 4 → Logged s t 1 addr (some 5)) ∧ (h.phase ≠ 4 → Logged s t 2 addr none)) ∧
    (h.phase = 4 ∨ off < 16 ∨ (0x80000 ≤ off ∧ off < 0xA0000) → ∃ d, d.length = 8 ∧
      exec (.windowMReadDuringBringUp off) s = .next { s with hub := { h with reply := some (.data d) } } ∧ (off = 0 → leNat d = hubId) ∧
      (off = 8 → leNat d % 8 = h.phase % 8 ∧ leNat d / 256 % 256 = h.fail % 256) ∧
      (0x80000 ≤ off → off < 0xA0000 → off % 8 = 0 → ∀ j < 8, d.getD j 0 =
        (Tab.get 0 s.log.ents ((off - 0x80000) / 32)).extractLsb' (8 * (off % 32 + j)) 8)) ∧
    (h.phase ≠ 4 → 16 ≤ off → off < 0x80000 ∨ 0xA0000 ≤ off → ∃ t, exec (.windowMReadDuringBringUp off) s = .next t ∧ aborted t ∧
      Logged s t 2 (Config.barBase 2 + off) none) ∧
    (h.phase ≠ 4 → (i = .logTailWrite v32 ∧ off = 0x30) ∨ (i = .logOvfWrite v32 ∧ off = 0x38) ∨ i = .windowMWrite off v →
      ∃ t, exec i s = .next t ∧ dropped t (Config.barBase 2 + off) ∧ Logged s t 2 (Config.barBase 2 + off) none) ∧
    (h.phase = 4 → s.log.tail ≤ k → k ≤ s.log.head → s.log.head ≤ s.log.tail + 4096 → k % 2 ^ 32 = v32.toNat →
      exec (.logTailWrite v32) s = .next { s with log := { s.log with tail := k } }) ∧
    (h.phase = 4 → s.log.head ≤ s.log.tail + 4096 → (∀ j, s.log.tail ≤ j → j ≤ s.log.head → j % 2 ^ 32 ≠ v32.toNat) →
      exec (.logTailWrite v32) s = .next s) ∧
    (h.phase = 4 → exec (.logOvfWrite v32) s = .next { s with log := { s.log with ovf := v32.toNat } }) ∧
    (h.phase = 4 →
      (∃ t, exec (.windowMWrite off v) s = .next t ∧ SameRegs s t ∧ SameBytes s t ∧
        (off = 0x40 → t = { s with hub := { h with kapbase := t.hub.kapbase } } ∧ ∀ b, t.hub.kapbase.getLsbD b = (v.getLsbD b && (b == 0 || decide (30 ≤ b ∧ b < 40)))) ∧
        (off = 0x48 → h.busy = false → t = { s with hub := { h with busy := true, cmd := v.toNat % 256, ended := none } }) ∧
        (off = 0x50 → h.busy = false → t = { s with hub := { h with arg0 := v } }) ∧
        (off = 0x58 → h.busy = false → t = { s with hub := { h with arg1 := v } }) ∧
        (h.busy = true → off = 0x48 ∨ off = 0x50 ∨ off = 0x58 → t = s) ∧
        (0x20000 ≤ off → off + 8 ≤ 0x30000 → t = { s with hub := { h with evid := t.hub.evid } } ∧
          (∀ j < 8, (Tab.get 0 t.hub.evid (off - 0x20000 + j)).toNat = v.toNat / 256 ^ j % 256) ∧
          ∀ j, (j < off - 0x20000 ∨ off - 0x20000 + 8 ≤ j) → Tab.get 0 t.hub.evid j = Tab.get 0 h.evid j) ∧
        (off < 0x30 ∨ (0x5F < off ∧ off < 0x20000) ∨ 0x30000 ≤ off → t = s))) ∧
    (h.phase ≠ 4 → ∃ t, exec (.keepWindowAccess off w n) s = .next t ∧ Logged s t 2 (Config.barBase 4 + off) none ∧
      (w.isSome = true → dropped t (Config.barBase 4 + off)) ∧ (w = none → aborted t)) ∧
    (h.phase = 4 → h.kapbase.getLsbD 0 = false ∨ 2 ^ 40 < base + n → ∃ t, exec (.keepWindowAccess off w n) s = .next t ∧
      Logged s t 9 (Config.barBase 4 + off) none ∧ (w.isSome = true → dropped t (Config.barBase 4 + off)) ∧ (w = none → aborted t)) ∧
    (h.phase = 4 → h.kapbase.getLsbD 0 = true → base + n ≤ 2 ^ 40 →
      (∃ d, d.length = n ∧ (∀ j < n, d.getD j 0 = s.rd1 (rG + base + j)) ∧
        exec (.keepWindowAccess off none n) s = .next { s with hub := { h with reply := some (.data d) } }) ∧
      (bs.length = n → ∃ t, exec (.keepWindowAccess off (some bs) n) s = .next t ∧ SameRegs s t ∧ t.durq = s.durq ∧ t.dom = s.dom ∧
        (∀ j < n, t.rd1 (rG + base + j) = bs.getD j 0) ∧ SameBytesBut (keysFrom (rG + base) n) s t)) ∧
    (h.phase = 0 ∨ 4 ≤ h.phase → exec (.bringupStep ok m) s = .next s) ∧
    (1 ≤ h.phase → h.phase ≤ 3 → exec (.bringupStep true m) s = .next { s with hub := { h with meas := h.meas ++ [m], phase := h.phase + 1 } } ∧
      exec (.bringupStep false m) s = .next { s with hub := { h with meas := h.meas ++ [m], phase := 5, fail := h.phase } })

/-- 12 R312, 16 R397: an accepted launch starts on its launch core, 48 cycles on, at its entry and privilege S, with TASK.INFO of KIND 3,
and the context it interrupts is kept. 18 R427, R428: a chunk of a peer is checked as a copy engine's and then performed and acknowledged, or its
bytes go back; one that fails, or meets a fenced die, is refused (its cause is the model's reading, log 140); foreign frames
are dropped. 01 R15, 17 R403: a reset of a fenced die, or its loss, takes all that lay in its SRAM; power-on leaves the memory of the
host alone, and a warm reset the keep tier and the checkpoint domain too. What of a lost die's
writes reached the hub, which value a byte outside the domain keeps over a warm reset, where the answer to a peer is kept, and that a place
that does not exist stops the model, are the model's choices (log 99, 100, 106, 159, 166); so is every value of a core and of a lost memory that
the spec does not give (log 1 to 4). -/
def Obligations.HubAndDies : Prop :=
  ∀ (s : State) (st n k : Nat) (l : Launch) (part : BitVec 2) (ha : Word) (bs : List Byte) (w : Option (List Byte)) (et : BitVec 16),
    let h := haHandle ha.toNat
    let e := s.hEnt st part.toNat h
    let key := rD st + s.regionBase st part.toNat h e + haOff ha.toNat
    let answered := fun (t : State) (a : XReply) => t = { s with log := t.log, free := t.free, xlast := some a }
    let inH := fun (x : Nat) => decide (rH ≤ x) && decide (x < rH + regionSize)
    (32 ≤ st → exec (.launchContextStart st) s = .fault .noSuchPlace ∧ exec (.xRemoteRequest st part ha w n) s = .fault .noSuchPlace ∧
      exec (.ringDieReset st) s = .fault .noSuchPlace ∧ exec (.dieLoss st) s = .fault .noSuchPlace) ∧
    (st < 32 → (∀ o ∈ s.hub.launches, o.station = st → o.started = true) → exec (.launchContextStart st) s = .next s) ∧
    (st < 32 → s.hub.launches = [l] → l.station = st → l.started = false → s.launchCore st l.part = some k → (s.getCore k).launchCtx = [] →
      (s.getCore k).between = true → ∃ t x, exec (.launchContextStart st) s = .next t ∧ (t.getCore k).launchCtx = [x] ∧
        x.r = { (s.getCore k).ctx.r with bank := x.r.bank } ∧ x.f.pc = (s.getCore k).ctx.f.pc ∧ (t.getCore k).ctx.f.pc = 64 * l.entry ∧ (t.getCore k).ctx.f.level = 1 ∧
        (t.getCore k).ctx.f.part = l.part ∧ (t.getCore k).ctx.f.tvec = (s.getCore k).ctx.f.tvec ∧ (t.getCore k).gap = 48 ∧
        (t.getCore k).ctx.csr.taskInfo = BitVec.ofNat 64 (3 + if l.admitted then 4 * l.rqix + 1024 else 0) ∧
        (t.getCore k).ctx.csr.taskArg = BitVec.ofNat 64 l.arg ∧ t.hub.launches = [{ l with started := true }] ∧
        (∀ j, j ≠ k → t.getCore j = s.getCore j) ∧ SameBytes s t) ∧
    (st < 32 → s.ring.fenced.testBit st = true → ∃ t, exec (.xRemoteRequest st part ha w n) s = .next t ∧ answered t .refused ∧ Logged s t 6 ha.toNat none) ∧
    (st < 32 → s.ring.fenced.testBit st = false → hValid e = false → exec (.xRemoteRequest st part ha w n) s = .next { s with xlast := some .refused }) ∧
    (st < 32 → s.ring.fenced.testBit st = false → hValid e = true → h ≠ 7 → hPart e ≠ part.toNat → ∃ t, exec (.xRemoteRequest st part ha w n) s = .next t ∧ answered t .refused ∧ Logged s t 5 ha.toNat none) ∧
    (st < 32 → s.ring.fenced.testBit st = false → hSpace e = spD → checkAt e .ce part.toNat h (haOff ha.toNat) n false true [spD, spK, spG, spH] = none → bs.length = n →
      ∃ t, exec (.xRemoteRequest st part ha (some bs) n) s = .next t ∧ SameRegs s t ∧ (∀ j < n, t.rd1 (key + j) = bs.getD j 0) ∧
        SameBytesBut (keysFrom key n) s t ∧ t.xlast = some .ack) ∧
    (st < 32 → s.ring.fenced.testBit st = false → hSpace e = spD → checkAt e .ce part.toNat h (haOff ha.toNat) n true false [spD, spK, spS, spG, spH] = none →
      ∃ d, d.length = n ∧ exec (.xRemoteRequest st part ha none n) s = .next { s with xlast := some (.data d) } ∧
        (key + n ≤ rK 0 → ∀ j < n, d.getD j 0 = s.rd1 (key + j))) ∧
    exec (.ethernetForeignFrame et) s = .next s ∧
    (st < 32 → s.ring.fenced.testBit st = false → exec (.ringDieReset st) s = .next s) ∧
    (st < 32 → s.ring.fenced.testBit st = true → ∃ t, exec (.ringDieReset st) s = .next t ∧ (∀ x, dieKey st x = true → t.rd1 x = 0) ∧
      (s.durq = [] → (∀ j, j / 48 = st → ∀ x ∈ (s.getCore j).contexts, x.rp = none) → t.dom = s.dom ∧ ∀ x, dieKey st x = false → t.rd1 x = s.rd1 x) ∧
      t.hub = s.hub ∧
      (∀ j, j / 48 = st → (t.getCore j).ctx.r = {} ∧ (t.getCore j).ctx.f.pc = 0) ∧ ∀ j, j / 48 ≠ st → t.getCore j = s.getCore j) ∧
    (st < 32 → ∃ t, exec (.dieLoss st) s = .next t ∧ (∀ x, dieKey st x = true → t.rd1 x = 0) ∧
      (s.durq = [] → (∀ j, j / 48 = st → ∀ x ∈ (s.getCore j).contexts, x.rp = none) → t.dom = s.dom ∧ ∀ x, dieKey st x = false → t.rd1 x = s.rd1 x) ∧
      (∀ j, j / 48 = st → (t.getCore j).ctx.r = {} ∧ (t.getCore j).ctx.f.pc = 0) ∧ ∀ j, j / 48 ≠ st → t.getCore j = s.getCore j) ∧
    (∃ t, exec .powerOn s = .next t ∧ (∀ x, t.rd1 x = if inH x then s.rd1 x else 0) ∧ t.core = State.reset.core ∧ t.hub = State.reset.hub ∧
      t.dom = [] ∧ t.rdir = [] ∧ t.ring = State.reset.ring ∧ t.log = State.reset.log) ∧
    (s.mbRuns 10 = false → exec .mbWarmReset s = .next s) ∧
    (s.mbRuns 10 = true → ∃ t, exec .mbWarmReset s = .next t ∧ t.core = State.reset.core ∧ t.rdir = s.rdir ∧ t.recdir = s.recdir ∧
      t.hub = { State.reset.hub with warm := true } ∧ t.stroke = 0 ∧ t.handles = [] ∧ t.pond = [] ∧
      ((∀ j ∈ s.coreNos, ∀ x ∈ (s.getCore j).contexts, x.rp = none) → s.durq = [] → t.dom = s.dom ∧
        (∀ x, (∀ p ∈ s.past, p.1 ≠ x) → t.rd1 x = if inH x || inKeep x then s.rd1 x else 0) ∧
        ((s.past.map (·.1)).Nodup → ∀ p ∈ s.past, inKeep p.1 = true → t.rd1 p.1 = s.rd1 p.1 ∨ t.rd1 p.1 ∈ p.2)))

/-- 18 R422, R424; 11 R276, R278; 01 R15, R18, R19; 15 R372: each mailbox command acts once, for its own code, and leaves its RESULT: 2 for
an argument that does not exist, 1 where the state forbids it, 0 where it is done; at its end BUSY clears and DONE counts, with REFCNT
for a refusal. The layout of a model image, the RESULTs that R424 does not name, and that the requests of a fenced die are held in REST, or FREE
where they have no recovery point, are the model's choices (log 90, 96 to 98, 132). -/
def Obligations.MailboxCommands : Prop :=
  ∀ (s : State) (i : Instr) (code r : Nat),
    let h := s.hub
    let a := h.arg0.toNat
    let b := h.arg1.toNat
    let done := fun (t : State) (q : Nat) => t.hub.busy = h.busy ∧ t.hub.cmd = h.cmd ∧ t.hub.ended = some q ∧ t.hub.done = h.done ∧ t.hub.result = h.result
    (((i = .mbLoadModel ∧ code = 2) ∨ (i = .mbUnload ∧ code = 3) ∨ (i = .mbFenceStation ∧ code = 4) ∨ (i = .mbRestartRing ∧ code = 5) ∨
      (i = .mbAttest ∧ code = 6) ∨ (i = .mbSetPowerCap ∧ code = 7) ∨ (i = .mbAllotCluster ∧ code = 8) ∨ (i = .mbSetPeer ∧ code = 9)) →
      s.mbRuns code = false → exec i s = .next s) ∧
    (s.mbRuns 2 = true → ∃ t, exec .mbLoadModel s = .next t ∧ t.core = s.core ∧ SameBytes s t ∧
      (b / 4 % 2 ^ 14 < 32 ∨ 9216 < b / 4 % 2 ^ 14 ∨ b / 2 ^ 16 % 2 ^ 14 < 32 ∨ 9216 < b / 2 ^ 16 % 2 ^ 14 → done t 2 ∧ t.ring = s.ring) ∧
      (∀ l, l = s.imageAt (b % 4) a 18433 → s.loadResult (b % 4) (b / 4 % 2 ^ 14) (b / 2 ^ 16 % 2 ^ 14) l = 0 → done t 0 ∧
        t.ring.images = s.ring.images ++ l ∧ t.ring.todo = s.ring.todo ++ l.map (fun g => (g, 1)) ∧ t.ring.running = true ∧
        (s.ring.running = false → t.ring.pe = b / 4 % 2 ^ 14 ∧ t.ring.pw = b / 2 ^ 16 % 2 ^ 14))) ∧
    (s.mbRuns 3 = true → ∃ t, exec .mbUnload s = .next t ∧ done t 0 ∧ t.core = s.core ∧ SameBytes s t ∧ t.ring.images.all (fun g => !(g.gen == a % 2 ^ 16 && g.part == b % 4)) = true ∧
      (∀ g ∈ s.ring.images, ¬(g.gen = a % 2 ^ 16 ∧ g.part = b % 4) → g ∈ t.ring.images) ∧
      (∀ q p, (q, some p) ∈ s.pond → (q, some { p with drop := p.drop || (p.seg.gen == a % 2 ^ 16 && p.seg.part == b % 4) }) ∈ t.pond)) ∧
    (s.mbRuns 4 = true →
      (s.ring.fenced.testBit (a % 32) = true → exec .mbFenceStation s = .next { s with hub := { h with ended := some 1 } }) ∧
      (s.ring.fenced.testBit (a % 32) = false → ∃ t, exec .mbFenceStation s = .next t ∧ t.hub.ended = some 0 ∧ t.ring.fenced = s.ring.fenced ||| 2 ^ (a % 32) ∧
        (∀ l ∈ t.hub.launches, l.station ≠ a % 32) ∧ (∀ l ∈ h.launches, l.station ≠ a % 32 → l ∈ t.hub.launches) ∧
        t.pond = s.pond ∧ t.ring.bridged = s.ring.bridged ∧
        (∀ q < 256, let e := (s.die (a % 32)).req q
          e.state ≠ 0 → ((t.die (a % 32)).req q).state = (if (Tab.get {} s.rdir (256 * (4 * (a % 32) + e.part) + q)).valid then 6 else 0)) ∧
        (s.ring.fenced.testBit ((a % 32 + 1) % 32) = true ∨ s.ring.fenced.testBit ((a % 32 + 31) % 32) = true → t.ring.stopped = true))) ∧
    (s.mbRuns 5 = true →
      (s.ring.fenced = 0 → s.ring.stopped = false → h.warm = false → exec .mbRestartRing s = .next { s with hub := { h with ended := some 1 } }) ∧
      (s.ring.fenced ≠ 0 ∨ s.ring.stopped = true ∨ h.warm = true → ∃ t, exec .mbRestartRing s = .next t ∧ t.hub.ended = some 0 ∧ t.hub.warm = false ∧
        t.ring.fenced = 0 ∧ t.ring.stopped = false ∧ t.ring.rotE = 0 ∧ t.ring.rotW = 0 ∧ t.ring.todo = s.ring.images.map (fun g => (g, 2)) ∧
        (s.ring.pe ≠ 0 → t.ring.running = true))) ∧
    (s.mbRuns 6 = true → ∃ t, exec .mbAttest s = .next t ∧ done t 0 ∧ t.core = s.core ∧ t.mem = s.mem ∧
      (∀ j < 64, Tab.get 0 t.hub.evid j = Tab.get 0 h.evid j) ∧
      (∀ m < 3, ∀ j < 64, (Tab.get 0 t.hub.evid (64 + 64 * m + j)).toNat = (h.meas.getD m 0).toNat / 256 ^ j % 256) ∧
      ∀ j < 8, (Tab.get 0 t.hub.evid (256 + j)).toNat = hubId / 256 ^ j % 256) ∧
    (s.mbRuns 7 = true →
      (192 ≤ a % 256 → exec .mbSetPowerCap s = .next { s with hub := { h with ended := some 2 } }) ∧
      (a % 256 < 192 → ∃ t, exec .mbSetPowerCap s = .next t ∧ done t 0 ∧ (Tab.get {} t.clusters (a % 256)).pow.capw = b % 2 ^ 16 ∧ t.core = s.core ∧
        t.mem = s.mem ∧ ∀ n, n ≠ a % 256 → Tab.get {} t.clusters n = Tab.get {} s.clusters n)) ∧
    (s.mbRuns 8 = true →
      (192 ≤ a % 256 → exec .mbAllotCluster s = .next { s with hub := { h with ended := some 2 } }) ∧
      (a % 256 < 192 → ∃ t, exec .mbAllotCluster s = .next t ∧
        ((done t 1 ∧ t = { s with hub := t.hub, log := t.log, free := t.free } ∧ Logged s t 8 (Config.barBase 2 + 0x48) none) ∨
         (done t 0 ∧ (Tab.get {} t.clusters (a % 256)).owner = b % 16 ∧ (∀ n, n ≠ a % 256 → Tab.get {} t.clusters n = Tab.get {} s.clusters n) ∧
           (∀ k, k / 8 ≠ a % 256 → t.getCore k = s.getCore k) ∧ ((∀ j < 8, ∀ x ∈ (s.getCore (8 * (a % 256) + j)).contexts, x.rp = none) → ∀ x, x / regionSize / 32 ≠ a % 256 → t.rd1 x = s.rd1 x) ∧
           ∀ p < 4, (b % 16).testBit p = true → ∀ j < 7, hValid (t.hEnt (a % 256 / 6) p j) = true)) ∧
        (∀ p < 4, (Tab.get {} s.clusters (a % 256)).owner.testBit p = true → (b % 16).testBit p = false → s.drained (a % 256) p = false → done t 1))) ∧
    (s.mbRuns 9 = true → ∃ t, exec .mbSetPeer s = .next t ∧ done t 0 ∧ Tab.get 0 t.peers (a % 2 ^ 12) = (h.arg1 ++ h.arg0 : BitVec 128) ∧
      ∀ n, n ≠ a % 2 ^ 12 → Tab.get 0 t.peers n = Tab.get 0 s.peers n) ∧
    (h.busy = true → h.ended = none → h.cmd = 0 ∨ 11 ≤ h.cmd → exec .mbInvalidCode s = .next { s with hub := { h with ended := some 2 } }) ∧
    (h.busy = false ∨ h.ended ≠ none ∨ (1 ≤ h.cmd ∧ h.cmd ≤ 10) → exec .mbInvalidCode s = .next s) ∧
    (h.busy = false ∨ h.ended = none → exec .mailboxComplete s = .next s) ∧
    (h.busy = true → h.ended = some r → exec .mailboxComplete s = .next { s with hub := { h with
      busy := false, ended := none, result := r, done := h.done + 1, refcnt := h.refcnt + if r = 0 then 0 else 1 } })

/-- 04 R81 to R85: a result lands in its register at its due cycle, once its value is there; a later result does not; of a vector register
just the bits of its mask are written; a result marked X goes to its transient window, and no register is written. -/
def Obligations.ResultsLand : Prop :=
  ∀ (s : State), ∃ t, exec .resultLanding s = .next t ∧ SameBytes s t ∧ t.core.ctx.f = s.core.ctx.f ∧ t.core.trap = s.core.trap ∧
    (let x := s.core.ctx
     let ripe := fun (p : Pend) => decide (p.due ≤ s.core.icyc) && p.there s.core.ccyc
     (∀ n, (∀ p ∈ x.fl.pend, p.dst = ⟨.s, n⟩ → ripe p = true → p.x = true) → Tab.get 0 t.core.ctx.r.s n = Tab.get 0 x.r.s n) ∧
     (∀ n, (∀ p ∈ x.fl.pend, p.dst = ⟨.p, n⟩ → ripe p = true → p.x = true) → Tab.get 0 t.core.ctx.r.p n = Tab.get 0 x.r.p n) ∧
     (∀ n, Tab.get .off x.r.bank (n / 16) ≠ .off → (∀ p ∈ x.fl.pend, p.dst = ⟨.v, n⟩ → ripe p = true → p.x = true) →
       Tab.get 0 t.core.ctx.r.v n = Tab.get 0 x.r.v n) ∧
     (∀ p, ripe p = true → p.x = false → p.alts = [] → x.fl.pend.filter (fun o => o.dst == p.dst) = [p] →
       (p.dst.file = .s → p.dst.reg ≠ 0 → Tab.get 0 t.core.ctx.r.s p.dst.reg = p.val.setWidth 64) ∧
       (p.dst.file = .p → p.dst.reg ≠ 0 → Tab.get 0 t.core.ctx.r.p p.dst.reg = p.val.setWidth 64) ∧
       (p.dst.file = .v → Tab.get .off x.r.bank (p.dst.reg / 16) ≠ .off → ∀ b < 512, (Tab.get 0 t.core.ctx.r.v p.dst.reg).getLsbD b =
         if p.mask.getLsbD b then p.val.getLsbD b else (Tab.get 0 x.r.v p.dst.reg).getLsbD b) ∧
       (∀ o ∈ t.core.ctx.fl.pend, o.dst ≠ p.dst)) ∧
     (∀ p ∈ x.fl.pend, p.x = false → ripe p = false → ∃ o ∈ t.core.ctx.fl.pend, o.dst = p.dst ∧ o.val = p.val ∧ o.due = p.due ∧ o.unit = p.unit))

/-- 02 R32 to R48 and the worked encodings of the chapters: words written out from the spec's encodings decode to the instructions they
stand for. -/
def Obligations.DecodedWords : Prop :=
  decodeB 0x0457FFFE = some (.brZ 5 0x7FFFE) ∧ decodeB 0x2C830003 = some (.tsbAny 2 3 3) ∧ decodeB 0x24003001 = some (.loopSeti 0 3 1) ∧
  decodeB 0x48301A00 = some (.csrr 3 0x1A) ∧ decodeB 0x4C901800 = some (.csrw 0x18 9) ∧ decodeB 0x3800002A = some (.trap 0x2A) ∧
  decodeM 0x0472090500000000 = some (.div 7 8 9) ∧ decodeM 0x1050000012345678 = some (.lih 5 0x12345678) ∧
  decodeM 0x2040513004010002 = some (.vld { v := 0x10, base := 5, h := 1, w := 3, stride := 4, off := 16, handle := 2 }) ∧
  decodeM 0x1851800700000800 = some (.ld .d 5 6 1 8) ∧ decodeM 0x2C51870010A00000 = some (.amo .add true .die 5 6 7 1 0) ∧
  decodeM 0x4C81870010004000 = some (.dstc 8 6 7 1 0x40) ∧ decodeM 0x4802400000000000 = some (.hinv 9) ∧
  decodeV 0x61D00000000FC000 = some (.vred .sum { ty := .f32, d := 64, a := 0, b := 0, c := 0, h := 3, w := 15, pred := 0, da := false, rnd := .rne, sat := false }) ∧
  decodeE 0x1005000004000001 = some (.cbWait 5 1 false 1 0) ∧ decodeE 0x1C0028B300000045 = some (.mm 5 true 10 11 12) ∧
  decodeE 0x2C0528B300000000 = some (.cp { ver := false, whole := false, ph := false, dcb := false, scb := false } 0 5 10 11 12) ∧
  decodeE 0x4C4028B000000000 = some (.tlPub .ce 10 11) ∧ decodeE 0x5405180000000002 = some (.kvApp 5 6 2 0) ∧
  decodeE 0x7805006000000003 = some (.arrWait 5 6 3) ∧ decodeE 0x9407209000000000 = some (.rqNextAdv 7 8 9) ∧
  decodeE 0xA445006000000000 = some (.bar .die 5 6) ∧ decodeE 0xAC45209000000000 = some (.bltPost 5 8 9) ∧
  decodeE 0xB845180000000000 = some (.ctxSpill 5 6) ∧ decodeE 0xBC4000000002FF00 = some (.bankBuf .off .w 0xFF00)

/-- A step runs the decoded bundle (04 R80, R93, R94): where no action of the outside world is due, no unit has work, nothing is in flight
and nothing stops the core at this boundary, the bundle whose bytes lie in the cached block at PC issues: its operations act, and the
bundle's cycle is closed. With one operation and three `nop`s that is `exec` of the operation. One core in focus and the agenda are the
model's own (log 6, 9). -/
def Obligations.StepRunsBundle : Prop :=
  ∀ (s : State) (line : BitVec 512) (b : Bundle),
    let c := s.core
    let f := c.ctx.f
    let l := s.thaw.latch { headerIss b true with ctr := some (c.ctr.less c.frz.own) }
    let close := fun (t : State) => (t.closeIssue f.pc c.ctx.stepArmed).fresh
    s.agenda = [] → s.work = [] → c.ahead = [] → c.halted = false → s.cluster.owner ≠ 0 → c.ctx.fl.pend = [] → c.ctx.fl.trans = [] → c.ctx.fl.defer = [] →
    c.ctx.fl.vp = [] → c.ctx.fl.lately = [] → c.gap = 0 → c.err = none → c.frz.run < 65536 → c.swap = none → c.pswap = none → (∀ x ∈ c.endedCtx, x.meq = [] ∧ x.atq = []) → s.launchOver = false → c.ctx.pending = [] →
    c.bar = none → c.holdCmd = none → f.idle = false → c.ctx.task.ending = false →
    f.highPc = 0 → s.fetchFault f.pc = false → Tab.get none s.cluster.lines (lineKey s.part f.codeh.toNat (f.pc / 64)) = some line →
    decodeBundleBits (if f.pc / 32 % 2 = 1 then line.extractLsb' 256 256 else line.extractLsb' 0 256) = .ok b →
    (s.latch (headerIss b false)).readyBundle b = .go b →
    step s = andThen (l.slots b) (fun t => .next (close t)) ∧
    (b.m = .nop → b.v = .nop → b.e = .nop → isTsb b.b = false → readsFirst b.b = false →
      step s = andThen (exec b.b (l.bankSteps b.hdr)) (fun t => .next (close t))) ∧
    (b.m = .nop → b.v = .nop → b.e = .nop → readsFirst b.b = true → step s = andThen (exec b.b l) (fun t => .next (close (t.bankSteps b.hdr)))) ∧
    (b.b = .nop → b.v = .nop → b.e = .nop → step s = andThen (exec b.m l) (fun t => .next (close (t.bankSteps b.hdr)))) ∧
    (b.b = .nop → b.m = .nop → b.e = .nop → step s = andThen (exec b.v l) (fun t => .next (close (t.bankSteps b.hdr)))) ∧
    (b.b = .nop → b.m = .nop → b.v = .nop → step s = andThen (exec b.e (l.bankSteps b.hdr)) (fun t => .next (close t))) ∧
    (∀ t, t.core.iss.taken = none → t.core.ctx.f.skip = none → (close t).core.ctx.f.pc = (f.pc + 32) % 2 ^ 48 ∧
      (close t).core.icyc = t.core.icyc + 1 ∧ (close t).core.ctr.issN = t.core.ctr.issN + 1 ∧ (close t).core.bundles = t.core.bundles + 1) ∧
    (∀ t n, t.core.iss.taken = some n → (close t).core.ctx.f.pc = t.core.ctx.f.pc ∧ (close t).core.gap = n - 1)

/-- 02 R32 to R48: for every well-formed instruction with an encoding, the decoder reads back the word that the encoder writes, with every
operand. -/
def Obligations.RoundTrip : Prop :=
  ∀ (i : Instr) (w : SlotWord), i.wf = true → encode i = some w → decodeSlot w = some i

/-- The invariant of the model's own memory: no step, of a bundle, of a unit or of the outside world, breaks the canonical form. The list of
cells and what an unlisted byte reads as are the model's choices (log 1, 107). -/
def Obligations.MemoryStaysCanonical : Prop :=
  ∀ (s t : State), s.memWf → step s = .next t → t.memWf

/-- 16 R383; 18 R422; 01 R25; 09 R203; 12 R287; 11 R258; 04 R91, R109: after reset memory lists nothing and has its canonical form; the trap
CSRs, the counters, the log, the hub, the ring and the tables hold the values the spec gives; every register without one is 0 (log 2).
The values that the spec leaves out, of memory (log 1) and of registers (log 2), and which core is in focus with what privilege (log 4), are the
model's choices. -/
def Obligations.ResetState : Prop :=
  let s := State.reset
  s.memWf ∧ (∀ k, s.rd1 k = 0) ∧ s.core.trap.cause = 0xE00 ∧ s.core.trap.qctl = 0 ∧ s.core.ctx.f.rotlo = 16 ∧ s.core.ctx.f.rotb = 0 ∧
  s.core.ctx.f.level = 1 ∧ s.core.ctx.f.act = false ∧ s.core.ctx.f.step = false ∧ s.core.ctx.f.brken = false ∧ s.core.ctr = {} ∧
  (∀ n, Tab.get 0 s.core.ctx.r.s n = 0 ∧ Tab.get 0 s.core.ctx.r.p n = 0 ∧ Tab.get 0 s.core.ctx.r.v n = 0 ∧ Tab.get 0 s.core.ctx.r.l n = 0 ∧
    Tab.get .off s.core.ctx.r.bank n = .off) ∧
  s.hub.phase = 1 ∧ s.hub.fail = 0 ∧ s.hub.busy = false ∧ s.hub.result = 0 ∧ s.hub.kapbase = 0 ∧ s.log.head = 0 ∧ s.log.tail = 0 ∧ s.log.ovf = 0 ∧
  s.ring.fenced = 0 ∧ s.ring.running = false ∧ s.stroke = 0 ∧ (∀ st p h, hValid (s.hEnt st p h) = false) ∧
  (∀ st r, ((s.die st).req r).state = 0) ∧ s.hub.launches = [] ∧ s.hub.rcv = []
end

