-- ==== Sys2Proof/Laws/Issue.lean ====
section
/-! SUPPORT. What the shared operations of issue do: results in flight, the issue of an operation, commands. -/

namespace Sys2Proof.Machine

/-! ### Results in flight -/

theorem reg_toNat_eq_zero (d : Reg) : d.toNat = 0 ↔ d = 0 := by
  constructor
  · intro h
    exact BitVec.eq_of_toNat_eq (by simpa using h)
  · rintro rfl
    rfl

/-- A result of a scalar register is the one record of `plusResult`. -/
theorem result_eq (s : State) (k : Slot) (d : Reg) (v : Word) (lat : Nat) (u : Option Nat) :
    s.result k ⟨.s, d.toNat⟩ (v.setWidth 512) (BitVec.allOnes 512) lat u = s.plusResult k d v lat u := by
  unfold State.result State.push State.plusResult State.resultOf State.qOf State.xOf
  by_cases h : d = 0
  · subst h
    by_cases hq : (s.core.iss.q.getLsbD k.ix && !s.core.iss.now) = true
    · simp [hq, State.mapFl, State.mapCtx, State.mapCore]
    · simp only [Bool.not_eq_true] at hq
      simp [hq]
  · have h' : d.toNat ≠ 0 := fun e => h ((reg_toNat_eq_zero d).1 e)
    simp only [h, h', false_and, if_false, decide_false, Bool.false_and, Bool.false_eq_true]
    rfl

/-- A scalar result is the one record of `plusResult`. -/
theorem setS_eq (s : State) (k : Slot) (d : Reg) (v : Word) (lat : Nat) : s.setS k d v lat = s.plusResult k d v lat :=
  result_eq s k d v lat none

/-- So is a result that a unit delivers. -/
theorem awaitS_eq (s : State) (k : Slot) (d : Reg) (lat n : Nat) : s.awaitS k d lat n = s.plusResult k d 0 lat (some n) := by
  have h0 : (0 : Vec) = (0 : Word).setWidth 512 := by simp
  unfold State.awaitS
  rw [h0, result_eq]

theorem alu2_eq (s : State) (d a b : Reg) (lat : Nat) (f : Word → Word → Word) :
    s.alu2 d a b lat f = s.plusResult .m d (f (s.rs (srcTag .m 0) a) (s.rs (srcTag .m 1) b)) lat := by
  simp only [State.alu2, setS_eq]

theorem alu1_eq (s : State) (d a : Reg) (lat : Nat) (f : Word → Word) :
    s.alu1 d a lat f = s.plusResult .m d (f (s.rs (srcTag .m 0) a)) lat := by
  simp only [State.alu1, setS_eq]

@[simp] theorem plusResult_mem (s : State) (k : Slot) (d : Reg) (v : Word) (lat : Nat) (u : Option Nat) :
    (s.plusResult k d v lat u).mem = s.mem := by
  unfold State.plusResult
  split <;> rfl

@[simp] theorem plusResult_regs (s : State) (k : Slot) (d : Reg) (v : Word) (lat : Nat) (u : Option Nat) :
    (s.plusResult k d v lat u).core.ctx.r = s.core.ctx.r := by
  unfold State.plusResult
  split <;> rfl

@[simp] theorem plusResult_flow (s : State) (k : Slot) (d : Reg) (v : Word) (lat : Nat) (u : Option Nat) :
    (s.plusResult k d v lat u).core.ctx.f = s.core.ctx.f := by
  unfold State.plusResult
  split <;> rfl

/-! ### Issue -/

@[simp] theorem thaw_mustDefer (s : State) (i : Instr) : s.thaw.mustDefer i = s.mustDefer i := rfl

/-- The freeze line and the waits do not enter what an operation reads. -/
@[simp] theorem thaw_rs (s : State) (k : Nat) (r : Reg) : s.thaw.rs k r = s.rs k r := rfl
@[simp] theorem thaw_rp (s : State) (k q : Nat) : s.thaw.rp k q = s.rp k q := rfl
@[simp] theorem thaw_rv (s : State) (k v : Nat) : s.thaw.rv k v = s.rv k v := rfl
@[simp] theorem thaw_arg (s : State) (i : Instr) (k : Nat) : s.thaw.arg i k = s.arg i k := rfl
@[simp] theorem thaw_mem (s : State) : s.thaw.mem = s.mem := rfl
@[simp] theorem thaw_ctx (s : State) : s.thaw.core.ctx = s.core.ctx := rfl

theorem begun_eq (s : State) : s.begun = s ∨ s.begun = s.thaw := by
  unfold State.begun
  split
  · exact .inl rfl
  · exact .inr rfl

@[simp] theorem begun_mustDefer (s : State) (i : Instr) : s.begun.mustDefer i = s.mustDefer i := by
  rcases begun_eq s with h | h <;> rw [h] <;> rfl
@[simp] theorem begun_rs (s : State) (k : Nat) (r : Reg) : s.begun.rs k r = s.rs k r := by
  rcases begun_eq s with h | h <;> rw [h] <;> rfl
@[simp] theorem begun_rp (s : State) (k q : Nat) : s.begun.rp k q = s.rp k q := by
  rcases begun_eq s with h | h <;> rw [h] <;> rfl
@[simp] theorem begun_arg (s : State) (i : Instr) (k : Nat) : s.begun.arg i k = s.arg i k := by
  rcases begun_eq s with h | h <;> rw [h] <;> rfl
@[simp] theorem begun_mem (s : State) : s.begun.mem = s.mem := by
  rcases begun_eq s with h | h <;> rw [h] <;> rfl
@[simp] theorem begun_ctx (s : State) : s.begun.core.ctx = s.core.ctx := by
  rcases begun_eq s with h | h <;> rw [h] <;> rfl
@[simp] theorem begun_iss (s : State) : s.begun.core.iss = s.core.iss := by
  rcases begun_eq s with h | h <;> rw [h] <;> rfl

/-- What has no hold is not held. -/
theorem holds_of_hold {fam : Family} {i : Instr} {s : State} (h : fam.hold i s = none) : fam.holds i s = none := by
  unfold Family.holds
  rw [h]
  split <;> rfl

/-- An admitted operation has its effect. -/
theorem issue_of_admits {fam : Family} {i : Instr} (lat : State → Nat) (eff : State → State) {s : State} (h : s.admits i)
    (hf : fam = familyOf i := by rfl) : issue fam i lat eff s = .next (eff s.begun) := by
  obtain ⟨hd, hc⟩ := h
  subst hf
  unfold issue State.begun
  by_cases hk : s.core.iss.checked = true
  · simp [hk, hd]
  · obtain hk' | ⟨h1, h2, h3⟩ := hc
    · exact absurd hk' hk
    · simp [hk, h1, h2, holds_of_hold h3, hd]

/-- An operation with Q, its bundle's checks made, goes aside with its operands. -/
theorem issue_of_defers {fam : Family} {i : Instr} (lat : State → Nat) (eff : State → State) {s : State} (h : s.defers i) :
    issue fam i lat eff s = .next (s.deferOp fam i (lat s)) := by
  obtain ⟨hk, hd⟩ := h
  simp [issue, hk, hd]

/-- A fault before issue is taken as a trap. -/
theorem issue_of_fault {fam : Family} {i : Instr} (lat : State → Nat) (eff : State → State) {s : State} {t : TrapInfo}
    (hk : s.core.iss.checked = false) (hp : privFault i s = none) (hq : s.qOf (slotOf i) = false) (hf : fam.fault i s = some t) :
    issue fam i lat eff s = .next (s.trapNow t) := by
  simp [issue, hk, hp, hq, hf]

/-- A privilege fault is taken as a trap. -/
theorem issue_of_privFault {fam : Family} {i : Instr} (lat : State → Nat) (eff : State → State) {s : State} {t : TrapInfo}
    (hk : s.core.iss.checked = false) (hp : privFault i s = some t) : issue fam i lat eff s = .next (s.trapNow t) := by
  simp [issue, hk, hp]

end Sys2Proof.Machine
end

