-- ==== Sys2Proof/Laws/Branch.lean ====
section
/-! SUPPORT. What a taken branch does, and taking a trap. -/

namespace Sys2Proof.Machine

theorem blockAt_lt (s : State) (d : Int) : s.blockAt d < codeSpace := by
  unfold State.blockAt codeSpace
  omega

theorem blockAt_eq (s : State) (d : Int) : s.blockAt d = s.blockTarget d := by
  unfold State.blockAt State.blockTarget State.own
  omega

@[simp] theorem begun_blockAt (s : State) (d : Int) : s.begun.blockAt d = s.blockTarget d := by
  rw [← blockAt_eq]
  rcases begun_eq s with h | h <;> rw [h] <;> rfl

@[simp] theorem begun_blockTarget (s : State) (d : Int) : s.begun.blockTarget d = s.blockTarget d := by
  rcases begun_eq s with h | h <;> rw [h] <;> rfl

theorem squash_pend (s : State) : s.squash.core.ctx.fl.pend = s.core.ctx.fl.pend.filter (fun p => !s.cancelled p) := by
  have h : ∀ p : Pend, (!(p.q && (decide (p.iat ≤ s.core.icyc) && decide (s.core.icyc < p.due)))) = !s.cancelled p := by
    intro p
    rw [State.cancelled, Bool.and_assoc]
  simp only [State.squash]
  split <;> exact List.filter_congr (fun p _ => h p)

/-- A squash leaves the stream and all that is outside the core. -/
theorem squash_rest (s : State) : s.squash.core.ctx.f = s.core.ctx.f ∧ s.squash.core.ctx.r = s.core.ctx.r ∧ s.squash.core.iss = s.core.iss ∧
    s.squash.core.trap = s.core.trap ∧ s.squash.core.ctr.tknN = s.core.ctr.tknN ∧ OnlyCore s s.squash := by
  simp only [State.squash, OnlyCore]
  split <;> exact ⟨rfl, rfl, rfl, rfl, rfl, rfl⟩

/-- A taken branch is what `Branched` says. -/
theorem branched_branch (s : State) (target : Nat) : Branched s (s.branch target) target [] := by
  obtain ⟨h1, h2, h3, h4, h5, h6⟩ := squash_rest s
  refine ⟨?_, ?_, ?_, ?_, h2, h4, ?_⟩
  · rw [← h1]
    rfl
  · rw [← h3]
    rfl
  · rw [← h5]
    rfl
  · rw [List.append_nil, ← squash_pend]
    rfl
  · have h7 : s.squash = { s with core := s.squash.core } := h6
    unfold OnlyCore State.branch State.transfer
    rw [if_pos rfl, h7]
    rfl

/-- So is one that writes a link first. -/
theorem branched_link (s : State) (d : Reg) (v : Word) (target : Nat) (hd : d ≠ 0) :
    Branched s ((s.plusResult .b d v 1).branch target) target [s.resultOf .b d v 1 none] := by
  have h := branched_branch (s.plusResult .b d v 1) target
  unfold State.plusResult at h ⊢
  rw [if_neg (fun e => hd e.1)] at h ⊢
  obtain ⟨h1, h2, h3, h4, h5, h6, h7⟩ := h
  refine ⟨h1, h2, h3, ?_, h5, h6, ?_⟩
  · rw [h4, List.append_nil]
    rfl
  · unfold OnlyCore at h7 ⊢
    rw [h7]

/-! ### Traps -/

/-- Outside a handler and with a level of held writes free, a trap saves the stream and starts the handler. -/
theorem takeTrap_enters (s : State) (t : TrapInfo) (ha : s.core.ctx.f.act = false) (hh : s.core.ctx.held.length < 4) :
    let c := (s.takeTrap t).core
    let f := s.core.ctx.f
    c.trap.cause = t.causeWord f.level ∧ c.trap.detail = BitVec.ofNat 64 t.detail ∧ c.trap.addr = BitVec.ofNat 64 t.addr ∧
    c.trap.pc = BitVec.ofNat 64 (f.pc % 2 ^ 48 + f.codeh.toNat * 2 ^ 48) ∧
    c.trap.rot = BitVec.ofNat 64 (f.rotlo + f.rotb * 256) ∧
    c.ctx.f = { f with rotlo := 16, rotb := 0, codeh := f.tvec.extractLsb' 48 12, level := 1, act := true, pc := fld f.tvec 0 48,
                       highPc := 0, skip := none, idle := false } ∧
    c.ctx.held.length = s.core.ctx.held.length + 1 ∧ c.ctx.fl = {} ∧ c.gap = 24 ∧ c.ctr.trapsN = s.core.ctr.trapsN + 1 ∧
    c.ctx.r = s.core.ctx.r ∧ c.halted = s.core.halted ∧ (s.takeTrap t).mem = s.mem := by
  have h4 : ¬ 4 ≤ s.core.ctx.held.length := by omega
  unfold State.takeTrap
  simp [ha, h4, State.mapCore, State.endWalks, State.catchUp, Core.release, put]

/-- In a handler, or with four levels of held writes, a trap halts the core. -/
theorem takeTrap_halts (s : State) (t : TrapInfo) (h : s.core.ctx.f.act = true ∨ 4 ≤ s.core.ctx.held.length) :
    (s.takeTrap t).core.halted = true ∧ (s.takeTrap t).core.ctx.f = s.core.ctx.f ∧ (s.takeTrap t).core.ctx.r = s.core.ctx.r ∧
    (s.takeTrap t).core.ctr.trapsN = s.core.ctr.trapsN + 1 ∧ (s.takeTrap t).mem = s.mem := by
  unfold State.takeTrap
  rcases h with h | h <;>
    simp [h, State.mapCore, State.endWalks, State.catchUp, Core.release]

@[simp] theorem logFault_mem (s : State) (t : TrapInfo) : (s.logFault t).mem = s.mem := by
  unfold State.logFault State.logV
  split
  · split <;> rfl
  · rfl

@[simp] theorem logFault_core (s : State) (t : TrapInfo) : (s.logFault t).core = s.core := by
  unfold State.logFault State.logV
  split
  · split <;> rfl
  · rfl

end Sys2Proof.Machine
end

