-- ==== Sys2Proof/Laws/State.lean ====
section
/-! SUPPORT. One lemma for each field of State under each named update, true by unfolding. -/

namespace Sys2Proof.Machine

/-! ### State.mapCore -/

@[simp] theorem State.mapCore_core (s : State) (f : Core → Core) : (s.mapCore f).core = f s.core := rfl
@[simp] theorem State.mapCore_cix (s : State) (f : Core → Core) : (s.mapCore f).cix = s.cix := rfl
@[simp] theorem State.mapCore_others (s : State) (f : Core → Core) : (s.mapCore f).others = s.others := rfl
@[simp] theorem State.mapCore_clusters (s : State) (f : Core → Core) : (s.mapCore f).clusters = s.clusters := rfl
@[simp] theorem State.mapCore_mem (s : State) (f : Core → Core) : (s.mapCore f).mem = s.mem := rfl
@[simp] theorem State.mapCore_chk (s : State) (f : Core → Core) : (s.mapCore f).chk = s.chk := rfl
@[simp] theorem State.mapCore_handles (s : State) (f : Core → Core) : (s.mapCore f).handles = s.handles := rfl
@[simp] theorem State.mapCore_ptroot (s : State) (f : Core → Core) : (s.mapCore f).ptroot = s.ptroot := rfl
@[simp] theorem State.mapCore_tlb (s : State) (f : Core → Core) : (s.mapCore f).tlb = s.tlb := rfl
@[simp] theorem State.mapCore_walks (s : State) (f : Core → Core) : (s.mapCore f).walks = s.walks := rfl
@[simp] theorem State.mapCore_walkFault (s : State) (f : Core → Core) : (s.mapCore f).walkFault = s.walkFault := rfl
@[simp] theorem State.mapCore_tlbflVa (s : State) (f : Core → Core) : (s.mapCore f).tlbflVa = s.tlbflVa := rfl
@[simp] theorem State.mapCore_tlbflAll (s : State) (f : Core → Core) : (s.mapCore f).tlbflAll = s.tlbflAll := rfl
@[simp] theorem State.mapCore_tlbinv (s : State) (f : Core → Core) : (s.mapCore f).tlbinv = s.tlbinv := rfl
@[simp] theorem State.mapCore_log (s : State) (f : Core → Core) : (s.mapCore f).log = s.log := rfl
@[simp] theorem State.mapCore_dom (s : State) (f : Core → Core) : (s.mapCore f).dom = s.dom := rfl
@[simp] theorem State.mapCore_past (s : State) (f : Core → Core) : (s.mapCore f).past = s.past := rfl
@[simp] theorem State.mapCore_durq (s : State) (f : Core → Core) : (s.mapCore f).durq = s.durq := rfl
@[simp] theorem State.mapCore_kv (s : State) (f : Core → Core) : (s.mapCore f).kv = s.kv := rfl
@[simp] theorem State.mapCore_mirq (s : State) (f : Core → Core) : (s.mapCore f).mirq = s.mirq := rfl
@[simp] theorem State.mapCore_pfx (s : State) (f : Core → Core) : (s.mapCore f).pfx = s.pfx := rfl
@[simp] theorem State.mapCore_ring (s : State) (f : Core → Core) : (s.mapCore f).ring = s.ring := rfl
@[simp] theorem State.mapCore_pond (s : State) (f : Core → Core) : (s.mapCore f).pond = s.pond := rfl
@[simp] theorem State.mapCore_xlast (s : State) (f : Core → Core) : (s.mapCore f).xlast = s.xlast := rfl
@[simp] theorem State.mapCore_peers (s : State) (f : Core → Core) : (s.mapCore f).peers = s.peers := rfl
@[simp] theorem State.mapCore_dies (s : State) (f : Core → Core) : (s.mapCore f).dies = s.dies := rfl
@[simp] theorem State.mapCore_dparts (s : State) (f : Core → Core) : (s.mapCore f).dparts = s.dparts := rfl
@[simp] theorem State.mapCore_bars (s : State) (f : Core → Core) : (s.mapCore f).bars = s.bars := rfl
@[simp] theorem State.mapCore_hub (s : State) (f : Core → Core) : (s.mapCore f).hub = s.hub := rfl
@[simp] theorem State.mapCore_recdir (s : State) (f : Core → Core) : (s.mapCore f).recdir = s.recdir := rfl
@[simp] theorem State.mapCore_rdir (s : State) (f : Core → Core) : (s.mapCore f).rdir = s.rdir := rfl
@[simp] theorem State.mapCore_stroke (s : State) (f : Core → Core) : (s.mapCore f).stroke = s.stroke := rfl
@[simp] theorem State.mapCore_free (s : State) (f : Core → Core) : (s.mapCore f).free = s.free := rfl
@[simp] theorem State.mapCore_agenda (s : State) (f : Core → Core) : (s.mapCore f).agenda = s.agenda := rfl

/-! ### State.mapCtx -/

@[simp] theorem State.mapCtx_core (s : State) (f : Ctx → Ctx) : (s.mapCtx f).core = { s.core with ctx := f s.core.ctx } := rfl
@[simp] theorem State.mapCtx_cix (s : State) (f : Ctx → Ctx) : (s.mapCtx f).cix = s.cix := rfl
@[simp] theorem State.mapCtx_others (s : State) (f : Ctx → Ctx) : (s.mapCtx f).others = s.others := rfl
@[simp] theorem State.mapCtx_clusters (s : State) (f : Ctx → Ctx) : (s.mapCtx f).clusters = s.clusters := rfl
@[simp] theorem State.mapCtx_mem (s : State) (f : Ctx → Ctx) : (s.mapCtx f).mem = s.mem := rfl
@[simp] theorem State.mapCtx_chk (s : State) (f : Ctx → Ctx) : (s.mapCtx f).chk = s.chk := rfl
@[simp] theorem State.mapCtx_handles (s : State) (f : Ctx → Ctx) : (s.mapCtx f).handles = s.handles := rfl
@[simp] theorem State.mapCtx_ptroot (s : State) (f : Ctx → Ctx) : (s.mapCtx f).ptroot = s.ptroot := rfl
@[simp] theorem State.mapCtx_tlb (s : State) (f : Ctx → Ctx) : (s.mapCtx f).tlb = s.tlb := rfl
@[simp] theorem State.mapCtx_walks (s : State) (f : Ctx → Ctx) : (s.mapCtx f).walks = s.walks := rfl
@[simp] theorem State.mapCtx_walkFault (s : State) (f : Ctx → Ctx) : (s.mapCtx f).walkFault = s.walkFault := rfl
@[simp] theorem State.mapCtx_tlbflVa (s : State) (f : Ctx → Ctx) : (s.mapCtx f).tlbflVa = s.tlbflVa := rfl
@[simp] theorem State.mapCtx_tlbflAll (s : State) (f : Ctx → Ctx) : (s.mapCtx f).tlbflAll = s.tlbflAll := rfl
@[simp] theorem State.mapCtx_tlbinv (s : State) (f : Ctx → Ctx) : (s.mapCtx f).tlbinv = s.tlbinv := rfl
@[simp] theorem State.mapCtx_log (s : State) (f : Ctx → Ctx) : (s.mapCtx f).log = s.log := rfl
@[simp] theorem State.mapCtx_dom (s : State) (f : Ctx → Ctx) : (s.mapCtx f).dom = s.dom := rfl
@[simp] theorem State.mapCtx_past (s : State) (f : Ctx → Ctx) : (s.mapCtx f).past = s.past := rfl
@[simp] theorem State.mapCtx_durq (s : State) (f : Ctx → Ctx) : (s.mapCtx f).durq = s.durq := rfl
@[simp] theorem State.mapCtx_kv (s : State) (f : Ctx → Ctx) : (s.mapCtx f).kv = s.kv := rfl
@[simp] theorem State.mapCtx_mirq (s : State) (f : Ctx → Ctx) : (s.mapCtx f).mirq = s.mirq := rfl
@[simp] theorem State.mapCtx_pfx (s : State) (f : Ctx → Ctx) : (s.mapCtx f).pfx = s.pfx := rfl
@[simp] theorem State.mapCtx_ring (s : State) (f : Ctx → Ctx) : (s.mapCtx f).ring = s.ring := rfl
@[simp] theorem State.mapCtx_pond (s : State) (f : Ctx → Ctx) : (s.mapCtx f).pond = s.pond := rfl
@[simp] theorem State.mapCtx_xlast (s : State) (f : Ctx → Ctx) : (s.mapCtx f).xlast = s.xlast := rfl
@[simp] theorem State.mapCtx_peers (s : State) (f : Ctx → Ctx) : (s.mapCtx f).peers = s.peers := rfl
@[simp] theorem State.mapCtx_dies (s : State) (f : Ctx → Ctx) : (s.mapCtx f).dies = s.dies := rfl
@[simp] theorem State.mapCtx_dparts (s : State) (f : Ctx → Ctx) : (s.mapCtx f).dparts = s.dparts := rfl
@[simp] theorem State.mapCtx_bars (s : State) (f : Ctx → Ctx) : (s.mapCtx f).bars = s.bars := rfl
@[simp] theorem State.mapCtx_hub (s : State) (f : Ctx → Ctx) : (s.mapCtx f).hub = s.hub := rfl
@[simp] theorem State.mapCtx_recdir (s : State) (f : Ctx → Ctx) : (s.mapCtx f).recdir = s.recdir := rfl
@[simp] theorem State.mapCtx_rdir (s : State) (f : Ctx → Ctx) : (s.mapCtx f).rdir = s.rdir := rfl
@[simp] theorem State.mapCtx_stroke (s : State) (f : Ctx → Ctx) : (s.mapCtx f).stroke = s.stroke := rfl
@[simp] theorem State.mapCtx_free (s : State) (f : Ctx → Ctx) : (s.mapCtx f).free = s.free := rfl
@[simp] theorem State.mapCtx_agenda (s : State) (f : Ctx → Ctx) : (s.mapCtx f).agenda = s.agenda := rfl

/-! ### State.mapFlow -/

@[simp] theorem State.mapFlow_core (s : State) (f : Flow → Flow) : (s.mapFlow f).core = { s.core with ctx := { s.core.ctx with f := f s.core.ctx.f } } := rfl
@[simp] theorem State.mapFlow_cix (s : State) (f : Flow → Flow) : (s.mapFlow f).cix = s.cix := rfl
@[simp] theorem State.mapFlow_others (s : State) (f : Flow → Flow) : (s.mapFlow f).others = s.others := rfl
@[simp] theorem State.mapFlow_clusters (s : State) (f : Flow → Flow) : (s.mapFlow f).clusters = s.clusters := rfl
@[simp] theorem State.mapFlow_mem (s : State) (f : Flow → Flow) : (s.mapFlow f).mem = s.mem := rfl
@[simp] theorem State.mapFlow_chk (s : State) (f : Flow → Flow) : (s.mapFlow f).chk = s.chk := rfl
@[simp] theorem State.mapFlow_handles (s : State) (f : Flow → Flow) : (s.mapFlow f).handles = s.handles := rfl
@[simp] theorem State.mapFlow_ptroot (s : State) (f : Flow → Flow) : (s.mapFlow f).ptroot = s.ptroot := rfl
@[simp] theorem State.mapFlow_tlb (s : State) (f : Flow → Flow) : (s.mapFlow f).tlb = s.tlb := rfl
@[simp] theorem State.mapFlow_walks (s : State) (f : Flow → Flow) : (s.mapFlow f).walks = s.walks := rfl
@[simp] theorem State.mapFlow_walkFault (s : State) (f : Flow → Flow) : (s.mapFlow f).walkFault = s.walkFault := rfl
@[simp] theorem State.mapFlow_tlbflVa (s : State) (f : Flow → Flow) : (s.mapFlow f).tlbflVa = s.tlbflVa := rfl
@[simp] theorem State.mapFlow_tlbflAll (s : State) (f : Flow → Flow) : (s.mapFlow f).tlbflAll = s.tlbflAll := rfl
@[simp] theorem State.mapFlow_tlbinv (s : State) (f : Flow → Flow) : (s.mapFlow f).tlbinv = s.tlbinv := rfl
@[simp] theorem State.mapFlow_log (s : State) (f : Flow → Flow) : (s.mapFlow f).log = s.log := rfl
@[simp] theorem State.mapFlow_dom (s : State) (f : Flow → Flow) : (s.mapFlow f).dom = s.dom := rfl
@[simp] theorem State.mapFlow_past (s : State) (f : Flow → Flow) : (s.mapFlow f).past = s.past := rfl
@[simp] theorem State.mapFlow_durq (s : State) (f : Flow → Flow) : (s.mapFlow f).durq = s.durq := rfl
@[simp] theorem State.mapFlow_kv (s : State) (f : Flow → Flow) : (s.mapFlow f).kv = s.kv := rfl
@[simp] theorem State.mapFlow_mirq (s : State) (f : Flow → Flow) : (s.mapFlow f).mirq = s.mirq := rfl
@[simp] theorem State.mapFlow_pfx (s : State) (f : Flow → Flow) : (s.mapFlow f).pfx = s.pfx := rfl
@[simp] theorem State.mapFlow_ring (s : State) (f : Flow → Flow) : (s.mapFlow f).ring = s.ring := rfl
@[simp] theorem State.mapFlow_pond (s : State) (f : Flow → Flow) : (s.mapFlow f).pond = s.pond := rfl
@[simp] theorem State.mapFlow_xlast (s : State) (f : Flow → Flow) : (s.mapFlow f).xlast = s.xlast := rfl
@[simp] theorem State.mapFlow_peers (s : State) (f : Flow → Flow) : (s.mapFlow f).peers = s.peers := rfl
@[simp] theorem State.mapFlow_dies (s : State) (f : Flow → Flow) : (s.mapFlow f).dies = s.dies := rfl
@[simp] theorem State.mapFlow_dparts (s : State) (f : Flow → Flow) : (s.mapFlow f).dparts = s.dparts := rfl
@[simp] theorem State.mapFlow_bars (s : State) (f : Flow → Flow) : (s.mapFlow f).bars = s.bars := rfl
@[simp] theorem State.mapFlow_hub (s : State) (f : Flow → Flow) : (s.mapFlow f).hub = s.hub := rfl
@[simp] theorem State.mapFlow_recdir (s : State) (f : Flow → Flow) : (s.mapFlow f).recdir = s.recdir := rfl
@[simp] theorem State.mapFlow_rdir (s : State) (f : Flow → Flow) : (s.mapFlow f).rdir = s.rdir := rfl
@[simp] theorem State.mapFlow_stroke (s : State) (f : Flow → Flow) : (s.mapFlow f).stroke = s.stroke := rfl
@[simp] theorem State.mapFlow_free (s : State) (f : Flow → Flow) : (s.mapFlow f).free = s.free := rfl
@[simp] theorem State.mapFlow_agenda (s : State) (f : Flow → Flow) : (s.mapFlow f).agenda = s.agenda := rfl

/-! ### State.mapRegs -/

@[simp] theorem State.mapRegs_core (s : State) (f : Regs → Regs) : (s.mapRegs f).core = { s.core with ctx := { s.core.ctx with r := f s.core.ctx.r } } := rfl
@[simp] theorem State.mapRegs_cix (s : State) (f : Regs → Regs) : (s.mapRegs f).cix = s.cix := rfl
@[simp] theorem State.mapRegs_others (s : State) (f : Regs → Regs) : (s.mapRegs f).others = s.others := rfl
@[simp] theorem State.mapRegs_clusters (s : State) (f : Regs → Regs) : (s.mapRegs f).clusters = s.clusters := rfl
@[simp] theorem State.mapRegs_mem (s : State) (f : Regs → Regs) : (s.mapRegs f).mem = s.mem := rfl
@[simp] theorem State.mapRegs_chk (s : State) (f : Regs → Regs) : (s.mapRegs f).chk = s.chk := rfl
@[simp] theorem State.mapRegs_handles (s : State) (f : Regs → Regs) : (s.mapRegs f).handles = s.handles := rfl
@[simp] theorem State.mapRegs_ptroot (s : State) (f : Regs → Regs) : (s.mapRegs f).ptroot = s.ptroot := rfl
@[simp] theorem State.mapRegs_tlb (s : State) (f : Regs → Regs) : (s.mapRegs f).tlb = s.tlb := rfl
@[simp] theorem State.mapRegs_walks (s : State) (f : Regs → Regs) : (s.mapRegs f).walks = s.walks := rfl
@[simp] theorem State.mapRegs_walkFault (s : State) (f : Regs → Regs) : (s.mapRegs f).walkFault = s.walkFault := rfl
@[simp] theorem State.mapRegs_tlbflVa (s : State) (f : Regs → Regs) : (s.mapRegs f).tlbflVa = s.tlbflVa := rfl
@[simp] theorem State.mapRegs_tlbflAll (s : State) (f : Regs → Regs) : (s.mapRegs f).tlbflAll = s.tlbflAll := rfl
@[simp] theorem State.mapRegs_tlbinv (s : State) (f : Regs → Regs) : (s.mapRegs f).tlbinv = s.tlbinv := rfl
@[simp] theorem State.mapRegs_log (s : State) (f : Regs → Regs) : (s.mapRegs f).log = s.log := rfl
@[simp] theorem State.mapRegs_dom (s : State) (f : Regs → Regs) : (s.mapRegs f).dom = s.dom := rfl
@[simp] theorem State.mapRegs_past (s : State) (f : Regs → Regs) : (s.mapRegs f).past = s.past := rfl
@[simp] theorem State.mapRegs_durq (s : State) (f : Regs → Regs) : (s.mapRegs f).durq = s.durq := rfl
@[simp] theorem State.mapRegs_kv (s : State) (f : Regs → Regs) : (s.mapRegs f).kv = s.kv := rfl
@[simp] theorem State.mapRegs_mirq (s : State) (f : Regs → Regs) : (s.mapRegs f).mirq = s.mirq := rfl
@[simp] theorem State.mapRegs_pfx (s : State) (f : Regs → Regs) : (s.mapRegs f).pfx = s.pfx := rfl
@[simp] theorem State.mapRegs_ring (s : State) (f : Regs → Regs) : (s.mapRegs f).ring = s.ring := rfl
@[simp] theorem State.mapRegs_pond (s : State) (f : Regs → Regs) : (s.mapRegs f).pond = s.pond := rfl
@[simp] theorem State.mapRegs_xlast (s : State) (f : Regs → Regs) : (s.mapRegs f).xlast = s.xlast := rfl
@[simp] theorem State.mapRegs_peers (s : State) (f : Regs → Regs) : (s.mapRegs f).peers = s.peers := rfl
@[simp] theorem State.mapRegs_dies (s : State) (f : Regs → Regs) : (s.mapRegs f).dies = s.dies := rfl
@[simp] theorem State.mapRegs_dparts (s : State) (f : Regs → Regs) : (s.mapRegs f).dparts = s.dparts := rfl
@[simp] theorem State.mapRegs_bars (s : State) (f : Regs → Regs) : (s.mapRegs f).bars = s.bars := rfl
@[simp] theorem State.mapRegs_hub (s : State) (f : Regs → Regs) : (s.mapRegs f).hub = s.hub := rfl
@[simp] theorem State.mapRegs_recdir (s : State) (f : Regs → Regs) : (s.mapRegs f).recdir = s.recdir := rfl
@[simp] theorem State.mapRegs_rdir (s : State) (f : Regs → Regs) : (s.mapRegs f).rdir = s.rdir := rfl
@[simp] theorem State.mapRegs_stroke (s : State) (f : Regs → Regs) : (s.mapRegs f).stroke = s.stroke := rfl
@[simp] theorem State.mapRegs_free (s : State) (f : Regs → Regs) : (s.mapRegs f).free = s.free := rfl
@[simp] theorem State.mapRegs_agenda (s : State) (f : Regs → Regs) : (s.mapRegs f).agenda = s.agenda := rfl

/-! ### State.mapFl -/

@[simp] theorem State.mapFl_core (s : State) (f : Flight → Flight) : (s.mapFl f).core = { s.core with ctx := { s.core.ctx with fl := f s.core.ctx.fl } } := rfl
@[simp] theorem State.mapFl_cix (s : State) (f : Flight → Flight) : (s.mapFl f).cix = s.cix := rfl
@[simp] theorem State.mapFl_others (s : State) (f : Flight → Flight) : (s.mapFl f).others = s.others := rfl
@[simp] theorem State.mapFl_clusters (s : State) (f : Flight → Flight) : (s.mapFl f).clusters = s.clusters := rfl
@[simp] theorem State.mapFl_mem (s : State) (f : Flight → Flight) : (s.mapFl f).mem = s.mem := rfl
@[simp] theorem State.mapFl_chk (s : State) (f : Flight → Flight) : (s.mapFl f).chk = s.chk := rfl
@[simp] theorem State.mapFl_handles (s : State) (f : Flight → Flight) : (s.mapFl f).handles = s.handles := rfl
@[simp] theorem State.mapFl_ptroot (s : State) (f : Flight → Flight) : (s.mapFl f).ptroot = s.ptroot := rfl
@[simp] theorem State.mapFl_tlb (s : State) (f : Flight → Flight) : (s.mapFl f).tlb = s.tlb := rfl
@[simp] theorem State.mapFl_walks (s : State) (f : Flight → Flight) : (s.mapFl f).walks = s.walks := rfl
@[simp] theorem State.mapFl_walkFault (s : State) (f : Flight → Flight) : (s.mapFl f).walkFault = s.walkFault := rfl
@[simp] theorem State.mapFl_tlbflVa (s : State) (f : Flight → Flight) : (s.mapFl f).tlbflVa = s.tlbflVa := rfl
@[simp] theorem State.mapFl_tlbflAll (s : State) (f : Flight → Flight) : (s.mapFl f).tlbflAll = s.tlbflAll := rfl
@[simp] theorem State.mapFl_tlbinv (s : State) (f : Flight → Flight) : (s.mapFl f).tlbinv = s.tlbinv := rfl
@[simp] theorem State.mapFl_log (s : State) (f : Flight → Flight) : (s.mapFl f).log = s.log := rfl
@[simp] theorem State.mapFl_dom (s : State) (f : Flight → Flight) : (s.mapFl f).dom = s.dom := rfl
@[simp] theorem State.mapFl_past (s : State) (f : Flight → Flight) : (s.mapFl f).past = s.past := rfl
@[simp] theorem State.mapFl_durq (s : State) (f : Flight → Flight) : (s.mapFl f).durq = s.durq := rfl
@[simp] theorem State.mapFl_kv (s : State) (f : Flight → Flight) : (s.mapFl f).kv = s.kv := rfl
@[simp] theorem State.mapFl_mirq (s : State) (f : Flight → Flight) : (s.mapFl f).mirq = s.mirq := rfl
@[simp] theorem State.mapFl_pfx (s : State) (f : Flight → Flight) : (s.mapFl f).pfx = s.pfx := rfl
@[simp] theorem State.mapFl_ring (s : State) (f : Flight → Flight) : (s.mapFl f).ring = s.ring := rfl
@[simp] theorem State.mapFl_pond (s : State) (f : Flight → Flight) : (s.mapFl f).pond = s.pond := rfl
@[simp] theorem State.mapFl_xlast (s : State) (f : Flight → Flight) : (s.mapFl f).xlast = s.xlast := rfl
@[simp] theorem State.mapFl_peers (s : State) (f : Flight → Flight) : (s.mapFl f).peers = s.peers := rfl
@[simp] theorem State.mapFl_dies (s : State) (f : Flight → Flight) : (s.mapFl f).dies = s.dies := rfl
@[simp] theorem State.mapFl_dparts (s : State) (f : Flight → Flight) : (s.mapFl f).dparts = s.dparts := rfl
@[simp] theorem State.mapFl_bars (s : State) (f : Flight → Flight) : (s.mapFl f).bars = s.bars := rfl
@[simp] theorem State.mapFl_hub (s : State) (f : Flight → Flight) : (s.mapFl f).hub = s.hub := rfl
@[simp] theorem State.mapFl_recdir (s : State) (f : Flight → Flight) : (s.mapFl f).recdir = s.recdir := rfl
@[simp] theorem State.mapFl_rdir (s : State) (f : Flight → Flight) : (s.mapFl f).rdir = s.rdir := rfl
@[simp] theorem State.mapFl_stroke (s : State) (f : Flight → Flight) : (s.mapFl f).stroke = s.stroke := rfl
@[simp] theorem State.mapFl_free (s : State) (f : Flight → Flight) : (s.mapFl f).free = s.free := rfl
@[simp] theorem State.mapFl_agenda (s : State) (f : Flight → Flight) : (s.mapFl f).agenda = s.agenda := rfl

/-! ### State.mapCsr -/

@[simp] theorem State.mapCsr_core (s : State) (f : CtxCsr → CtxCsr) : (s.mapCsr f).core = { s.core with ctx := { s.core.ctx with csr := f s.core.ctx.csr } } := rfl
@[simp] theorem State.mapCsr_cix (s : State) (f : CtxCsr → CtxCsr) : (s.mapCsr f).cix = s.cix := rfl
@[simp] theorem State.mapCsr_others (s : State) (f : CtxCsr → CtxCsr) : (s.mapCsr f).others = s.others := rfl
@[simp] theorem State.mapCsr_clusters (s : State) (f : CtxCsr → CtxCsr) : (s.mapCsr f).clusters = s.clusters := rfl
@[simp] theorem State.mapCsr_mem (s : State) (f : CtxCsr → CtxCsr) : (s.mapCsr f).mem = s.mem := rfl
@[simp] theorem State.mapCsr_chk (s : State) (f : CtxCsr → CtxCsr) : (s.mapCsr f).chk = s.chk := rfl
@[simp] theorem State.mapCsr_handles (s : State) (f : CtxCsr → CtxCsr) : (s.mapCsr f).handles = s.handles := rfl
@[simp] theorem State.mapCsr_ptroot (s : State) (f : CtxCsr → CtxCsr) : (s.mapCsr f).ptroot = s.ptroot := rfl
@[simp] theorem State.mapCsr_tlb (s : State) (f : CtxCsr → CtxCsr) : (s.mapCsr f).tlb = s.tlb := rfl
@[simp] theorem State.mapCsr_walks (s : State) (f : CtxCsr → CtxCsr) : (s.mapCsr f).walks = s.walks := rfl
@[simp] theorem State.mapCsr_walkFault (s : State) (f : CtxCsr → CtxCsr) : (s.mapCsr f).walkFault = s.walkFault := rfl
@[simp] theorem State.mapCsr_tlbflVa (s : State) (f : CtxCsr → CtxCsr) : (s.mapCsr f).tlbflVa = s.tlbflVa := rfl
@[simp] theorem State.mapCsr_tlbflAll (s : State) (f : CtxCsr → CtxCsr) : (s.mapCsr f).tlbflAll = s.tlbflAll := rfl
@[simp] theorem State.mapCsr_tlbinv (s : State) (f : CtxCsr → CtxCsr) : (s.mapCsr f).tlbinv = s.tlbinv := rfl
@[simp] theorem State.mapCsr_log (s : State) (f : CtxCsr → CtxCsr) : (s.mapCsr f).log = s.log := rfl
@[simp] theorem State.mapCsr_dom (s : State) (f : CtxCsr → CtxCsr) : (s.mapCsr f).dom = s.dom := rfl
@[simp] theorem State.mapCsr_past (s : State) (f : CtxCsr → CtxCsr) : (s.mapCsr f).past = s.past := rfl
@[simp] theorem State.mapCsr_durq (s : State) (f : CtxCsr → CtxCsr) : (s.mapCsr f).durq = s.durq := rfl
@[simp] theorem State.mapCsr_kv (s : State) (f : CtxCsr → CtxCsr) : (s.mapCsr f).kv = s.kv := rfl
@[simp] theorem State.mapCsr_mirq (s : State) (f : CtxCsr → CtxCsr) : (s.mapCsr f).mirq = s.mirq := rfl
@[simp] theorem State.mapCsr_pfx (s : State) (f : CtxCsr → CtxCsr) : (s.mapCsr f).pfx = s.pfx := rfl
@[simp] theorem State.mapCsr_ring (s : State) (f : CtxCsr → CtxCsr) : (s.mapCsr f).ring = s.ring := rfl
@[simp] theorem State.mapCsr_pond (s : State) (f : CtxCsr → CtxCsr) : (s.mapCsr f).pond = s.pond := rfl
@[simp] theorem State.mapCsr_xlast (s : State) (f : CtxCsr → CtxCsr) : (s.mapCsr f).xlast = s.xlast := rfl
@[simp] theorem State.mapCsr_peers (s : State) (f : CtxCsr → CtxCsr) : (s.mapCsr f).peers = s.peers := rfl
@[simp] theorem State.mapCsr_dies (s : State) (f : CtxCsr → CtxCsr) : (s.mapCsr f).dies = s.dies := rfl
@[simp] theorem State.mapCsr_dparts (s : State) (f : CtxCsr → CtxCsr) : (s.mapCsr f).dparts = s.dparts := rfl
@[simp] theorem State.mapCsr_bars (s : State) (f : CtxCsr → CtxCsr) : (s.mapCsr f).bars = s.bars := rfl
@[simp] theorem State.mapCsr_hub (s : State) (f : CtxCsr → CtxCsr) : (s.mapCsr f).hub = s.hub := rfl
@[simp] theorem State.mapCsr_recdir (s : State) (f : CtxCsr → CtxCsr) : (s.mapCsr f).recdir = s.recdir := rfl
@[simp] theorem State.mapCsr_rdir (s : State) (f : CtxCsr → CtxCsr) : (s.mapCsr f).rdir = s.rdir := rfl
@[simp] theorem State.mapCsr_stroke (s : State) (f : CtxCsr → CtxCsr) : (s.mapCsr f).stroke = s.stroke := rfl
@[simp] theorem State.mapCsr_free (s : State) (f : CtxCsr → CtxCsr) : (s.mapCsr f).free = s.free := rfl
@[simp] theorem State.mapCsr_agenda (s : State) (f : CtxCsr → CtxCsr) : (s.mapCsr f).agenda = s.agenda := rfl

/-! ### State.mapCtr -/

@[simp] theorem State.mapCtr_core (s : State) (f : Counters → Counters) : (s.mapCtr f).core = { s.core with ctr := f s.core.ctr } := rfl
@[simp] theorem State.mapCtr_cix (s : State) (f : Counters → Counters) : (s.mapCtr f).cix = s.cix := rfl
@[simp] theorem State.mapCtr_others (s : State) (f : Counters → Counters) : (s.mapCtr f).others = s.others := rfl
@[simp] theorem State.mapCtr_clusters (s : State) (f : Counters → Counters) : (s.mapCtr f).clusters = s.clusters := rfl
@[simp] theorem State.mapCtr_mem (s : State) (f : Counters → Counters) : (s.mapCtr f).mem = s.mem := rfl
@[simp] theorem State.mapCtr_chk (s : State) (f : Counters → Counters) : (s.mapCtr f).chk = s.chk := rfl
@[simp] theorem State.mapCtr_handles (s : State) (f : Counters → Counters) : (s.mapCtr f).handles = s.handles := rfl
@[simp] theorem State.mapCtr_ptroot (s : State) (f : Counters → Counters) : (s.mapCtr f).ptroot = s.ptroot := rfl
@[simp] theorem State.mapCtr_tlb (s : State) (f : Counters → Counters) : (s.mapCtr f).tlb = s.tlb := rfl
@[simp] theorem State.mapCtr_walks (s : State) (f : Counters → Counters) : (s.mapCtr f).walks = s.walks := rfl
@[simp] theorem State.mapCtr_walkFault (s : State) (f : Counters → Counters) : (s.mapCtr f).walkFault = s.walkFault := rfl
@[simp] theorem State.mapCtr_tlbflVa (s : State) (f : Counters → Counters) : (s.mapCtr f).tlbflVa = s.tlbflVa := rfl
@[simp] theorem State.mapCtr_tlbflAll (s : State) (f : Counters → Counters) : (s.mapCtr f).tlbflAll = s.tlbflAll := rfl
@[simp] theorem State.mapCtr_tlbinv (s : State) (f : Counters → Counters) : (s.mapCtr f).tlbinv = s.tlbinv := rfl
@[simp] theorem State.mapCtr_log (s : State) (f : Counters → Counters) : (s.mapCtr f).log = s.log := rfl
@[simp] theorem State.mapCtr_dom (s : State) (f : Counters → Counters) : (s.mapCtr f).dom = s.dom := rfl
@[simp] theorem State.mapCtr_past (s : State) (f : Counters → Counters) : (s.mapCtr f).past = s.past := rfl
@[simp] theorem State.mapCtr_durq (s : State) (f : Counters → Counters) : (s.mapCtr f).durq = s.durq := rfl
@[simp] theorem State.mapCtr_kv (s : State) (f : Counters → Counters) : (s.mapCtr f).kv = s.kv := rfl
@[simp] theorem State.mapCtr_mirq (s : State) (f : Counters → Counters) : (s.mapCtr f).mirq = s.mirq := rfl
@[simp] theorem State.mapCtr_pfx (s : State) (f : Counters → Counters) : (s.mapCtr f).pfx = s.pfx := rfl
@[simp] theorem State.mapCtr_ring (s : State) (f : Counters → Counters) : (s.mapCtr f).ring = s.ring := rfl
@[simp] theorem State.mapCtr_pond (s : State) (f : Counters → Counters) : (s.mapCtr f).pond = s.pond := rfl
@[simp] theorem State.mapCtr_xlast (s : State) (f : Counters → Counters) : (s.mapCtr f).xlast = s.xlast := rfl
@[simp] theorem State.mapCtr_peers (s : State) (f : Counters → Counters) : (s.mapCtr f).peers = s.peers := rfl
@[simp] theorem State.mapCtr_dies (s : State) (f : Counters → Counters) : (s.mapCtr f).dies = s.dies := rfl
@[simp] theorem State.mapCtr_dparts (s : State) (f : Counters → Counters) : (s.mapCtr f).dparts = s.dparts := rfl
@[simp] theorem State.mapCtr_bars (s : State) (f : Counters → Counters) : (s.mapCtr f).bars = s.bars := rfl
@[simp] theorem State.mapCtr_hub (s : State) (f : Counters → Counters) : (s.mapCtr f).hub = s.hub := rfl
@[simp] theorem State.mapCtr_recdir (s : State) (f : Counters → Counters) : (s.mapCtr f).recdir = s.recdir := rfl
@[simp] theorem State.mapCtr_rdir (s : State) (f : Counters → Counters) : (s.mapCtr f).rdir = s.rdir := rfl
@[simp] theorem State.mapCtr_stroke (s : State) (f : Counters → Counters) : (s.mapCtr f).stroke = s.stroke := rfl
@[simp] theorem State.mapCtr_free (s : State) (f : Counters → Counters) : (s.mapCtr f).free = s.free := rfl
@[simp] theorem State.mapCtr_agenda (s : State) (f : Counters → Counters) : (s.mapCtr f).agenda = s.agenda := rfl

/-! ### State.mapTrap -/

@[simp] theorem State.mapTrap_core (s : State) (f : TrapCsr → TrapCsr) : (s.mapTrap f).core = { s.core with trap := f s.core.trap } := rfl
@[simp] theorem State.mapTrap_cix (s : State) (f : TrapCsr → TrapCsr) : (s.mapTrap f).cix = s.cix := rfl
@[simp] theorem State.mapTrap_others (s : State) (f : TrapCsr → TrapCsr) : (s.mapTrap f).others = s.others := rfl
@[simp] theorem State.mapTrap_clusters (s : State) (f : TrapCsr → TrapCsr) : (s.mapTrap f).clusters = s.clusters := rfl
@[simp] theorem State.mapTrap_mem (s : State) (f : TrapCsr → TrapCsr) : (s.mapTrap f).mem = s.mem := rfl
@[simp] theorem State.mapTrap_chk (s : State) (f : TrapCsr → TrapCsr) : (s.mapTrap f).chk = s.chk := rfl
@[simp] theorem State.mapTrap_handles (s : State) (f : TrapCsr → TrapCsr) : (s.mapTrap f).handles = s.handles := rfl
@[simp] theorem State.mapTrap_ptroot (s : State) (f : TrapCsr → TrapCsr) : (s.mapTrap f).ptroot = s.ptroot := rfl
@[simp] theorem State.mapTrap_tlb (s : State) (f : TrapCsr → TrapCsr) : (s.mapTrap f).tlb = s.tlb := rfl
@[simp] theorem State.mapTrap_walks (s : State) (f : TrapCsr → TrapCsr) : (s.mapTrap f).walks = s.walks := rfl
@[simp] theorem State.mapTrap_walkFault (s : State) (f : TrapCsr → TrapCsr) : (s.mapTrap f).walkFault = s.walkFault := rfl
@[simp] theorem State.mapTrap_tlbflVa (s : State) (f : TrapCsr → TrapCsr) : (s.mapTrap f).tlbflVa = s.tlbflVa := rfl
@[simp] theorem State.mapTrap_tlbflAll (s : State) (f : TrapCsr → TrapCsr) : (s.mapTrap f).tlbflAll = s.tlbflAll := rfl
@[simp] theorem State.mapTrap_tlbinv (s : State) (f : TrapCsr → TrapCsr) : (s.mapTrap f).tlbinv = s.tlbinv := rfl
@[simp] theorem State.mapTrap_log (s : State) (f : TrapCsr → TrapCsr) : (s.mapTrap f).log = s.log := rfl
@[simp] theorem State.mapTrap_dom (s : State) (f : TrapCsr → TrapCsr) : (s.mapTrap f).dom = s.dom := rfl
@[simp] theorem State.mapTrap_past (s : State) (f : TrapCsr → TrapCsr) : (s.mapTrap f).past = s.past := rfl
@[simp] theorem State.mapTrap_durq (s : State) (f : TrapCsr → TrapCsr) : (s.mapTrap f).durq = s.durq := rfl
@[simp] theorem State.mapTrap_kv (s : State) (f : TrapCsr → TrapCsr) : (s.mapTrap f).kv = s.kv := rfl
@[simp] theorem State.mapTrap_mirq (s : State) (f : TrapCsr → TrapCsr) : (s.mapTrap f).mirq = s.mirq := rfl
@[simp] theorem State.mapTrap_pfx (s : State) (f : TrapCsr → TrapCsr) : (s.mapTrap f).pfx = s.pfx := rfl
@[simp] theorem State.mapTrap_ring (s : State) (f : TrapCsr → TrapCsr) : (s.mapTrap f).ring = s.ring := rfl
@[simp] theorem State.mapTrap_pond (s : State) (f : TrapCsr → TrapCsr) : (s.mapTrap f).pond = s.pond := rfl
@[simp] theorem State.mapTrap_xlast (s : State) (f : TrapCsr → TrapCsr) : (s.mapTrap f).xlast = s.xlast := rfl
@[simp] theorem State.mapTrap_peers (s : State) (f : TrapCsr → TrapCsr) : (s.mapTrap f).peers = s.peers := rfl
@[simp] theorem State.mapTrap_dies (s : State) (f : TrapCsr → TrapCsr) : (s.mapTrap f).dies = s.dies := rfl
@[simp] theorem State.mapTrap_dparts (s : State) (f : TrapCsr → TrapCsr) : (s.mapTrap f).dparts = s.dparts := rfl
@[simp] theorem State.mapTrap_bars (s : State) (f : TrapCsr → TrapCsr) : (s.mapTrap f).bars = s.bars := rfl
@[simp] theorem State.mapTrap_hub (s : State) (f : TrapCsr → TrapCsr) : (s.mapTrap f).hub = s.hub := rfl
@[simp] theorem State.mapTrap_recdir (s : State) (f : TrapCsr → TrapCsr) : (s.mapTrap f).recdir = s.recdir := rfl
@[simp] theorem State.mapTrap_rdir (s : State) (f : TrapCsr → TrapCsr) : (s.mapTrap f).rdir = s.rdir := rfl
@[simp] theorem State.mapTrap_stroke (s : State) (f : TrapCsr → TrapCsr) : (s.mapTrap f).stroke = s.stroke := rfl
@[simp] theorem State.mapTrap_free (s : State) (f : TrapCsr → TrapCsr) : (s.mapTrap f).free = s.free := rfl
@[simp] theorem State.mapTrap_agenda (s : State) (f : TrapCsr → TrapCsr) : (s.mapTrap f).agenda = s.agenda := rfl

/-! ### State.thaw -/

@[simp] theorem State.thaw_core (s : State) : (s.thaw).core = { s.core with frz := { line := false }, wait := none } := rfl
@[simp] theorem State.thaw_cix (s : State) : (s.thaw).cix = s.cix := rfl
@[simp] theorem State.thaw_others (s : State) : (s.thaw).others = s.others := rfl
@[simp] theorem State.thaw_clusters (s : State) : (s.thaw).clusters = s.clusters := rfl
@[simp] theorem State.thaw_mem (s : State) : (s.thaw).mem = s.mem := rfl
@[simp] theorem State.thaw_chk (s : State) : (s.thaw).chk = s.chk := rfl
@[simp] theorem State.thaw_handles (s : State) : (s.thaw).handles = s.handles := rfl
@[simp] theorem State.thaw_ptroot (s : State) : (s.thaw).ptroot = s.ptroot := rfl
@[simp] theorem State.thaw_tlb (s : State) : (s.thaw).tlb = s.tlb := rfl
@[simp] theorem State.thaw_walks (s : State) : (s.thaw).walks = s.walks := rfl
@[simp] theorem State.thaw_walkFault (s : State) : (s.thaw).walkFault = s.walkFault := rfl
@[simp] theorem State.thaw_tlbflVa (s : State) : (s.thaw).tlbflVa = s.tlbflVa := rfl
@[simp] theorem State.thaw_tlbflAll (s : State) : (s.thaw).tlbflAll = s.tlbflAll := rfl
@[simp] theorem State.thaw_tlbinv (s : State) : (s.thaw).tlbinv = s.tlbinv := rfl
@[simp] theorem State.thaw_log (s : State) : (s.thaw).log = s.log := rfl
@[simp] theorem State.thaw_dom (s : State) : (s.thaw).dom = s.dom := rfl
@[simp] theorem State.thaw_past (s : State) : (s.thaw).past = s.past := rfl
@[simp] theorem State.thaw_durq (s : State) : (s.thaw).durq = s.durq := rfl
@[simp] theorem State.thaw_kv (s : State) : (s.thaw).kv = s.kv := rfl
@[simp] theorem State.thaw_mirq (s : State) : (s.thaw).mirq = s.mirq := rfl
@[simp] theorem State.thaw_pfx (s : State) : (s.thaw).pfx = s.pfx := rfl
@[simp] theorem State.thaw_ring (s : State) : (s.thaw).ring = s.ring := rfl
@[simp] theorem State.thaw_pond (s : State) : (s.thaw).pond = s.pond := rfl
@[simp] theorem State.thaw_xlast (s : State) : (s.thaw).xlast = s.xlast := rfl
@[simp] theorem State.thaw_peers (s : State) : (s.thaw).peers = s.peers := rfl
@[simp] theorem State.thaw_dies (s : State) : (s.thaw).dies = s.dies := rfl
@[simp] theorem State.thaw_dparts (s : State) : (s.thaw).dparts = s.dparts := rfl
@[simp] theorem State.thaw_bars (s : State) : (s.thaw).bars = s.bars := rfl
@[simp] theorem State.thaw_hub (s : State) : (s.thaw).hub = s.hub := rfl
@[simp] theorem State.thaw_recdir (s : State) : (s.thaw).recdir = s.recdir := rfl
@[simp] theorem State.thaw_rdir (s : State) : (s.thaw).rdir = s.rdir := rfl
@[simp] theorem State.thaw_stroke (s : State) : (s.thaw).stroke = s.stroke := rfl
@[simp] theorem State.thaw_free (s : State) : (s.thaw).free = s.free := rfl
@[simp] theorem State.thaw_agenda (s : State) : (s.thaw).agenda = s.agenda := rfl

/-! ### State.fresh -/

@[simp] theorem State.fresh_core (s : State) : (s.fresh).core = s.core := rfl
@[simp] theorem State.fresh_cix (s : State) : (s.fresh).cix = s.cix := rfl
@[simp] theorem State.fresh_others (s : State) : (s.fresh).others = s.others := rfl
@[simp] theorem State.fresh_clusters (s : State) : (s.fresh).clusters = s.clusters := rfl
@[simp] theorem State.fresh_mem (s : State) : (s.fresh).mem = s.mem := rfl
@[simp] theorem State.fresh_chk (s : State) : (s.fresh).chk = s.chk := rfl
@[simp] theorem State.fresh_handles (s : State) : (s.fresh).handles = s.handles := rfl
@[simp] theorem State.fresh_ptroot (s : State) : (s.fresh).ptroot = s.ptroot := rfl
@[simp] theorem State.fresh_tlb (s : State) : (s.fresh).tlb = s.tlb := rfl
@[simp] theorem State.fresh_walks (s : State) : (s.fresh).walks = s.walks := rfl
@[simp] theorem State.fresh_walkFault (s : State) : (s.fresh).walkFault = s.walkFault := rfl
@[simp] theorem State.fresh_tlbflVa (s : State) : (s.fresh).tlbflVa = s.tlbflVa := rfl
@[simp] theorem State.fresh_tlbflAll (s : State) : (s.fresh).tlbflAll = s.tlbflAll := rfl
@[simp] theorem State.fresh_tlbinv (s : State) : (s.fresh).tlbinv = s.tlbinv := rfl
@[simp] theorem State.fresh_log (s : State) : (s.fresh).log = s.log := rfl
@[simp] theorem State.fresh_dom (s : State) : (s.fresh).dom = s.dom := rfl
@[simp] theorem State.fresh_past (s : State) : (s.fresh).past = s.past := rfl
@[simp] theorem State.fresh_durq (s : State) : (s.fresh).durq = s.durq := rfl
@[simp] theorem State.fresh_kv (s : State) : (s.fresh).kv = s.kv := rfl
@[simp] theorem State.fresh_mirq (s : State) : (s.fresh).mirq = s.mirq := rfl
@[simp] theorem State.fresh_pfx (s : State) : (s.fresh).pfx = s.pfx := rfl
@[simp] theorem State.fresh_ring (s : State) : (s.fresh).ring = s.ring := rfl
@[simp] theorem State.fresh_pond (s : State) : (s.fresh).pond = s.pond := rfl
@[simp] theorem State.fresh_xlast (s : State) : (s.fresh).xlast = s.xlast := rfl
@[simp] theorem State.fresh_peers (s : State) : (s.fresh).peers = s.peers := rfl
@[simp] theorem State.fresh_dies (s : State) : (s.fresh).dies = s.dies := rfl
@[simp] theorem State.fresh_dparts (s : State) : (s.fresh).dparts = s.dparts := rfl
@[simp] theorem State.fresh_bars (s : State) : (s.fresh).bars = s.bars := rfl
@[simp] theorem State.fresh_hub (s : State) : (s.fresh).hub = s.hub := rfl
@[simp] theorem State.fresh_recdir (s : State) : (s.fresh).recdir = s.recdir := rfl
@[simp] theorem State.fresh_rdir (s : State) : (s.fresh).rdir = s.rdir := rfl
@[simp] theorem State.fresh_stroke (s : State) : (s.fresh).stroke = s.stroke := rfl
@[simp] theorem State.fresh_free (s : State) : (s.fresh).free = s.free + 1 := rfl
@[simp] theorem State.fresh_agenda (s : State) : (s.fresh).agenda = s.agenda := rfl

/-! ### State.updCluster -/

@[simp] theorem State.updCluster_core (s : State) (k : Nat) (f : Cluster → Cluster) : (s.updCluster k f).core = s.core := rfl
@[simp] theorem State.updCluster_cix (s : State) (k : Nat) (f : Cluster → Cluster) : (s.updCluster k f).cix = s.cix := rfl
@[simp] theorem State.updCluster_others (s : State) (k : Nat) (f : Cluster → Cluster) : (s.updCluster k f).others = s.others := rfl
@[simp] theorem State.updCluster_clusters (s : State) (k : Nat) (f : Cluster → Cluster) : (s.updCluster k f).clusters = Tab.upd {} s.clusters k f := rfl
@[simp] theorem State.updCluster_mem (s : State) (k : Nat) (f : Cluster → Cluster) : (s.updCluster k f).mem = s.mem := rfl
@[simp] theorem State.updCluster_chk (s : State) (k : Nat) (f : Cluster → Cluster) : (s.updCluster k f).chk = s.chk := rfl
@[simp] theorem State.updCluster_handles (s : State) (k : Nat) (f : Cluster → Cluster) : (s.updCluster k f).handles = s.handles := rfl
@[simp] theorem State.updCluster_ptroot (s : State) (k : Nat) (f : Cluster → Cluster) : (s.updCluster k f).ptroot = s.ptroot := rfl
@[simp] theorem State.updCluster_tlb (s : State) (k : Nat) (f : Cluster → Cluster) : (s.updCluster k f).tlb = s.tlb := rfl
@[simp] theorem State.updCluster_walks (s : State) (k : Nat) (f : Cluster → Cluster) : (s.updCluster k f).walks = s.walks := rfl
@[simp] theorem State.updCluster_walkFault (s : State) (k : Nat) (f : Cluster → Cluster) : (s.updCluster k f).walkFault = s.walkFault := rfl
@[simp] theorem State.updCluster_tlbflVa (s : State) (k : Nat) (f : Cluster → Cluster) : (s.updCluster k f).tlbflVa = s.tlbflVa := rfl
@[simp] theorem State.updCluster_tlbflAll (s : State) (k : Nat) (f : Cluster → Cluster) : (s.updCluster k f).tlbflAll = s.tlbflAll := rfl
@[simp] theorem State.updCluster_tlbinv (s : State) (k : Nat) (f : Cluster → Cluster) : (s.updCluster k f).tlbinv = s.tlbinv := rfl
@[simp] theorem State.updCluster_log (s : State) (k : Nat) (f : Cluster → Cluster) : (s.updCluster k f).log = s.log := rfl
@[simp] theorem State.updCluster_dom (s : State) (k : Nat) (f : Cluster → Cluster) : (s.updCluster k f).dom = s.dom := rfl
@[simp] theorem State.updCluster_past (s : State) (k : Nat) (f : Cluster → Cluster) : (s.updCluster k f).past = s.past := rfl
@[simp] theorem State.updCluster_durq (s : State) (k : Nat) (f : Cluster → Cluster) : (s.updCluster k f).durq = s.durq := rfl
@[simp] theorem State.updCluster_kv (s : State) (k : Nat) (f : Cluster → Cluster) : (s.updCluster k f).kv = s.kv := rfl
@[simp] theorem State.updCluster_mirq (s : State) (k : Nat) (f : Cluster → Cluster) : (s.updCluster k f).mirq = s.mirq := rfl
@[simp] theorem State.updCluster_pfx (s : State) (k : Nat) (f : Cluster → Cluster) : (s.updCluster k f).pfx = s.pfx := rfl
@[simp] theorem State.updCluster_ring (s : State) (k : Nat) (f : Cluster → Cluster) : (s.updCluster k f).ring = s.ring := rfl
@[simp] theorem State.updCluster_pond (s : State) (k : Nat) (f : Cluster → Cluster) : (s.updCluster k f).pond = s.pond := rfl
@[simp] theorem State.updCluster_xlast (s : State) (k : Nat) (f : Cluster → Cluster) : (s.updCluster k f).xlast = s.xlast := rfl
@[simp] theorem State.updCluster_peers (s : State) (k : Nat) (f : Cluster → Cluster) : (s.updCluster k f).peers = s.peers := rfl
@[simp] theorem State.updCluster_dies (s : State) (k : Nat) (f : Cluster → Cluster) : (s.updCluster k f).dies = s.dies := rfl
@[simp] theorem State.updCluster_dparts (s : State) (k : Nat) (f : Cluster → Cluster) : (s.updCluster k f).dparts = s.dparts := rfl
@[simp] theorem State.updCluster_bars (s : State) (k : Nat) (f : Cluster → Cluster) : (s.updCluster k f).bars = s.bars := rfl
@[simp] theorem State.updCluster_hub (s : State) (k : Nat) (f : Cluster → Cluster) : (s.updCluster k f).hub = s.hub := rfl
@[simp] theorem State.updCluster_recdir (s : State) (k : Nat) (f : Cluster → Cluster) : (s.updCluster k f).recdir = s.recdir := rfl
@[simp] theorem State.updCluster_rdir (s : State) (k : Nat) (f : Cluster → Cluster) : (s.updCluster k f).rdir = s.rdir := rfl
@[simp] theorem State.updCluster_stroke (s : State) (k : Nat) (f : Cluster → Cluster) : (s.updCluster k f).stroke = s.stroke := rfl
@[simp] theorem State.updCluster_free (s : State) (k : Nat) (f : Cluster → Cluster) : (s.updCluster k f).free = s.free := rfl
@[simp] theorem State.updCluster_agenda (s : State) (k : Nat) (f : Cluster → Cluster) : (s.updCluster k f).agenda = s.agenda := rfl

/-! ### State.updDie -/

@[simp] theorem State.updDie_core (s : State) (k : Nat) (f : Die → Die) : (s.updDie k f).core = s.core := rfl
@[simp] theorem State.updDie_cix (s : State) (k : Nat) (f : Die → Die) : (s.updDie k f).cix = s.cix := rfl
@[simp] theorem State.updDie_others (s : State) (k : Nat) (f : Die → Die) : (s.updDie k f).others = s.others := rfl
@[simp] theorem State.updDie_clusters (s : State) (k : Nat) (f : Die → Die) : (s.updDie k f).clusters = s.clusters := rfl
@[simp] theorem State.updDie_mem (s : State) (k : Nat) (f : Die → Die) : (s.updDie k f).mem = s.mem := rfl
@[simp] theorem State.updDie_chk (s : State) (k : Nat) (f : Die → Die) : (s.updDie k f).chk = s.chk := rfl
@[simp] theorem State.updDie_handles (s : State) (k : Nat) (f : Die → Die) : (s.updDie k f).handles = s.handles := rfl
@[simp] theorem State.updDie_ptroot (s : State) (k : Nat) (f : Die → Die) : (s.updDie k f).ptroot = s.ptroot := rfl
@[simp] theorem State.updDie_tlb (s : State) (k : Nat) (f : Die → Die) : (s.updDie k f).tlb = s.tlb := rfl
@[simp] theorem State.updDie_walks (s : State) (k : Nat) (f : Die → Die) : (s.updDie k f).walks = s.walks := rfl
@[simp] theorem State.updDie_walkFault (s : State) (k : Nat) (f : Die → Die) : (s.updDie k f).walkFault = s.walkFault := rfl
@[simp] theorem State.updDie_tlbflVa (s : State) (k : Nat) (f : Die → Die) : (s.updDie k f).tlbflVa = s.tlbflVa := rfl
@[simp] theorem State.updDie_tlbflAll (s : State) (k : Nat) (f : Die → Die) : (s.updDie k f).tlbflAll = s.tlbflAll := rfl
@[simp] theorem State.updDie_tlbinv (s : State) (k : Nat) (f : Die → Die) : (s.updDie k f).tlbinv = s.tlbinv := rfl
@[simp] theorem State.updDie_log (s : State) (k : Nat) (f : Die → Die) : (s.updDie k f).log = s.log := rfl
@[simp] theorem State.updDie_dom (s : State) (k : Nat) (f : Die → Die) : (s.updDie k f).dom = s.dom := rfl
@[simp] theorem State.updDie_past (s : State) (k : Nat) (f : Die → Die) : (s.updDie k f).past = s.past := rfl
@[simp] theorem State.updDie_durq (s : State) (k : Nat) (f : Die → Die) : (s.updDie k f).durq = s.durq := rfl
@[simp] theorem State.updDie_kv (s : State) (k : Nat) (f : Die → Die) : (s.updDie k f).kv = s.kv := rfl
@[simp] theorem State.updDie_mirq (s : State) (k : Nat) (f : Die → Die) : (s.updDie k f).mirq = s.mirq := rfl
@[simp] theorem State.updDie_pfx (s : State) (k : Nat) (f : Die → Die) : (s.updDie k f).pfx = s.pfx := rfl
@[simp] theorem State.updDie_ring (s : State) (k : Nat) (f : Die → Die) : (s.updDie k f).ring = s.ring := rfl
@[simp] theorem State.updDie_pond (s : State) (k : Nat) (f : Die → Die) : (s.updDie k f).pond = s.pond := rfl
@[simp] theorem State.updDie_xlast (s : State) (k : Nat) (f : Die → Die) : (s.updDie k f).xlast = s.xlast := rfl
@[simp] theorem State.updDie_peers (s : State) (k : Nat) (f : Die → Die) : (s.updDie k f).peers = s.peers := rfl
@[simp] theorem State.updDie_dies (s : State) (k : Nat) (f : Die → Die) : (s.updDie k f).dies = Tab.upd {} s.dies k f := rfl
@[simp] theorem State.updDie_dparts (s : State) (k : Nat) (f : Die → Die) : (s.updDie k f).dparts = s.dparts := rfl
@[simp] theorem State.updDie_bars (s : State) (k : Nat) (f : Die → Die) : (s.updDie k f).bars = s.bars := rfl
@[simp] theorem State.updDie_hub (s : State) (k : Nat) (f : Die → Die) : (s.updDie k f).hub = s.hub := rfl
@[simp] theorem State.updDie_recdir (s : State) (k : Nat) (f : Die → Die) : (s.updDie k f).recdir = s.recdir := rfl
@[simp] theorem State.updDie_rdir (s : State) (k : Nat) (f : Die → Die) : (s.updDie k f).rdir = s.rdir := rfl
@[simp] theorem State.updDie_stroke (s : State) (k : Nat) (f : Die → Die) : (s.updDie k f).stroke = s.stroke := rfl
@[simp] theorem State.updDie_free (s : State) (k : Nat) (f : Die → Die) : (s.updDie k f).free = s.free := rfl
@[simp] theorem State.updDie_agenda (s : State) (k : Nat) (f : Die → Die) : (s.updDie k f).agenda = s.agenda := rfl

/-! ### State.updDpart -/

@[simp] theorem State.updDpart_core (s : State) (k p : Nat) (f : DiePart → DiePart) : (s.updDpart k p f).core = s.core := rfl
@[simp] theorem State.updDpart_cix (s : State) (k p : Nat) (f : DiePart → DiePart) : (s.updDpart k p f).cix = s.cix := rfl
@[simp] theorem State.updDpart_others (s : State) (k p : Nat) (f : DiePart → DiePart) : (s.updDpart k p f).others = s.others := rfl
@[simp] theorem State.updDpart_clusters (s : State) (k p : Nat) (f : DiePart → DiePart) : (s.updDpart k p f).clusters = s.clusters := rfl
@[simp] theorem State.updDpart_mem (s : State) (k p : Nat) (f : DiePart → DiePart) : (s.updDpart k p f).mem = s.mem := rfl
@[simp] theorem State.updDpart_chk (s : State) (k p : Nat) (f : DiePart → DiePart) : (s.updDpart k p f).chk = s.chk := rfl
@[simp] theorem State.updDpart_handles (s : State) (k p : Nat) (f : DiePart → DiePart) : (s.updDpart k p f).handles = s.handles := rfl
@[simp] theorem State.updDpart_ptroot (s : State) (k p : Nat) (f : DiePart → DiePart) : (s.updDpart k p f).ptroot = s.ptroot := rfl
@[simp] theorem State.updDpart_tlb (s : State) (k p : Nat) (f : DiePart → DiePart) : (s.updDpart k p f).tlb = s.tlb := rfl
@[simp] theorem State.updDpart_walks (s : State) (k p : Nat) (f : DiePart → DiePart) : (s.updDpart k p f).walks = s.walks := rfl
@[simp] theorem State.updDpart_walkFault (s : State) (k p : Nat) (f : DiePart → DiePart) : (s.updDpart k p f).walkFault = s.walkFault := rfl
@[simp] theorem State.updDpart_tlbflVa (s : State) (k p : Nat) (f : DiePart → DiePart) : (s.updDpart k p f).tlbflVa = s.tlbflVa := rfl
@[simp] theorem State.updDpart_tlbflAll (s : State) (k p : Nat) (f : DiePart → DiePart) : (s.updDpart k p f).tlbflAll = s.tlbflAll := rfl
@[simp] theorem State.updDpart_tlbinv (s : State) (k p : Nat) (f : DiePart → DiePart) : (s.updDpart k p f).tlbinv = s.tlbinv := rfl
@[simp] theorem State.updDpart_log (s : State) (k p : Nat) (f : DiePart → DiePart) : (s.updDpart k p f).log = s.log := rfl
@[simp] theorem State.updDpart_dom (s : State) (k p : Nat) (f : DiePart → DiePart) : (s.updDpart k p f).dom = s.dom := rfl
@[simp] theorem State.updDpart_past (s : State) (k p : Nat) (f : DiePart → DiePart) : (s.updDpart k p f).past = s.past := rfl
@[simp] theorem State.updDpart_durq (s : State) (k p : Nat) (f : DiePart → DiePart) : (s.updDpart k p f).durq = s.durq := rfl
@[simp] theorem State.updDpart_kv (s : State) (k p : Nat) (f : DiePart → DiePart) : (s.updDpart k p f).kv = s.kv := rfl
@[simp] theorem State.updDpart_mirq (s : State) (k p : Nat) (f : DiePart → DiePart) : (s.updDpart k p f).mirq = s.mirq := rfl
@[simp] theorem State.updDpart_pfx (s : State) (k p : Nat) (f : DiePart → DiePart) : (s.updDpart k p f).pfx = s.pfx := rfl
@[simp] theorem State.updDpart_ring (s : State) (k p : Nat) (f : DiePart → DiePart) : (s.updDpart k p f).ring = s.ring := rfl
@[simp] theorem State.updDpart_pond (s : State) (k p : Nat) (f : DiePart → DiePart) : (s.updDpart k p f).pond = s.pond := rfl
@[simp] theorem State.updDpart_xlast (s : State) (k p : Nat) (f : DiePart → DiePart) : (s.updDpart k p f).xlast = s.xlast := rfl
@[simp] theorem State.updDpart_peers (s : State) (k p : Nat) (f : DiePart → DiePart) : (s.updDpart k p f).peers = s.peers := rfl
@[simp] theorem State.updDpart_dies (s : State) (k p : Nat) (f : DiePart → DiePart) : (s.updDpart k p f).dies = s.dies := rfl
@[simp] theorem State.updDpart_dparts (s : State) (k p : Nat) (f : DiePart → DiePart) : (s.updDpart k p f).dparts = Tab.upd {} s.dparts (4 * k + p) f := rfl
@[simp] theorem State.updDpart_bars (s : State) (k p : Nat) (f : DiePart → DiePart) : (s.updDpart k p f).bars = s.bars := rfl
@[simp] theorem State.updDpart_hub (s : State) (k p : Nat) (f : DiePart → DiePart) : (s.updDpart k p f).hub = s.hub := rfl
@[simp] theorem State.updDpart_recdir (s : State) (k p : Nat) (f : DiePart → DiePart) : (s.updDpart k p f).recdir = s.recdir := rfl
@[simp] theorem State.updDpart_rdir (s : State) (k p : Nat) (f : DiePart → DiePart) : (s.updDpart k p f).rdir = s.rdir := rfl
@[simp] theorem State.updDpart_stroke (s : State) (k p : Nat) (f : DiePart → DiePart) : (s.updDpart k p f).stroke = s.stroke := rfl
@[simp] theorem State.updDpart_free (s : State) (k p : Nat) (f : DiePart → DiePart) : (s.updDpart k p f).free = s.free := rfl
@[simp] theorem State.updDpart_agenda (s : State) (k p : Nat) (f : DiePart → DiePart) : (s.updDpart k p f).agenda = s.agenda := rfl

/-! ### State.wr1 -/

@[simp] theorem State.wr1_core (s : State) (k : Nat) (b : Byte) : (s.wr1 k b).core = s.core := rfl
@[simp] theorem State.wr1_cix (s : State) (k : Nat) (b : Byte) : (s.wr1 k b).cix = s.cix := rfl
@[simp] theorem State.wr1_others (s : State) (k : Nat) (b : Byte) : (s.wr1 k b).others = s.others := rfl
@[simp] theorem State.wr1_clusters (s : State) (k : Nat) (b : Byte) : (s.wr1 k b).clusters = s.clusters := rfl
@[simp] theorem State.wr1_mem (s : State) (k : Nat) (b : Byte) : (s.wr1 k b).mem = Tab.set unlisted s.mem k b := rfl
@[simp] theorem State.wr1_chk (s : State) (k : Nat) (b : Byte) : (s.wr1 k b).chk = Tab.erase s.chk (k / 8) := rfl
@[simp] theorem State.wr1_handles (s : State) (k : Nat) (b : Byte) : (s.wr1 k b).handles = s.handles := rfl
@[simp] theorem State.wr1_ptroot (s : State) (k : Nat) (b : Byte) : (s.wr1 k b).ptroot = s.ptroot := rfl
@[simp] theorem State.wr1_tlb (s : State) (k : Nat) (b : Byte) : (s.wr1 k b).tlb = s.tlb := rfl
@[simp] theorem State.wr1_walks (s : State) (k : Nat) (b : Byte) : (s.wr1 k b).walks = s.walks := rfl
@[simp] theorem State.wr1_walkFault (s : State) (k : Nat) (b : Byte) : (s.wr1 k b).walkFault = s.walkFault := rfl
@[simp] theorem State.wr1_tlbflVa (s : State) (k : Nat) (b : Byte) : (s.wr1 k b).tlbflVa = s.tlbflVa := rfl
@[simp] theorem State.wr1_tlbflAll (s : State) (k : Nat) (b : Byte) : (s.wr1 k b).tlbflAll = s.tlbflAll := rfl
@[simp] theorem State.wr1_tlbinv (s : State) (k : Nat) (b : Byte) : (s.wr1 k b).tlbinv = s.tlbinv := rfl
@[simp] theorem State.wr1_log (s : State) (k : Nat) (b : Byte) : (s.wr1 k b).log = s.log := rfl
@[simp] theorem State.wr1_dom (s : State) (k : Nat) (b : Byte) : (s.wr1 k b).dom = s.dom := rfl
@[simp] theorem State.wr1_past (s : State) (k : Nat) (b : Byte) :
    (s.wr1 k b).past = if inKeep k then Tab.upd [] s.past k (s.rd1 k :: ·) else s.past := rfl
@[simp] theorem State.wr1_durq (s : State) (k : Nat) (b : Byte) : (s.wr1 k b).durq = s.durq := rfl
@[simp] theorem State.wr1_kv (s : State) (k : Nat) (b : Byte) : (s.wr1 k b).kv = s.kv := rfl
@[simp] theorem State.wr1_mirq (s : State) (k : Nat) (b : Byte) : (s.wr1 k b).mirq = s.mirq := rfl
@[simp] theorem State.wr1_pfx (s : State) (k : Nat) (b : Byte) : (s.wr1 k b).pfx = s.pfx := rfl
@[simp] theorem State.wr1_ring (s : State) (k : Nat) (b : Byte) : (s.wr1 k b).ring = s.ring := rfl
@[simp] theorem State.wr1_pond (s : State) (k : Nat) (b : Byte) : (s.wr1 k b).pond = s.pond := rfl
@[simp] theorem State.wr1_xlast (s : State) (k : Nat) (b : Byte) : (s.wr1 k b).xlast = s.xlast := rfl
@[simp] theorem State.wr1_peers (s : State) (k : Nat) (b : Byte) : (s.wr1 k b).peers = s.peers := rfl
@[simp] theorem State.wr1_dies (s : State) (k : Nat) (b : Byte) : (s.wr1 k b).dies = s.dies := rfl
@[simp] theorem State.wr1_dparts (s : State) (k : Nat) (b : Byte) : (s.wr1 k b).dparts = s.dparts := rfl
@[simp] theorem State.wr1_bars (s : State) (k : Nat) (b : Byte) : (s.wr1 k b).bars = s.bars := rfl
@[simp] theorem State.wr1_hub (s : State) (k : Nat) (b : Byte) : (s.wr1 k b).hub = s.hub := rfl
@[simp] theorem State.wr1_recdir (s : State) (k : Nat) (b : Byte) : (s.wr1 k b).recdir = s.recdir := rfl
@[simp] theorem State.wr1_rdir (s : State) (k : Nat) (b : Byte) : (s.wr1 k b).rdir = s.rdir := rfl
@[simp] theorem State.wr1_stroke (s : State) (k : Nat) (b : Byte) : (s.wr1 k b).stroke = s.stroke := rfl
@[simp] theorem State.wr1_free (s : State) (k : Nat) (b : Byte) : (s.wr1 k b).free = s.free := rfl
@[simp] theorem State.wr1_agenda (s : State) (k : Nat) (b : Byte) : (s.wr1 k b).agenda = s.agenda := rfl

/-! ### State.endWalks -/

@[simp] theorem State.endWalks_core (s : State) : (s.endWalks).core = s.core := rfl
@[simp] theorem State.endWalks_cix (s : State) : (s.endWalks).cix = s.cix := rfl
@[simp] theorem State.endWalks_others (s : State) : (s.endWalks).others = s.others := rfl
@[simp] theorem State.endWalks_clusters (s : State) : (s.endWalks).clusters = s.clusters := rfl
@[simp] theorem State.endWalks_mem (s : State) : (s.endWalks).mem = s.mem := rfl
@[simp] theorem State.endWalks_chk (s : State) : (s.endWalks).chk = s.chk := rfl
@[simp] theorem State.endWalks_handles (s : State) : (s.endWalks).handles = s.handles := rfl
@[simp] theorem State.endWalks_ptroot (s : State) : (s.endWalks).ptroot = s.ptroot := rfl
@[simp] theorem State.endWalks_tlb (s : State) : (s.endWalks).tlb = s.tlb := rfl
@[simp] theorem State.endWalks_walks (s : State) : (s.endWalks).walks = s.walks.filter (fun w => !(w.core == s.cix && w.copy.isNone && !w.ahead)) := rfl
@[simp] theorem State.endWalks_walkFault (s : State) : (s.endWalks).walkFault = s.walkFault.filter (fun w => !(w.1.core == s.cix && w.1.copy.isNone && !w.1.ahead)) := rfl
@[simp] theorem State.endWalks_tlbflVa (s : State) : (s.endWalks).tlbflVa = s.tlbflVa := rfl
@[simp] theorem State.endWalks_tlbflAll (s : State) : (s.endWalks).tlbflAll = s.tlbflAll := rfl
@[simp] theorem State.endWalks_tlbinv (s : State) : (s.endWalks).tlbinv = s.tlbinv := rfl
@[simp] theorem State.endWalks_log (s : State) : (s.endWalks).log = s.log := rfl
@[simp] theorem State.endWalks_dom (s : State) : (s.endWalks).dom = s.dom := rfl
@[simp] theorem State.endWalks_past (s : State) : (s.endWalks).past = s.past := rfl
@[simp] theorem State.endWalks_durq (s : State) : (s.endWalks).durq = s.durq := rfl
@[simp] theorem State.endWalks_kv (s : State) : (s.endWalks).kv = s.kv := rfl
@[simp] theorem State.endWalks_mirq (s : State) : (s.endWalks).mirq = s.mirq := rfl
@[simp] theorem State.endWalks_pfx (s : State) : (s.endWalks).pfx = s.pfx := rfl
@[simp] theorem State.endWalks_ring (s : State) : (s.endWalks).ring = s.ring := rfl
@[simp] theorem State.endWalks_pond (s : State) : (s.endWalks).pond = s.pond := rfl
@[simp] theorem State.endWalks_xlast (s : State) : (s.endWalks).xlast = s.xlast := rfl
@[simp] theorem State.endWalks_peers (s : State) : (s.endWalks).peers = s.peers := rfl
@[simp] theorem State.endWalks_dies (s : State) : (s.endWalks).dies = s.dies := rfl
@[simp] theorem State.endWalks_dparts (s : State) : (s.endWalks).dparts = s.dparts := rfl
@[simp] theorem State.endWalks_bars (s : State) : (s.endWalks).bars = s.bars := rfl
@[simp] theorem State.endWalks_hub (s : State) : (s.endWalks).hub = s.hub := rfl
@[simp] theorem State.endWalks_recdir (s : State) : (s.endWalks).recdir = s.recdir := rfl
@[simp] theorem State.endWalks_rdir (s : State) : (s.endWalks).rdir = s.rdir := rfl
@[simp] theorem State.endWalks_stroke (s : State) : (s.endWalks).stroke = s.stroke := rfl
@[simp] theorem State.endWalks_free (s : State) : (s.endWalks).free = s.free := rfl
@[simp] theorem State.endWalks_agenda (s : State) : (s.endWalks).agenda = s.agenda := rfl

/-! ### State.catchUp -/

@[simp] theorem State.catchUp_core (s : State) : (s.catchUp).core = Core.release { s.core with checkLag := 0 } := rfl
@[simp] theorem State.catchUp_cix (s : State) : (s.catchUp).cix = s.cix := rfl
@[simp] theorem State.catchUp_others (s : State) : (s.catchUp).others = s.others := rfl
@[simp] theorem State.catchUp_clusters (s : State) : (s.catchUp).clusters = s.clusters := rfl
@[simp] theorem State.catchUp_mem (s : State) : (s.catchUp).mem = s.mem := rfl
@[simp] theorem State.catchUp_chk (s : State) : (s.catchUp).chk = s.chk := rfl
@[simp] theorem State.catchUp_handles (s : State) : (s.catchUp).handles = s.handles := rfl
@[simp] theorem State.catchUp_ptroot (s : State) : (s.catchUp).ptroot = s.ptroot := rfl
@[simp] theorem State.catchUp_tlb (s : State) : (s.catchUp).tlb = s.tlb := rfl
@[simp] theorem State.catchUp_walks (s : State) : (s.catchUp).walks = s.walks := rfl
@[simp] theorem State.catchUp_walkFault (s : State) : (s.catchUp).walkFault = s.walkFault := rfl
@[simp] theorem State.catchUp_tlbflVa (s : State) : (s.catchUp).tlbflVa = s.tlbflVa := rfl
@[simp] theorem State.catchUp_tlbflAll (s : State) : (s.catchUp).tlbflAll = s.tlbflAll := rfl
@[simp] theorem State.catchUp_tlbinv (s : State) : (s.catchUp).tlbinv = s.tlbinv := rfl
@[simp] theorem State.catchUp_log (s : State) : (s.catchUp).log = s.log := rfl
@[simp] theorem State.catchUp_dom (s : State) : (s.catchUp).dom = s.dom := rfl
@[simp] theorem State.catchUp_past (s : State) : (s.catchUp).past = s.past := rfl
@[simp] theorem State.catchUp_durq (s : State) : (s.catchUp).durq = s.durq := rfl
@[simp] theorem State.catchUp_kv (s : State) : (s.catchUp).kv = s.kv := rfl
@[simp] theorem State.catchUp_mirq (s : State) : (s.catchUp).mirq = s.mirq := rfl
@[simp] theorem State.catchUp_pfx (s : State) : (s.catchUp).pfx = s.pfx := rfl
@[simp] theorem State.catchUp_ring (s : State) : (s.catchUp).ring = s.ring := rfl
@[simp] theorem State.catchUp_pond (s : State) : (s.catchUp).pond = s.pond := rfl
@[simp] theorem State.catchUp_xlast (s : State) : (s.catchUp).xlast = s.xlast := rfl
@[simp] theorem State.catchUp_peers (s : State) : (s.catchUp).peers = s.peers := rfl
@[simp] theorem State.catchUp_dies (s : State) : (s.catchUp).dies = s.dies := rfl
@[simp] theorem State.catchUp_dparts (s : State) : (s.catchUp).dparts = s.dparts := rfl
@[simp] theorem State.catchUp_bars (s : State) : (s.catchUp).bars = s.bars := rfl
@[simp] theorem State.catchUp_hub (s : State) : (s.catchUp).hub = s.hub := rfl
@[simp] theorem State.catchUp_recdir (s : State) : (s.catchUp).recdir = s.recdir := rfl
@[simp] theorem State.catchUp_rdir (s : State) : (s.catchUp).rdir = s.rdir := rfl
@[simp] theorem State.catchUp_stroke (s : State) : (s.catchUp).stroke = s.stroke := rfl
@[simp] theorem State.catchUp_free (s : State) : (s.catchUp).free = s.free := rfl
@[simp] theorem State.catchUp_agenda (s : State) : (s.catchUp).agenda = s.agenda := rfl

/-! ### State.pend -/

@[simp] theorem State.pend_core (s : State) (t : TrapInfo) : (s.pend t).core = { s.core with ctx := { s.core.ctx with pending := s.core.ctx.pending ++ [t] } } := rfl
@[simp] theorem State.pend_cix (s : State) (t : TrapInfo) : (s.pend t).cix = s.cix := rfl
@[simp] theorem State.pend_others (s : State) (t : TrapInfo) : (s.pend t).others = s.others := rfl
@[simp] theorem State.pend_clusters (s : State) (t : TrapInfo) : (s.pend t).clusters = s.clusters := rfl
@[simp] theorem State.pend_mem (s : State) (t : TrapInfo) : (s.pend t).mem = s.mem := rfl
@[simp] theorem State.pend_chk (s : State) (t : TrapInfo) : (s.pend t).chk = s.chk := rfl
@[simp] theorem State.pend_handles (s : State) (t : TrapInfo) : (s.pend t).handles = s.handles := rfl
@[simp] theorem State.pend_ptroot (s : State) (t : TrapInfo) : (s.pend t).ptroot = s.ptroot := rfl
@[simp] theorem State.pend_tlb (s : State) (t : TrapInfo) : (s.pend t).tlb = s.tlb := rfl
@[simp] theorem State.pend_walks (s : State) (t : TrapInfo) : (s.pend t).walks = s.walks := rfl
@[simp] theorem State.pend_walkFault (s : State) (t : TrapInfo) : (s.pend t).walkFault = s.walkFault := rfl
@[simp] theorem State.pend_tlbflVa (s : State) (t : TrapInfo) : (s.pend t).tlbflVa = s.tlbflVa := rfl
@[simp] theorem State.pend_tlbflAll (s : State) (t : TrapInfo) : (s.pend t).tlbflAll = s.tlbflAll := rfl
@[simp] theorem State.pend_tlbinv (s : State) (t : TrapInfo) : (s.pend t).tlbinv = s.tlbinv := rfl
@[simp] theorem State.pend_log (s : State) (t : TrapInfo) : (s.pend t).log = s.log := rfl
@[simp] theorem State.pend_dom (s : State) (t : TrapInfo) : (s.pend t).dom = s.dom := rfl
@[simp] theorem State.pend_past (s : State) (t : TrapInfo) : (s.pend t).past = s.past := rfl
@[simp] theorem State.pend_durq (s : State) (t : TrapInfo) : (s.pend t).durq = s.durq := rfl
@[simp] theorem State.pend_kv (s : State) (t : TrapInfo) : (s.pend t).kv = s.kv := rfl
@[simp] theorem State.pend_mirq (s : State) (t : TrapInfo) : (s.pend t).mirq = s.mirq := rfl
@[simp] theorem State.pend_pfx (s : State) (t : TrapInfo) : (s.pend t).pfx = s.pfx := rfl
@[simp] theorem State.pend_ring (s : State) (t : TrapInfo) : (s.pend t).ring = s.ring := rfl
@[simp] theorem State.pend_pond (s : State) (t : TrapInfo) : (s.pend t).pond = s.pond := rfl
@[simp] theorem State.pend_xlast (s : State) (t : TrapInfo) : (s.pend t).xlast = s.xlast := rfl
@[simp] theorem State.pend_peers (s : State) (t : TrapInfo) : (s.pend t).peers = s.peers := rfl
@[simp] theorem State.pend_dies (s : State) (t : TrapInfo) : (s.pend t).dies = s.dies := rfl
@[simp] theorem State.pend_dparts (s : State) (t : TrapInfo) : (s.pend t).dparts = s.dparts := rfl
@[simp] theorem State.pend_bars (s : State) (t : TrapInfo) : (s.pend t).bars = s.bars := rfl
@[simp] theorem State.pend_hub (s : State) (t : TrapInfo) : (s.pend t).hub = s.hub := rfl
@[simp] theorem State.pend_recdir (s : State) (t : TrapInfo) : (s.pend t).recdir = s.recdir := rfl
@[simp] theorem State.pend_rdir (s : State) (t : TrapInfo) : (s.pend t).rdir = s.rdir := rfl
@[simp] theorem State.pend_stroke (s : State) (t : TrapInfo) : (s.pend t).stroke = s.stroke := rfl
@[simp] theorem State.pend_free (s : State) (t : TrapInfo) : (s.pend t).free = s.free := rfl
@[simp] theorem State.pend_agenda (s : State) (t : TrapInfo) : (s.pend t).agenda = s.agenda := rfl

end Sys2Proof.Machine
end

