-- ==== Sys2Proof/Laws/Table.lean ====
section
/-! SUPPORT. The laws of tables: a read after a write, and the canonical form. -/

namespace Sys2Proof.Machine

variable {α : Type}

@[simp] theorem Tab.get_nil (d : α) (k : Nat) : Tab.get d [] k = d := rfl

theorem Tab.get_erase (d : α) (t : Tab α) (k k' : Nat) : Tab.get d (Tab.erase t k) k' = if k' = k then d else Tab.get d t k' := by
  induction t with
  | nil => simp [Tab.erase]
  | cons p t ih =>
    obtain ⟨a, v⟩ := p
    simp only [Tab.erase, Tab.get]
    by_cases h : k = a
    · subst h
      rw [if_pos rfl, ih]
      by_cases h' : k' = k <;> simp [h']
    · rw [if_neg h]
      simp only [Tab.get, ih]
      by_cases h' : k' = a
      · subst h'
        simp only [if_true]
        rw [if_neg (fun e => h (Eq.symm e))]
      · simp [h']

theorem Tab.get_put (d : α) (t : Tab α) (k : Nat) (v : α) (k' : Nat) : Tab.get d (Tab.put t k v) k' = if k' = k then v else Tab.get d t k' := by
  induction t with
  | nil => simp [Tab.put, Tab.get]
  | cons p t ih =>
    obtain ⟨a, w⟩ := p
    simp only [Tab.put]
    split
    · simp [Tab.get]
    · split
      · rename_i h
        subst h
        by_cases h' : k' = k <;> simp [Tab.get, h']
      · simp only [Tab.get, ih]
        by_cases h' : k' = a
        · subst h'
          rename_i h1 h2
          simp only [if_true]
          rw [if_neg (fun e => h2 (Eq.symm e))]
        · simp [h']

/-- A read after a write. -/
theorem Tab.get_set [DecidableEq α] (d : α) (t : Tab α) (k : Nat) (v : α) (k' : Nat) :
    Tab.get d (Tab.set d t k v) k' = if k' = k then v else Tab.get d t k' := by
  unfold Tab.set
  split
  · rename_i h
    rw [get_erase, h]
  · rw [get_put]

@[simp] theorem Tab.get_set_same [DecidableEq α] (d : α) (t : Tab α) (k : Nat) (v : α) : Tab.get d (Tab.set d t k v) k = v := by
  rw [get_set, if_pos rfl]

theorem Tab.get_set_other [DecidableEq α] (d : α) (t : Tab α) {k k' : Nat} (v : α) (h : k' ≠ k) :
    Tab.get d (Tab.set d t k v) k' = Tab.get d t k' := by
  rw [get_set, if_neg h]

@[simp] theorem Tab.get_upd_same [DecidableEq α] (d : α) (t : Tab α) (k : Nat) (f : α → α) :
    Tab.get d (Tab.upd d t k f) k = f (Tab.get d t k) := Tab.get_set_same ..

theorem Tab.get_upd_other [DecidableEq α] (d : α) (t : Tab α) {k k' : Nat} (f : α → α) (h : k' ≠ k) :
    Tab.get d (Tab.upd d t k f) k' = Tab.get d t k' := Tab.get_set_other _ _ _ h

/-! ### The canonical form -/

theorem Tab.wfFrom_mono [DecidableEq α] {d : α} {t : Tab α} {l m : Nat} (h : Tab.wfFrom d (some m) t = true) (hl : l ≤ m) :
    Tab.wfFrom d (some l) t = true := by
  cases t with
  | nil => rfl
  | cons p t =>
    simp only [Tab.wfFrom, Bool.and_eq_true, decide_eq_true_eq] at h ⊢
    exact ⟨⟨by omega, h.1.2⟩, h.2⟩

theorem Tab.wfFrom_none [DecidableEq α] {d : α} {t : Tab α} {m : Nat} (h : Tab.wfFrom d (some m) t = true) :
    Tab.wfFrom d none t = true := by
  cases t with
  | nil => rfl
  | cons p t =>
    simp only [Tab.wfFrom, Bool.and_eq_true, decide_eq_true_eq] at h ⊢
    exact ⟨⟨trivial, h.1.2⟩, h.2⟩

theorem Tab.wfFrom_filter [DecidableEq α] {d : α} (f : Nat × α → Bool) {lo : Option Nat} {t : Tab α} (h : Tab.wfFrom d lo t = true) :
    Tab.wfFrom d lo (t.filter f) = true := by
  induction t generalizing lo with
  | nil => rfl
  | cons p t ih =>
    simp only [Tab.wfFrom, Bool.and_eq_true] at h
    simp only [List.filter]
    split
    · simp only [Tab.wfFrom, Bool.and_eq_true]
      exact ⟨h.1, ih h.2⟩
    · have h2 := ih h.2
      cases lo with
      | none => exact Tab.wfFrom_none h2
      | some l =>
        have h3 := h.1.1
        simp only [decide_eq_true_eq] at h3
        exact Tab.wfFrom_mono h2 (by omega)

theorem Tab.erase_eq_filter (t : Tab α) (k : Nat) : Tab.erase t k = t.filter (fun p => p.1 != k) := by
  induction t with
  | nil => rfl
  | cons p t ih =>
    obtain ⟨a, v⟩ := p
    simp only [Tab.erase, List.filter]
    by_cases h : k = a
    · subst h
      simp [ih]
    · have : (a != k) = true := by simpa using fun e => h (Eq.symm e)
      simp [h, this, ih]

theorem Tab.wfFrom_put [DecidableEq α] {d : α} {lo : Option Nat} {t : Tab α} {k : Nat} {v : α} (h : Tab.wfFrom d lo t = true)
    (hk : ∀ l, lo = some l → l < k) (hv : v ≠ d) : Tab.wfFrom d lo (Tab.put t k v) = true := by
  induction t generalizing lo with
  | nil =>
    simp only [Tab.put, Tab.wfFrom, Bool.and_eq_true, decide_eq_true_eq, Bool.and_true]
    cases lo with
    | none => exact ⟨rfl, hv⟩
    | some l => exact ⟨by simpa using hk l rfl, hv⟩
  | cons p t ih =>
    obtain ⟨a, w⟩ := p
    simp only [Tab.wfFrom, Bool.and_eq_true] at h
    obtain ⟨⟨h1, h2⟩, h3⟩ := h
    simp only [Tab.put]
    split
    · rename_i hlt
      simp only [Tab.wfFrom, Bool.and_eq_true, decide_eq_true_eq]
      refine ⟨⟨?_, hv⟩, ⟨hlt, by simpa using h2⟩, h3⟩
      cases lo with
      | none => rfl
      | some l => simpa using hk l rfl
    · split
      · rename_i he
        subst he
        simp only [Tab.wfFrom, Bool.and_eq_true, decide_eq_true_eq]
        exact ⟨⟨h1, hv⟩, h3⟩
      · simp only [Tab.wfFrom, Bool.and_eq_true]
        refine ⟨⟨h1, h2⟩, ih h3 ?_⟩
        intro l hl
        cases hl
        omega

/-- Every write keeps the canonical form. -/
theorem Tab.wf_set [DecidableEq α] {d : α} {t : Tab α} (k : Nat) (v : α) (h : Tab.wf d t = true) : Tab.wf d (Tab.set d t k v) = true := by
  unfold Tab.set
  split
  · rw [Tab.erase_eq_filter]
    exact Tab.wfFrom_filter _ h
  · rename_i hv
    exact Tab.wfFrom_put h (fun l hl => by cases hl) hv

theorem Tab.wf_filter [DecidableEq α] {d : α} {t : Tab α} (f : Nat × α → Bool) (h : Tab.wf d t = true) : Tab.wf d (t.filter f) = true :=
  Tab.wfFrom_filter f h

theorem Tab.wf_keep [DecidableEq α] {d : α} {t : Tab α} (f : Nat → Bool) (h : Tab.wf d t = true) : Tab.wf d (Tab.keep t f) = true :=
  Tab.wf_filter _ h

/-- Entries taken over, changed or left out, keep the form where no value becomes the one of an unlisted key. -/
theorem Tab.wf_filterMap [DecidableEq α] {d : α} {t : Tab α} (f : Nat × α → Option α) (hf : ∀ p, p.2 ≠ d → ∀ v, f p = some v → v ≠ d)
    (h : Tab.wf d t = true) : Tab.wf d (t.filterMap (fun p => (f p).map (fun v => (p.1, v)))) = true := by
  have go : ∀ (t : Tab α) (lo : Option Nat), Tab.wfFrom d lo t = true →
      Tab.wfFrom d lo (t.filterMap (fun p => (f p).map (fun v => (p.1, v)))) = true := by
    intro t
    induction t with
    | nil => exact fun _ _ => rfl
    | cons p t ih =>
      intro lo h
      simp only [Tab.wfFrom, Bool.and_eq_true, decide_eq_true_eq] at h
      have ht := ih (some p.1) h.2
      rw [List.filterMap_cons]
      cases hv : f p with
      | none =>
        cases lo with
        | none => exact Tab.wfFrom_none ht
        | some l => exact Tab.wfFrom_mono ht (Nat.le_of_lt (by simpa using h.1.1))
      | some v =>
        simp only [Option.map_some, Tab.wfFrom, Bool.and_eq_true, decide_eq_true_eq]
        exact ⟨⟨h.1.1, hf p h.1.2 v hv⟩, ht⟩
  exact go t none h

end Sys2Proof.Machine
end

