-- ==== Sys2Proof/Laws/Memory.lean ====
section
/-! SUPPORT. The laws of memory: a read after a write, and the canonical form, which every operation that writes memory keeps. -/

namespace Sys2Proof.Machine

/-! ### A read after a write -/

/-- A byte written is read back, and every other byte is as before. -/
theorem rd1_wr1 (s : State) (k : Nat) (b : Byte) (k' : Nat) : (s.wr1 k b).rd1 k' = if k' = k then b else s.rd1 k' :=
  Tab.get_set unlisted s.mem k b k'

@[simp] theorem rd1_wr1_same (s : State) (k : Nat) (b : Byte) : (s.wr1 k b).rd1 k = b := by
  rw [rd1_wr1, if_pos rfl]

theorem rd1_wr1_other (s : State) {k k' : Nat} (b : Byte) (h : k' ≠ k) : (s.wr1 k b).rd1 k' = s.rd1 k' := by
  rw [rd1_wr1, if_neg h]

/-- Bytes written at places leave every other place alone. -/
theorem rd1_wrKeys_other (l : List (Nat × Byte)) (s : State) {k : Nat} (h : ∀ p ∈ l, p.1 ≠ k) : (s.wrKeys l).rd1 k = s.rd1 k := by
  induction l generalizing s with
  | nil => rfl
  | cons p l ih =>
    obtain ⟨a, b⟩ := p
    rw [State.wrKeys, ih _ (fun q hq => h q (List.mem_cons_of_mem _ hq)),
      rd1_wr1_other s b (fun e => h (a, b) List.mem_cons_self e.symm)]

/-- Bytes written at consecutive places are read back. -/
theorem rdN_wrN (bs : List Byte) (s : State) (k : Nat) : (s.wrN k bs).rdN k bs.length = bs := by
  induction bs generalizing s k with
  | nil => rfl
  | cons b bs ih =>
    have hk : ∀ n, keysFrom k (n + 1) = k :: keysFrom (k + 1) n := by
      intro n
      simp only [keysFrom, List.range_succ_eq_map, List.map_cons, List.map_map, Nat.add_zero]
      congr 1
      exact List.map_congr_left (fun i _ => by simp only [Function.comp]; omega)
    have e : s.wrN k (b :: bs) = (s.wr1 k b).wrN (k + 1) bs := by
      rw [State.wrN, List.length_cons, hk]
      rfl
    rw [State.rdN, List.length_cons, hk, State.rdKeys, List.map_cons]
    have h1 := ih (s.wr1 k b) (k + 1)
    rw [State.rdN, State.rdKeys] at h1
    rw [e, h1]
    congr 1
    rw [State.wrN, rd1_wrKeys_other, rd1_wr1_same]
    intro p hp he
    have hp' : p.1 ∈ keysFrom (k + 1) bs.length := (List.of_mem_zip hp).1
    rw [keysFrom, List.mem_map] at hp'
    obtain ⟨i, _, hi⟩ := hp'
    omega

/-- The number that the bytes of a number make. -/
theorem leNat_leBytes (n v : Nat) : leNat (leBytes v n) = v % 256 ^ n := by
  induction n generalizing v with
  | zero => simp [leBytes, leNat, Nat.mod_one]
  | succ n ih =>
    have h : v % 256 ^ (n + 1) = v % 256 + 256 * (v / 256 % 256 ^ n) := by rw [Nat.pow_succ', Nat.mod_mul]
    rw [leBytes, leNat, ih, BitVec.toNat_ofNat, h]

@[simp] theorem leBytes_length (n v : Nat) : (leBytes v n).length = n := by
  induction n generalizing v with
  | zero => rfl
  | succ n ih => rw [leBytes, List.length_cons, ih]

/-- A number written is read back, modulo its width. -/
theorem rdLE_wrLE (s : State) (k n v : Nat) : (s.wrLE k n v).rdLE k n = v % 256 ^ n := by
  have h := rdN_wrN (leBytes v n) s k
  rw [leBytes_length] at h
  rw [State.rdLE, State.wrLE, h, leNat_leBytes]

/-- A write leaves what lies outside its places alone. -/
theorem rd1_wrN_other (s : State) (k : Nat) (bs : List Byte) {q : Nat} (h : q < k ∨ k + bs.length ≤ q) : (s.wrN k bs).rd1 q = s.rd1 q := by
  refine rd1_wrKeys_other _ s (fun p hp he => ?_)
  have hp' : p.1 ∈ keysFrom k bs.length := (List.of_mem_zip hp).1
  rw [keysFrom, List.mem_map] at hp'
  obtain ⟨i, hi, e⟩ := hp'
  have := List.mem_range.1 hi
  omega

theorem rdN_wrN_other (s : State) (k : Nat) (bs : List Byte) (q n : Nat) (h : q + n ≤ k ∨ k + bs.length ≤ q) :
    (s.wrN k bs).rdN q n = s.rdN q n := by
  refine List.map_congr_left (fun x hx => ?_)
  rw [keysFrom, List.mem_map] at hx
  obtain ⟨i, hi, e⟩ := hx
  have := List.mem_range.1 hi
  exact rd1_wrN_other s k bs (by omega)

/-- Only what memory holds counts for a read. -/
theorem rd1_of_mem_eq {s t : State} (h : t.mem = s.mem) (k : Nat) : t.rd1 k = s.rd1 k := by
  rw [State.rd1, State.rd1, h]

theorem sameBytes_of_mem_eq {s t : State} (h : t.mem = s.mem) : SameBytes s t := rd1_of_mem_eq h

/-! ### The canonical form -/

theorem memWf_reset : State.reset.memWf := by
  unfold State.memWf
  decide

theorem memWf_of_mem_eq {s t : State} (e : t.mem = s.mem) (h : s.memWf) : t.memWf := by
  rw [State.memWf, e]
  exact h

theorem memWf_of_keep {s t : State} {f : Nat → Bool} (e : t.mem = Tab.keep s.mem f) (h : s.memWf) : t.memWf := by
  rw [State.memWf, e]
  exact Tab.wf_keep f h

theorem memWf_wr1 {s : State} (k : Nat) (b : Byte) (h : s.memWf) : (s.wr1 k b).memWf := Tab.wf_set k b h

theorem memWf_wrKeys (l : List (Nat × Byte)) {s : State} (h : s.memWf) : (s.wrKeys l).memWf := by
  induction l generalizing s with
  | nil => exact h
  | cons p l ih => exact ih (memWf_wr1 p.1 p.2 h)

theorem memWf_wrN {s : State} (k : Nat) (bs : List Byte) (h : s.memWf) : (s.wrN k bs).memWf := memWf_wrKeys _ h

theorem memWf_wrLE {s : State} (k n v : Nat) (h : s.memWf) : (s.wrLE k n v).memWf := memWf_wrN k _ h

@[simp] theorem setCore_mem (s : State) (k : Nat) (c : Core) : (s.setCore k c).mem = s.mem := by
  unfold State.setCore
  split <;> rfl

@[simp] theorem updCore_mem (s : State) (k : Nat) (f : Core → Core) : (s.updCore k f).mem = s.mem := setCore_mem s k _

@[simp] theorem focus_mem (s : State) (k : Nat) : (s.focus k).mem = s.mem := by
  unfold State.focus
  split <;> rfl

theorem memWf_wakeBuf {s : State} (k sp b : Nat) (h : s.memWf) : (s.wakeBuf k sp b).memWf := by
  refine memWf_of_mem_eq (updCore_mem _ k _) ?_
  split
  · exact memWf_of_keep (f := fun a => !(decide (rBuf k sp + 262144 * b ≤ a) && decide (a < rBuf k sp + 262144 * b + 262144))) rfl h
  · exact h

theorem memWf_wakeAll (l : List (Nat × Nat × Nat)) {s : State} (h : s.memWf) : (s.wakeAll l).memWf := by
  induction l generalizing s with
  | nil => exact h
  | cons p l ih => exact ih (memWf_wakeBuf p.1 p.2.1 p.2.2 h)

/-- Bytes written by an agent. -/
theorem memWf_store {s : State} (l : List (Nat × Byte)) (h : s.memWf) : (s.store l).memWf := memWf_wrKeys l (memWf_wakeAll _ h)

theorem memWf_startWakes {s : State} (ks : List Nat) (h : s.memWf) : (s.startWakes ks).memWf := memWf_wakeAll _ h

theorem memWf_coreWrite {s : State} (durable : Bool) (ks : List Nat) (bs : List Byte) (h : s.memWf) : (s.coreWrite durable ks bs).memWf := by
  refine memWf_of_mem_eq ?_ (memWf_store (List.zip ks bs) h)
  unfold State.coreWrite State.markDurable
  split <;> rfl

theorem memWf_setBuf {s : State} (st : BankSt) (sp b : Nat) (h : s.memWf) : (s.setBuf st sp b).memWf := by
  unfold State.setBuf
  split
  · exact h
  · exact h
  · exact memWf_wakeBuf _ _ _ h
  · exact h
  · exact memWf_of_mem_eq rfl h
  · exact memWf_of_keep (f := fun a => !(decide (rBuf s.cix sp + 262144 * b ≤ a) && decide (a < rBuf s.cix sp + 262144 * b + 262144))) rfl h

theorem memWf_flipStored {s : State} (key b : Nat) (h : s.memWf) : (s.flipStored key b).memWf := by
  unfold State.flipStored
  dsimp only
  split
  · exact Tab.wf_set _ _ h
  · exact h

theorem memWf_copyBody {s : State} (a sid : Nat) (h : s.memWf) : (s.copyBody a sid).memWf := by
  have go : ∀ (l : List Host.Cell) (t : State), t.memWf → (l.foldl (fun s c => s.wr1 (rSeg sid + (c.1 - a)) c.2) t).memWf := by
    intro l
    induction l with
    | nil => exact fun t ht => ht
    | cons c l ih => exact fun t ht => ih _ (memWf_wr1 _ _ ht)
  exact go _ s h

theorem memWf_scrub (l : List Nat) {s : State} (h : s.memWf) : (s.scrub l).1.memWf := by
  induction l generalizing s with
  | nil => exact h
  | cons w l ih =>
    unfold State.scrub
    split
    · exact ih h
    · exact ih (memWf_of_mem_eq rfl h)
    · exact ih (memWf_of_mem_eq rfl (memWf_wrLE (8 * w) 8 _ h))
    · exact memWf_of_mem_eq rfl h

/-! ### Operations over many places -/

/-- A fold keeps the form where each of its steps does. -/
theorem memWf_foldl {β : Type} {f : State → β → State} (hf : ∀ t b, t.memWf → (f t b).memWf) (l : List β) {s : State} (h : s.memWf) :
    (l.foldl f s).memWf := by
  induction l generalizing s with
  | nil => exact h
  | cons b l ih => exact ih (hf s b h)

/-- A fold leaves memory alone where each of its steps does. -/
theorem foldl_mem {β : Type} {f : State → β → State} (hf : ∀ t b, (f t b).mem = t.mem) (l : List β) (s : State) : (l.foldl f s).mem = s.mem := by
  induction l generalizing s with
  | nil => rfl
  | cons b l ih => exact (ih (f s b)).trans (hf s b)

theorem memWf_scrambleBufs {s : State} (k : Nat) (h : s.memWf) : (s.scrambleBufs k).memWf := memWf_foldl (fun _ _ ht => memWf_wrN _ _ ht) _ h

/-- Undefined buffers are undefined within themselves alone (05 R118). -/
theorem rd1_scrambleBufs_other (s : State) (k q : Nat)
    (h : ∀ b ∈ bufBytes.mapIdx (fun sp n => (rBuf k sp, n)), q < b.1 ∨ b.1 + b.2 ≤ q) : (s.scrambleBufs k).rd1 q = s.rd1 q := by
  unfold State.scrambleBufs
  generalize bufBytes.mapIdx (fun sp n => (rBuf k sp, n)) = l at h
  induction l generalizing s with
  | nil => rfl
  | cons b l ih =>
    rw [List.foldl_cons, ih _ (fun c hc => h c (List.mem_cons_of_mem _ hc)), rd1_wrN_other]
    rw [List.length_map, List.length_range]
    exact h b List.mem_cons_self

@[simp] theorem powerGone_mem (s : State) (k : Nat) : (s.powerGone k).mem = s.mem := rfl

@[simp] theorem atGone_mem (s : State) (core own num : Nat) : (s.atGone core own num).mem = s.mem := rfl

@[simp] theorem readersGone_mem (s : State) (k : Nat) : (s.readersGone k).mem = s.mem :=
  foldl_mem (fun t (a : AtRun) => atGone_mem t k a.owner a.op.num) _ s

theorem readersGone_getCore (s : State) (k j : Nat) : (s.readersGone k).getCore j = s.getCore j := by
  have go : ∀ (l : List AtRun) (t : State), (l.foldl (fun s a => s.atGone k a.owner a.op.num) t).getCore j = t.getCore j := by
    intro l
    induction l with
    | nil => exact fun _ => rfl
    | cons a l ih => exact fun t => ih _
  exact go _ s

@[simp] theorem forgetCore_mem (s : State) (k : Nat) : (s.forgetCore k).mem = s.mem := rfl

theorem memWf_writeDom {s : State} (l : List Host.Cell) (h : s.memWf) : (s.writeDom l).memWf := memWf_of_mem_eq rfl (memWf_wrKeys l h)

theorem memWf_tearRecords {s : State} (ks : List Nat) (h : s.memWf) : (s.tearRecords ks).memWf :=
  memWf_foldl (fun _ _ ht => by
    split
    · exact memWf_writeDom _ ht
    · exact ht) _ h

/-- A reset that meets no record being written tears none (17 R410). -/
theorem tearRecords_none (s : State) (ks : List Nat) (h : ∀ k ∈ ks, ∀ x ∈ (s.getCore k).contexts, x.rp = none) : s.tearRecords ks = s := by
  have e : s.recordsOf ks = [] := by
    rw [State.recordsOf, List.flatten_eq_nil_iff]
    intro l hl
    obtain ⟨k, hk, rfl⟩ := List.mem_map.1 hl
    rw [List.filterMap_eq_nil_iff.2 (h k hk), List.filter_nil]
  rw [State.tearRecords, e]
  rfl

theorem memWf_resetCore {s : State} (k : Nat) (h : s.memWf) : (s.resetCore k).memWf := by
  rw [State.resetCore]
  refine memWf_of_mem_eq ((State.fresh_mem _).trans (forgetCore_mem _ k))
    (memWf_scrambleBufs k (memWf_of_mem_eq ?_ (memWf_tearRecords [k] (memWf_of_mem_eq (readersGone_mem s k) h))))
  rw [setCore_mem, powerGone_mem]

/-- A core reset that meets no record being written changes memory in the buffers of the core alone (05 R118). -/
theorem rd1_resetCore_other (s : State) (k q : Nat) (hr : ∀ x ∈ (s.getCore k).contexts, x.rp = none)
    (h : ∀ b ∈ bufBytes.mapIdx (fun sp n => (rBuf k sp, n)), q < b.1 ∨ b.1 + b.2 ≤ q) : (s.resetCore k).rd1 q = s.rd1 q := by
  have e : (s.readersGone k).getCore k = s.getCore k := readersGone_getCore s k k
  rw [State.resetCore, tearRecords_none _ [k] (fun j hj => by rw [List.mem_singleton.1 hj, e]; exact hr),
    rd1_of_mem_eq ((State.fresh_mem _).trans (forgetCore_mem _ k)), rd1_scrambleBufs_other _ k q h, rd1_of_mem_eq (setCore_mem _ _ _),
    rd1_of_mem_eq (powerGone_mem _ k), rd1_of_mem_eq (readersGone_mem s k)]

@[simp] theorem fixHandle_mem (s : State) (st p h : Nat) : (State.fixHandle st p s h).mem = s.mem := by
  unfold State.fixHandle
  split <;> rfl

@[simp] theorem fixHandles_mem (s : State) (st owner : Nat) : (s.fixHandles st owner).mem = s.mem :=
  foldl_mem (fun t p => foldl_mem (fun u h => by
    split
    · rfl
    · exact fixHandle_mem u st p h) _ t) _ s

theorem memWf_allot {s : State} (n owner : Nat) (h : s.memWf) : (s.allot n owner).memWf := by
  have h1 : ((s.updCluster n (fun c => { c with owner := owner })).fixHandles (n / 6) owner).memWf :=
    memWf_of_mem_eq (fixHandles_mem _ _ _) (memWf_of_mem_eq (s := s) rfl h)
  have h2 := fun (f : State → Nat → State) hf => memWf_foldl (f := f) hf (List.range 8) h1
  unfold State.allot
  dsimp only
  split
  · refine memWf_of_mem_eq rfl (h2 _ ?_)
    intro t b ht
    split
    · exact memWf_resetCore _ ht
    · exact ht
  · refine h2 _ ?_
    intro t b ht
    split
    · exact memWf_resetCore _ ht
    · exact ht

theorem memWf_writeList {s : State} (k : Nat) (t : ArrTask) (h : s.memWf) : (s.writeList k t).memWf := by
  unfold State.writeList
  split
  · exact memWf_wrKeys _ h
  · exact h

theorem memWf_dropDurable {s : State} (lost kept : List DurWrite) (h : s.memWf) : (s.dropDurable lost kept).memWf := by
  unfold State.dropDurable
  dsimp only
  refine memWf_of_mem_eq rfl (memWf_foldl ?_ _ h)
  intro t b ht
  split
  · exact memWf_of_mem_eq rfl (memWf_wr1 _ _ ht)
  · exact ht

theorem memWf_intoDomain {s : State} (l : List Host.Cell) (h : s.memWf) : (s.intoDomain l).memWf := memWf_of_mem_eq rfl h

theorem memWf_selfRefresh {s : State} (h : s.memWf) : s.selfRefresh.memWf := by
  unfold State.selfRefresh
  refine memWf_foldl ?_ _ (memWf_foldl (fun _ (d : DurWrite) ht => memWf_intoDomain d.bytes ht) _ (memWf_of_mem_eq rfl (memWf_dropDurable _ _ h)))
  intro t e ht
  dsimp only
  split
  · exact ht
  · exact memWf_wr1 _ _ ht

/-- What a warm reset leaves of memory is canonical (17 R403). -/
theorem memWf_warmReset {s : State} (h : s.memWf) : s.warmReset.memWf := by
  rw [State.warmReset]
  replace h := memWf_selfRefresh (memWf_tearRecords s.coreNos h)
  generalize (s.tearRecords s.coreNos).selfRefresh = t at h
  exact Tab.wf_filter _ h

/-! ### The digest of an image (16 R401, 17 R409) -/

/-- The digest has 128 bits. -/
theorem shake128_lt (m : List Byte) : shake128 m < 2 ^ 128 := by
  have h0 := (lane (absorbAll (List.replicate 25 0) m (m.length / 136 + 1)) 0).isLt
  have h1 := (lane (absorbAll (List.replicate 25 0) m (m.length / 136 + 1)) 1).isLt
  change (lane _ 0).toNat + (lane _ 1).toNat * 2 ^ 64 < 2 ^ 128
  omega

/-- A number written leaves what lies outside its places alone. -/
theorem rdN_wrLE_other (s : State) (k n v q m : Nat) (h : q + m ≤ k ∨ k + n ≤ q) : (s.wrLE k n v).rdN q m = s.rdN q m :=
  rdN_wrN_other s k (leBytes v n) q m (by rw [leBytes_length]; exact h)

theorem rdLE_wrLE_other (s : State) (k n v q m : Nat) (h : q + m ≤ k ∨ k + n ≤ q) : (s.wrLE k n v).rdLE q m = s.rdLE q m := by
  rw [State.rdLE, rdN_wrLE_other s k n v q m h, State.rdLE]

/-- An image whose header words are as `imageGood` asks, once its digest is written, is good. -/
theorem imageGood_of_digest (s : State) (key part d : Nat)
    (hd : d = shake128 (s.rdN (key + 0xB00) 1280 ++ s.rdN (key + 0x12C00) 54272))
    (h0 : s.rdLE (key + 0x400) 8 % 2 ^ 16 = implNo) (h1 : s.rdLE (key + 0x400) 8 / 2 ^ 16 % 4 = part)
    (h2 : s.rdLE (key + 0x400) 8 / 2 ^ 20 = 0) (h3 : ∀ i < 12, s.rdLE (key + 0x400 + 8 * (52 + i)) 8 = 0) :
    ((s.wrLE (key + 0x4F0) 8 d).wrLE (key + 0x4F8) 8 (d / 2 ^ 64)).imageGood key part = true := by
  have hlt : d < 2 ^ 128 := hd ▸ shake128_lt _
  have other : ∀ q m, q + m ≤ key + 0x4F0 ∨ key + 0x500 ≤ q →
      ((s.wrLE (key + 0x4F0) 8 d).wrLE (key + 0x4F8) 8 (d / 2 ^ 64)).rdLE q m = s.rdLE q m := fun q m h => by
    rw [rdLE_wrLE_other _ _ _ _ _ _ (by omega), rdLE_wrLE_other _ _ _ _ _ _ (by omega)]
  have otherN : ∀ q m, key + 0x500 ≤ q →
      ((s.wrLE (key + 0x4F0) 8 d).wrLE (key + 0x4F8) 8 (d / 2 ^ 64)).rdN q m = s.rdN q m := fun q m h => by
    rw [rdN_wrLE_other _ _ _ _ _ _ (by omega), rdN_wrLE_other _ _ _ _ _ _ (by omega)]
  have w30 : ((s.wrLE (key + 0x4F0) 8 d).wrLE (key + 0x4F8) 8 (d / 2 ^ 64)).rdLE (key + 0x400 + 8 * 30) 8 = d % 2 ^ 64 := by
    rw [rdLE_wrLE_other _ _ _ _ _ _ (by omega), show key + 0x400 + 8 * 30 = key + 0x4F0 by omega, rdLE_wrLE,
      show (256 : Nat) ^ 8 = 2 ^ 64 by decide]
  have w31 : ((s.wrLE (key + 0x4F0) 8 d).wrLE (key + 0x4F8) 8 (d / 2 ^ 64)).rdLE (key + 0x400 + 8 * 31) 8 = d / 2 ^ 64 := by
    rw [show key + 0x400 + 8 * 31 = key + 0x4F8 by omega, rdLE_wrLE]
    omega
  have w0 : ((s.wrLE (key + 0x4F0) 8 d).wrLE (key + 0x4F8) 8 (d / 2 ^ 64)).rdLE (key + 0x400 + 8 * 0) 8 = s.rdLE (key + 0x400) 8 :=
    other _ _ (by omega)
  have wz : (List.range 12).all (fun i =>
      ((s.wrLE (key + 0x4F0) 8 d).wrLE (key + 0x4F8) 8 (d / 2 ^ 64)).rdLE (key + 0x400 + 8 * (52 + i)) 8 == 0) = true := by
    rw [List.all_eq_true]
    intro i hi
    rw [other _ _ (by omega), h3 i (List.mem_range.1 hi)]
    rfl
  unfold State.imageGood
  simp only [w0, w30, w31, wz, otherN _ _ (show key + 0x500 ≤ key + 0xB00 by omega), otherN _ _ (show key + 0x500 ≤ key + 0x12C00 by omega), ← hd,
    h0, h1, h2, put, Bool.and_eq_true, beq_iff_eq, and_self, true_and]
  omega
end Sys2Proof.Machine
end

