-- ==== Sys2Proof/Laws/PerInstr.lean ====
section
/-! SUPPORT. The statements made per instruction, with one lemma for each constructor of Instr. -/

namespace Sys2Proof.Laws.VectorUse

/-- 06 R128: an instruction uses the fields of slot V exactly where its encoding is a word of slot V (an event has neither). -/
def Statement (i : Instr) : Prop :=
  (vUse i).isSome = (match encode i with
    | some (.v _) => true
    | _ => false)

theorem brZ (s : Reg) (disp : BitVec 19) : Statement (.brZ s disp) := rfl
theorem brNz (s : Reg) (disp : BitVec 19) : Statement (.brNz s disp) := rfl
theorem brpAny (p : Reg) (width : BitVec 2) (disp : BitVec 16) : Statement (.brpAny p width disp) := rfl
theorem brpAll (p : Reg) (width : BitVec 2) (disp : BitVec 16) : Statement (.brpAll p width disp) := rfl
theorem brpNone (p : Reg) (width : BitVec 2) (disp : BitVec 16) : Statement (.brpNone p width disp) := rfl
theorem jmp (disp : BitVec 26) : Statement (.jmp disp) := rfl
theorem call (disp : BitVec 26) : Statement (.call disp) := rfl
theorem jmpr (s : Reg) : Statement (.jmpr s) := rfl
theorem callr (s : Reg) : Statement (.callr s) := rfl
theorem loopSet (l : BitVec 2) (s : Reg) (off : BitVec 18) : Statement (.loopSet l s off) := rfl
theorem loopSeti (l : BitVec 2) (count : BitVec 12) (off : BitVec 12) : Statement (.loopSeti l count off) := rfl
theorem loopEnd (l : BitVec 2) : Statement (.loopEnd l) := rfl
theorem tsbAny (cb : BitVec 4) (mask : BitVec 6) (disp : BitVec 15) : Statement (.tsbAny cb mask disp) := rfl
theorem tsbNone (cb : BitVec 4) (mask : BitVec 6) (disp : BitVec 15) : Statement (.tsbNone cb mask disp) := rfl
theorem ipf (n : BitVec 4) (disp : BitVec 22) : Statement (.ipf n disp) := rfl
theorem phmark (disp : BitVec 26) : Statement (.phmark disp) := rfl
theorem trap (code : BitVec 16) : Statement (.trap code) := rfl
theorem brk (code : BitVec 16) : Statement (.brk code) := rfl
theorem csrr (d : Reg) (csr : BitVec 12) : Statement (.csrr d csr) := rfl
theorem csrw (csr : BitVec 12) (a : Reg) : Statement (.csrw csr a) := rfl
theorem csrs (csr : BitVec 12) (a : Reg) : Statement (.csrs csr a) := rfl
theorem csrc (csr : BitVec 12) (a : Reg) : Statement (.csrc csr a) := rfl
theorem add (d : Reg) (a : Reg) (b : Reg) : Statement (.add d a b) := rfl
theorem sub (d : Reg) (a : Reg) (b : Reg) : Statement (.sub d a b) := rfl
theorem mul (d : Reg) (a : Reg) (b : Reg) : Statement (.mul d a b) := rfl
theorem mulh (d : Reg) (a : Reg) (b : Reg) : Statement (.mulh d a b) := rfl
theorem mulhn (d : Reg) (a : Reg) (b : Reg) : Statement (.mulhn d a b) := rfl
theorem div (d : Reg) (a : Reg) (b : Reg) : Statement (.div d a b) := rfl
theorem divn (d : Reg) (a : Reg) (b : Reg) : Statement (.divn d a b) := rfl
theorem rem (d : Reg) (a : Reg) (b : Reg) : Statement (.rem d a b) := rfl
theorem remn (d : Reg) (a : Reg) (b : Reg) : Statement (.remn d a b) := rfl
theorem and (d : Reg) (a : Reg) (b : Reg) : Statement (.and d a b) := rfl
theorem or (d : Reg) (a : Reg) (b : Reg) : Statement (.or d a b) := rfl
theorem xor (d : Reg) (a : Reg) (b : Reg) : Statement (.xor d a b) := rfl
theorem andn (d : Reg) (a : Reg) (b : Reg) : Statement (.andn d a b) := rfl
theorem shl (d : Reg) (a : Reg) (b : Reg) : Statement (.shl d a b) := rfl
theorem shr (d : Reg) (a : Reg) (b : Reg) : Statement (.shr d a b) := rfl
theorem sar (d : Reg) (a : Reg) (b : Reg) : Statement (.sar d a b) := rfl
theorem rol (d : Reg) (a : Reg) (b : Reg) : Statement (.rol d a b) := rfl
theorem min (d : Reg) (a : Reg) (b : Reg) : Statement (.min d a b) := rfl
theorem max (d : Reg) (a : Reg) (b : Reg) : Statement (.max d a b) := rfl
theorem minn (d : Reg) (a : Reg) (b : Reg) : Statement (.minn d a b) := rfl
theorem maxn (d : Reg) (a : Reg) (b : Reg) : Statement (.maxn d a b) := rfl
theorem seq (d : Reg) (a : Reg) (b : Reg) : Statement (.seq d a b) := rfl
theorem sne (d : Reg) (a : Reg) (b : Reg) : Statement (.sne d a b) := rfl
theorem slt (d : Reg) (a : Reg) (b : Reg) : Statement (.slt d a b) := rfl
theorem sltn (d : Reg) (a : Reg) (b : Reg) : Statement (.sltn d a b) := rfl
theorem sle (d : Reg) (a : Reg) (b : Reg) : Statement (.sle d a b) := rfl
theorem slen (d : Reg) (a : Reg) (b : Reg) : Statement (.slen d a b) := rfl
theorem clz (d : Reg) (a : Reg) : Statement (.clz d a) := rfl
theorem ctz (d : Reg) (a : Reg) : Statement (.ctz d a) := rfl
theorem popc (d : Reg) (a : Reg) : Statement (.popc d a) := rfl
theorem bswap (d : Reg) (a : Reg) : Statement (.bswap d a) := rfl
theorem mov (d : Reg) (a : Reg) : Statement (.mov d a) := rfl
theorem addi (d : Reg) (a : Reg) (imm : BitVec 32) : Statement (.addi d a imm) := rfl
theorem andi (d : Reg) (a : Reg) (imm : BitVec 32) : Statement (.andi d a imm) := rfl
theorem ori (d : Reg) (a : Reg) (imm : BitVec 32) : Statement (.ori d a imm) := rfl
theorem xori (d : Reg) (a : Reg) (imm : BitVec 32) : Statement (.xori d a imm) := rfl
theorem shli (d : Reg) (a : Reg) (amt : BitVec 6) : Statement (.shli d a amt) := rfl
theorem shri (d : Reg) (a : Reg) (amt : BitVec 6) : Statement (.shri d a amt) := rfl
theorem sari (d : Reg) (a : Reg) (amt : BitVec 6) : Statement (.sari d a amt) := rfl
theorem slti (d : Reg) (a : Reg) (imm : BitVec 32) : Statement (.slti d a imm) := rfl
theorem sltni (d : Reg) (a : Reg) (imm : BitVec 32) : Statement (.sltni d a imm) := rfl
theorem seqi (d : Reg) (a : Reg) (imm : BitVec 32) : Statement (.seqi d a imm) := rfl
theorem muli (d : Reg) (a : Reg) (imm : BitVec 32) : Statement (.muli d a imm) := rfl
theorem li (d : Reg) (imm : BitVec 32) : Statement (.li d imm) := rfl
theorem lih (d : Reg) (imm : BitVec 32) : Statement (.lih d imm) := rfl
theorem sel (d : Reg) (a : Reg) (b : Reg) (p : Reg) (idx : BitVec 6) : Statement (.sel d a b p idx) := rfl
theorem ld (size : LdSize) (d : Reg) (base : Reg) (handle : BitVec 12) (imm : BitVec 20) : Statement (.ld size d base handle imm) := rfl
theorem st (size : StSize) (src : Reg) (base : Reg) (handle : BitVec 12) (imm : BitVec 20) : Statement (.st size src base handle imm) := rfl
theorem vld (m : VMem) : Statement (.vld m) := rfl
theorem vst (m : VMem) : Statement (.vst m) := rfl
theorem vldVer (m : VMem) : Statement (.vldVer m) := rfl
theorem amo (op : AmoOp) (dword : Bool) (scope : Scope) (d : Reg) (base : Reg) (b : Reg) (handle : BitVec 12) (imm : BitVec 20) : Statement (.amo op dword scope d base b handle imm) := rfl
theorem cas (dword : Bool) (scope : Scope) (d : Reg) (base : Reg) (b : Reg) (c : Reg) (handle : BitVec 12) (imm : BitVec 18) : Statement (.cas dword scope d base b c handle imm) := rfl
theorem boArr (d : Reg) (base : Reg) (b : Reg) (handle : BitVec 12) (imm : BitVec 20) : Statement (.boArr d base b handle imm) := rfl
theorem boWait (d : Reg) (base : Reg) (b : Reg) (e : Reg) (handle : BitVec 12) (imm : BitVec 20) : Statement (.boWait d base b e handle imm) := rfl
theorem fence (scope : Scope) : Statement (.fence scope) := rfl
theorem hset (a : Reg) (b : Reg) : Statement (.hset a b) := rfl
theorem hinv (a : Reg) : Statement (.hinv a) := rfl
theorem dstc (c : Reg) (base : Reg) (b : Reg) (handle : BitVec 12) (imm : BitVec 20) : Statement (.dstc c base b handle imm) := rfl
theorem dldc (d : Reg) (base : Reg) (handle : BitVec 12) (imm : BitVec 20) : Statement (.dldc d base handle imm) := rfl
theorem vadd (v : VArgs) : Statement (.vadd v) := rfl
theorem vsub (v : VArgs) : Statement (.vsub v) := rfl
theorem vmul (v : VArgs) : Statement (.vmul v) := rfl
theorem vfma (op : FmaOp) (v : VArgs) : Statement (.vfma op v) := rfl
theorem vmin (v : VArgs) : Statement (.vmin v) := rfl
theorem vmax (v : VArgs) : Statement (.vmax v) := rfl
theorem vabs (v : VArgs) : Statement (.vabs v) := rfl
theorem vneg (v : VArgs) : Statement (.vneg v) := rfl
theorem vand (v : VArgs) : Statement (.vand v) := rfl
theorem vor (v : VArgs) : Statement (.vor v) := rfl
theorem vxor (v : VArgs) : Statement (.vxor v) := rfl
theorem vnot (v : VArgs) : Statement (.vnot v) := rfl
theorem vshl (v : VArgs) : Statement (.vshl v) := rfl
theorem vshr (v : VArgs) : Statement (.vshr v) := rfl
theorem vsar (v : VArgs) : Statement (.vsar v) := rfl
theorem vcmp (op : CmpOp) (v : VArgs) : Statement (.vcmp op v) := rfl
theorem vsel (v : VArgs) : Statement (.vsel v) := rfl
theorem vcvt (src : VTy) (v : VArgs) : Statement (.vcvt src v) := rfl
theorem vexp2 (v : VArgs) : Statement (.vexp2 v) := rfl
theorem vlog2 (v : VArgs) : Statement (.vlog2 v) := rfl
theorem vrcp (v : VArgs) : Statement (.vrcp v) := rfl
theorem vrsq (v : VArgs) : Statement (.vrsq v) := rfl
theorem vtanh (v : VArgs) : Statement (.vtanh v) := rfl
theorem vred (op : RedOp) (v : VArgs) : Statement (.vred op v) := rfl
theorem vperm (v : VArgs) : Statement (.vperm v) := rfl
theorem vbcast (v : VArgs) : Statement (.vbcast v) := rfl
theorem vext (v : VArgs) : Statement (.vext v) := rfl
theorem vins (v : VArgs) : Statement (.vins v) := rfl
theorem vmov (v : VArgs) : Statement (.vmov v) := rfl
theorem vrot (v : VArgs) : Statement (.vrot v) := rfl
theorem vquant (v : VArgs) : Statement (.vquant v) := rfl
theorem vdeq (v : VArgs) : Statement (.vdeq v) := rfl
theorem vdot (v : VArgs) : Statement (.vdot v) := rfl
theorem vsmx (v : VArgs) : Statement (.vsmx v) := rfl
theorem vpack (v : VArgs) : Statement (.vpack v) := rfl
theorem vunpk (v : VArgs) : Statement (.vunpk v) := rfl
theorem pand (v : VArgs) : Statement (.pand v) := rfl
theorem por (v : VArgs) : Statement (.por v) := rfl
theorem pxor (v : VArgs) : Statement (.pxor v) := rfl
theorem pnot (v : VArgs) : Statement (.pnot v) := rfl
theorem ppopc (v : VArgs) : Statement (.ppopc v) := rfl
theorem cbSet (cb : BitVec 4) (a : Reg) : Statement (.cbSet cb a) := rfl
theorem cbPush (cb : BitVec 4) (n : BitVec 9) : Statement (.cbPush cb n) := rfl
theorem cbPop (cb : BitVec 4) (n : BitVec 9) : Statement (.cbPop cb n) := rfl
theorem cbWait (d : Reg) (cb : BitVec 4) (room : Bool) (n : BitVec 9) (b : Reg) : Statement (.cbWait d cb room n b) := rfl
theorem cbRd (d : Reg) (cb : BitVec 4) (what : BitVec 2) (k : BitVec 8) : Statement (.cbRd d cb what k) := rfl
theorem cbRel (mask : BitVec 16) : Statement (.cbRel mask) := rfl
theorem mm (tmpl : BitVec 6) (keep : Bool) (a : Reg) (b : Reg) (c : Reg) : Statement (.mm tmpl keep a b c) := rfl
theorem mtLd (eng : Eng) (tmpl : BitVec 6) (a : Reg) : Statement (.mtLd eng tmpl a) := rfl
theorem ftLd (first : BitVec 5) (n : BitVec 5) (a : Reg) : Statement (.ftLd first n a) := rfl
theorem epLd (tmpl : BitVec 6) (n : BitVec 5) (a : Reg) : Statement (.epLd tmpl n a) := rfl
theorem patchPair (hi : PatchWord) (lo : PatchWord) : Statement (.patchPair hi lo) := rfl
theorem cp (f : CpFlags) (cb : BitVec 4) (d : Reg) (a : Reg) (b : Reg) (c : Reg) : Statement (.cp f cb d a b c) := rfl
theorem cpM (ver : Bool) (ph : Bool) (cb : BitVec 4) (off : BitVec 16) (d : Reg) (a : Reg) (b : Reg) (c : Reg) : Statement (.cpM ver ph cb off d a b c) := rfl
theorem cp2d (f : CpFlags) (tmpl : BitVec 6) (cb : BitVec 4) (d : Reg) (a : Reg) (b : Reg) (c : Reg) : Statement (.cp2d f tmpl cb d a b c) := rfl
theorem gat (f : CpFlags) (tmpl : BitVec 6) (cb : BitVec 4) (d : Reg) (a : Reg) (b : Reg) (c : Reg) : Statement (.gat f tmpl cb d a b c) := rfl
theorem sca (f : CpFlags) (tmpl : BitVec 6) (cb : BitVec 4) (d : Reg) (a : Reg) (b : Reg) (c : Reg) : Statement (.sca f tmpl cb d a b c) := rfl
theorem cpRes (d : Reg) (a : Reg) : Statement (.cpRes d a) := rfl
theorem cpResDrop (d : Reg) (a : Reg) : Statement (.cpResDrop d a) := rfl
theorem copyChunk (num : Nat) : Statement (.copyChunk num) := rfl
theorem copyComplete (num : Nat) : Statement (.copyComplete num) := rfl
theorem tlWait (tl : Tl) (d : Reg) (a : Reg) (b : Reg) : Statement (.tlWait tl d a b) := rfl
theorem tlRd (tl : Tl) (d : Reg) : Statement (.tlRd tl d) := rfl
theorem tlPub (tl : Tl) (a : Reg) (b : Reg) : Statement (.tlPub tl a b) := rfl
theorem publicationWrite (tl : Tl) : Statement (.publicationWrite tl) := rfl
theorem bankVec (st : BankSt) (rows : BitVec 16) : Statement (.bankVec st rows) := rfl
theorem bankBuf (st : BankSt) (sp : BufSp) (banks : BitVec 16) : Statement (.bankBuf st sp banks) := rfl
theorem tlbflWrite (all : Bool) : Statement (.tlbflWrite all) := rfl
theorem rotloWrite (v : Word) : Statement (.rotloWrite v) := rfl
theorem rotbWrite (v : Word) : Statement (.rotbWrite v) := rfl
theorem lcWrite (l : BitVec 2) (v : Word) : Statement (.lcWrite l v) := rfl
theorem avtbWrite (v : Word) : Statement (.avtbWrite v) := rfl
theorem schbWrite (cmpb : Bool) (v : Word) : Statement (.schbWrite cmpb v) := rfl
theorem kvpolbWrite (v : Word) : Statement (.kvpolbWrite v) := rfl
theorem kvmirbWrite (v : Word) : Statement (.kvmirbWrite v) := rfl
theorem tvecWrite (v : Word) : Statement (.tvecWrite v) := rfl
theorem segEvWrite (v : Word) : Statement (.segEvWrite v) := rfl
theorem atMask (n : BitVec 4) (a : Reg) : Statement (.atMask n a) := rfl
theorem kvApp (d : Reg) (a : Reg) (g : BitVec 6) (n : BitVec 8) : Statement (.kvApp d a g n) := rfl
theorem kvLk (d : Reg) (a : Reg) (b : Reg) (g : BitVec 6) : Statement (.kvLk d a b g) := rfl
theorem kvAlloc (d : Reg) : Statement (.kvAlloc d) := rfl
theorem kvAllocFork (d : Reg) (a : Reg) : Statement (.kvAllocFork d a) := rfl
theorem kvRef (d : Reg) (a : Reg) : Statement (.kvRef d a) := rfl
theorem kvFree (d : Reg) (a : Reg) : Statement (.kvFree d a) := rfl
theorem kvFreeSeq (d : Reg) (a : Reg) : Statement (.kvFreeSeq d a) := rfl
theorem kvCow (d : Reg) (a : Reg) (b : Reg) (g : BitVec 6) : Statement (.kvCow d a b g) := rfl
theorem kvCowSpill (d : Reg) (a : Reg) (b : Reg) (g : BitVec 6) : Statement (.kvCowSpill d a b g) := rfl
theorem kvLenCommit (d : Reg) (a : Reg) : Statement (.kvLenCommit d a) := rfl
theorem kvLenRestore (d : Reg) (a : Reg) : Statement (.kvLenRestore d a) := rfl
theorem pfxIns (d : Reg) (a : Reg) (b : Reg) (g : BitVec 6) (blk : BitVec 6) : Statement (.pfxIns d a b g blk) := rfl
theorem pfxFind (d : Reg) (a : Reg) (b : Reg) (g : BitVec 6) (blk : BitVec 6) : Statement (.pfxFind d a b g blk) := rfl
theorem pfxFindDrop (d : Reg) (b : Reg) (g : BitVec 6) : Statement (.pfxFindDrop d b g) := rfl
theorem attentionFire (dae : Bool) : Statement (.attentionFire dae) := rfl
theorem attentionComplete (dae : Bool) : Statement (.attentionComplete dae) := rfl
theorem attentionReservationReturn (dae : Bool) : Statement (.attentionReservationReturn dae) := rfl
theorem arrWait (d : Reg) (b : Reg) (races : BitVec 2) : Statement (.arrWait d b races) := rfl
theorem segPin (d : Reg) (a : Reg) (b : Reg) : Statement (.segPin d a b) := rfl
theorem segUnpin (a : Reg) : Statement (.segUnpin a) := rfl
theorem segHold (d : Reg) (a : Reg) (b : Reg) (k : BitVec 4) : Statement (.segHold d a b k) := rfl
theorem spawn (d : Reg) (a : Reg) : Statement (.spawn d a) := rfl
theorem taskEnd (d : Reg) (mask : BitVec 4) : Statement (.taskEnd d mask) := rfl
theorem feSetFull (a : Reg) : Statement (.feSetFull a) := rfl
theorem feSetEmpty (a : Reg) : Statement (.feSetEmpty a) := rfl
theorem rqNextAdv (d : Reg) (a : Reg) (b : Reg) : Statement (.rqNextAdv d a b) := rfl
theorem rqNextDone (d : Reg) (a : Reg) (b : Reg) : Statement (.rqNextDone d a b) := rfl
theorem rqNextSusp (d : Reg) (a : Reg) (b : Reg) : Statement (.rqNextSusp d a b) := rfl
theorem rqNextResume (d : Reg) (a : Reg) (b : Reg) : Statement (.rqNextResume d a b) := rfl
theorem rqNextRelease (d : Reg) (a : Reg) (b : Reg) : Statement (.rqNextRelease d a b) := rfl
theorem cmpApp (d : Reg) (a : Reg) (b : Reg) : Statement (.cmpApp d a b) := rfl
theorem cmpTake (d : Reg) (a : Reg) : Statement (.cmpTake d a) := rfl
theorem termOpen (d : Reg) : Statement (.termOpen d) := rfl
theorem termClose (d : Reg) : Statement (.termClose d) := rfl
theorem termWait (d : Reg) (b : Reg) : Statement (.termWait d b) := rfl
theorem bar (lvl : Level) (d : Reg) (b : Reg) : Statement (.bar lvl d b) := rfl
theorem dmSet (lvl : Level) (a : Reg) : Statement (.dmSet lvl a) := rfl
theorem bltOpen (d : Reg) (a : Reg) (b : Reg) : Statement (.bltOpen d a b) := rfl
theorem bltPost (d : Reg) (a : Reg) (b : Reg) : Statement (.bltPost d a b) := rfl
theorem bltRead (d : Reg) (a : Reg) (sel : BitVec 4) : Statement (.bltRead d a sel) := rfl
theorem bltClose (d : Reg) (a : Reg) : Statement (.bltClose d a) := rfl
theorem govRes (d : Reg) (a : Reg) : Statement (.govRes d a) := rfl
theorem govRel (d : Reg) : Statement (.govRel d) := rfl
theorem govBallast (d : Reg) (a : Reg) : Statement (.govBallast d a) := rfl
theorem opReq (d : Reg) (a : Reg) : Statement (.opReq d a) := rfl
theorem ctxSwap (d : Reg) : Statement (.ctxSwap d) := rfl
theorem ctxSpill (d : Reg) (a : Reg) : Statement (.ctxSpill d a) := rfl
theorem ctxFill (d : Reg) (a : Reg) : Statement (.ctxFill d a) := rfl
theorem partitionSwap (part : BitVec 2) (imageIn : Nat) (imageOut : Nat) : Statement (.partitionSwap part imageIn imageOut) := rfl
theorem rpCtlWrite (v : Word) : Statement (.rpCtlWrite v) := rfl
theorem launchAdmit (part : BitVec 2) (addr : Nat) (rec : BitVec 512) : Statement (.launchAdmit part addr rec) := rfl
theorem launchRun (part : BitVec 2) (addr : Nat) (rec : BitVec 512) : Statement (.launchRun part addr rec) := rfl
theorem launchWindowRefused (addr : Nat) : Statement (.launchWindowRefused addr) := rfl
theorem launchContextStart (station : Nat) : Statement (.launchContextStart station) := rfl
theorem logTailWrite (v : BitVec 32) : Statement (.logTailWrite v) := rfl
theorem logOvfWrite (v : BitVec 32) : Statement (.logOvfWrite v) := rfl
theorem windowMWrite (off : Nat) (v : Word) : Statement (.windowMWrite off v) := rfl
theorem keepWindowAccess (off : Nat) (wdata : Option (List Byte)) (n : Nat) : Statement (.keepWindowAccess off wdata n) := rfl
theorem xRemoteRequest (station : Nat) (part : BitVec 2) (ha : Word) (wdata : Option (List Byte)) (n : Nat) : Statement (.xRemoteRequest station part ha wdata n) := rfl
theorem ethernetForeignFrame (etherType : BitVec 16) : Statement (.ethernetForeignFrame etherType) := rfl
theorem bringupStep (ok : Bool) (measurement : BitVec 512) : Statement (.bringupStep ok measurement) := rfl
theorem coreReset (core : Nat) : Statement (.coreReset core) := rfl
theorem ringDieReset (station : Nat) : Statement (.ringDieReset station) := rfl
theorem xChunkReply (refused : Bool) (rdata : List Byte) : Statement (.xChunkReply refused rdata) := rfl
theorem windowMReadDuringBringUp (off : Nat) : Statement (.windowMReadDuringBringUp off) := rfl
theorem dieLoss (station : Nat) : Statement (.dieLoss station) := rfl
theorem ret : Statement .ret := rfl
theorem idle : Statement .idle := rfl
theorem eret : Statement .eret := rfl
theorem nop : Statement .nop := rfl
theorem relRec : Statement .relRec := rfl
theorem vectorIntakeStart : Statement .vectorIntakeStart := rfl
theorem vectorReservationReturn : Statement .vectorReservationReturn := rfl
theorem cbWaitTimeout : Statement .cbWaitTimeout := rfl
theorem commitApply : Statement .commitApply := rfl
theorem engineFrontApply : Statement .engineFrontApply := rfl
theorem meFire : Statement .meFire := rfl
theorem meMacComplete : Statement .meMacComplete := rfl
theorem meDrainEnd : Statement .meDrainEnd := rfl
theorem meReservationReturn : Statement .meReservationReturn := rfl
theorem copyReservationReturn : Statement .copyReservationReturn := rfl
theorem pageWalkEnd : Statement .pageWalkEnd := rfl
theorem tlWaitTimeout : Statement .tlWaitTimeout := rfl
theorem storePerform : Statement .storePerform := rfl
theorem resultLanding : Statement .resultLanding := rfl
theorem bankWakeEnd : Statement .bankWakeEnd := rfl
theorem icacheFill : Statement .icacheFill := rfl
theorem icflWrite : Statement .icflWrite := rfl
theorem icacheFlushDone : Statement .icacheFlushDone := rfl
theorem tlbInvalidateDone : Statement .tlbInvalidateDone := rfl
theorem arrWaitTimeout : Statement .arrWaitTimeout := rfl
theorem strokeBoundary : Statement .strokeBoundary := rfl
theorem stagingEnd : Statement .stagingEnd := rfl
theorem reInjection : Statement .reInjection := rfl
theorem taskOffer : Statement .taskOffer := rfl
theorem termWaitTimeout : Statement .termWaitTimeout := rfl
theorem barrierPass : Statement .barrierPass := rfl
theorem barTimeout : Statement .barTimeout := rfl
theorem governorStep : Statement .governorStep := rfl
theorem capSample : Statement .capSample := rfl
theorem rampStep : Statement .rampStep := rfl
theorem rampComplete : Statement .rampComplete := rfl
theorem droopEmergency : Statement .droopEmergency := rfl
theorem ctxSpillComplete : Statement .ctxSpillComplete := rfl
theorem ctxFillComplete : Statement .ctxFillComplete := rfl
theorem trapEntry : Statement .trapEntry := rfl
theorem freezeTimeout : Statement .freezeTimeout := rfl
theorem containment : Statement .containment := rfl
theorem stageRefetch : Statement .stageRefetch := rfl
theorem kvMirrorWork : Statement .kvMirrorWork := rfl
theorem mirrorSequenceWord : Statement .mirrorSequenceWord := rfl
theorem recordComplete : Statement .recordComplete := rfl
theorem mbCheckpoint : Statement .mbCheckpoint := rfl
theorem checkpointComplete : Statement .checkpointComplete := rfl
theorem mbLoadModel : Statement .mbLoadModel := rfl
theorem mbUnload : Statement .mbUnload := rfl
theorem mbFenceStation : Statement .mbFenceStation := rfl
theorem mbRestartRing : Statement .mbRestartRing := rfl
theorem restoreComplete : Statement .restoreComplete := rfl
theorem mbAttest : Statement .mbAttest := rfl
theorem mbSetPowerCap : Statement .mbSetPowerCap := rfl
theorem mbAllotCluster : Statement .mbAllotCluster := rfl
theorem mbSetPeer : Statement .mbSetPeer := rfl
theorem mbWarmReset : Statement .mbWarmReset := rfl
theorem mbInvalidCode : Statement .mbInvalidCode := rfl
theorem mailboxComplete : Statement .mailboxComplete := rfl
theorem xAckTimeout : Statement .xAckTimeout := rfl
theorem powerOn : Statement .powerOn := rfl
theorem boWaitTimeout : Statement .boWaitTimeout := rfl
theorem durableWriteInCheckpointDomain : Statement .durableWriteInCheckpointDomain := rfl

end Sys2Proof.Laws.VectorUse
end

