-- ==== Sys2Proof/Tests/Slice0.lean ====
section
/-! SUPPORT. The model's own tests: ill-formed terms that each check of WellFormed refuses, words written out from the spec's encodings, results of the spec's worked examples, and for each statement with hypotheses a state that meets them. -/

namespace Sys2Proof.Tests
open Sys2Proof.Machine
set_option Elab.async false

/-! ### Well-formedness: an ill-formed term for each check (02 R33 to R48 and the rules of the chapters) -/

/-- Operands of slot V with every field legal for the arithmetic operations. -/
def vOk : VArgs := { ty := .s8, d := 0, a := 16, b := 32, c := 0, h := 0, w := 3, pred := 0, da := false, rnd := .rne, sat := false }

/-- Slot B: the width code 3, an end offset of 0, a CSR number that no chapter lists. -/
theorem test_wf_slotB :
    Instr.wf (.brpAny 1 3 0) = false ∧ Instr.wf (.brpAll 1 3 0) = false ∧ Instr.wf (.brpNone 1 3 0) = false ∧ Instr.wf (.loopSet 0 1 0) = false ∧
    Instr.wf (.loopSeti 0 1 0) = false ∧ Instr.wf (.csrr 1 0x003) = false ∧ Instr.wf (.csrw 0x11F 1) = false ∧ Instr.wf (.csrs 0x50E 1) = false ∧
    Instr.wf (.csrc 0xFFF 1) = false := by decide +kernel

/-- Slot M: a block that leaves the grid. -/
theorem test_wf_slotM :
    Instr.wf (.vld { v := 0x0F, base := 0, h := 0, w := 1, stride := 0, off := 0, handle := 0 }) = false ∧
    Instr.wf (.vst { v := 0xF0, base := 0, h := 1, w := 0, stride := 0, off := 0, handle := 0 }) = false ∧
    Instr.wf (.vldVer { v := 0xFF, base := 0, h := 0, w := 1, stride := 0, off := 0, handle := 0 }) = false := by decide +kernel

/-- Slot V: types that an operation does not take, unused fields, register numbers and blocks out of range. -/
theorem test_wf_slotV :
    Instr.wf (.vadd vOk) = true ∧ Instr.wf (.vadd { vOk with ty := .m8 }) = false ∧ Instr.wf (.vfma .fma vOk) = false ∧
    Instr.wf (.vadd { vOk with c := 1 }) = false ∧ Instr.wf (.vadd { vOk with rnd := .rtz }) = false ∧ Instr.wf (.vmin { vOk with sat := true }) = false ∧
    Instr.wf (.vadd { vOk with a := 30 }) = false ∧ Instr.wf (.vadd { vOk with d := 0xF0, h := 1 }) = false ∧
    Instr.wf (.vbcast { vOk with a := 64 }) = false ∧ Instr.wf (.vbcast { vOk with a := 1, b := 0, da := true }) = false ∧
    Instr.wf (.vcmp .eq { vOk with d := 61 }) = false ∧ Instr.wf (.vcvt .s8 vOk) = false ∧ Instr.wf (.vcvt .s8 { vOk with ty := .m8, b := 0 }) = false ∧
    Instr.wf (.pand { vOk with w := 0, ty := .n8 }) = false ∧ Instr.wf (.pand { vOk with w := 0, pred := 1 }) = false ∧
    Instr.wf (.vpack { vOk with ty := .s16, pred := 1 }) = false ∧ Instr.wf (.vsmx { vOk with ty := .bf16, b := 0 }) = false := by decide +kernel

/-- Slot E: counts, flags and sub-fields that the chapters exclude. -/
theorem test_wf_slotE :
    Instr.wf (.cbPush 0 0) = false ∧ Instr.wf (.cbPop 0 257) = false ∧ Instr.wf (.cbWait 1 0 false 0 0) = false ∧ Instr.wf (.ftLd 31 1 0) = false ∧
    Instr.wf (.patchPair ⟨4, 0, 0, 0, false⟩ ⟨0, 0, 0, 0, false⟩) = false ∧ Instr.wf (.patchPair ⟨0, 0, 0, 0, false⟩ ⟨0, 0, 31, 1, false⟩) = false ∧
    Instr.wf (.cp ⟨false, false, false, true, true⟩ 0 1 2 3 4) = false ∧ Instr.wf (.gat ⟨false, false, false, false, false⟩ 0 1 1 2 3 4) = false ∧
    Instr.wf (.bankBuf .off .a 0x1000) = false ∧ Instr.wf (.bankBuf .off .c 0x100) = false ∧ Instr.wf (.bankBuf .off .p 0x10) = false ∧
    Instr.wf (.arrWait 1 2 0) = false ∧ Instr.wf (.segHold 1 2 3 9) = false ∧ Instr.wf (.bltRead 1 2 15) = false := by decide +kernel

/-- Events that name a place that does not exist. -/
theorem test_wf_events :
    Instr.wf (.windowMWrite 0x80000 0) = false ∧ Instr.wf (.windowMReadDuringBringUp 0xA0000) = false ∧
    Instr.wf (.keepWindowAccess (2 ^ 36) none 1) = false ∧ Instr.wf (.coreReset 1536) = false ∧ Instr.wf (.ringDieReset 32) = false ∧
    Instr.wf (.dieLoss 32) = false ∧ Instr.wf (.launchContextStart 32) = false ∧ Instr.wf (.xRemoteRequest 32 0 0 none 0) = false := by decide +kernel

/-! ### Decoding: every encodable constructor by a word written from the tables of spec 02 and of its chapter -/

/-- 02 R33: a major that the slot does not list, a reserved field that is not 0, minors and codes that the tables call illegal. -/
theorem test_decode_rejects :
    decodeB 1 = none ∧ decodeB 0x58000000 = none ∧ decodeB 0x10000001 = none ∧ decodeB 0x1C000001 = none ∧ decodeB 0x0810C000 = some (.brpAny 1 0 0xC000) ∧
    decodeB 0x081C0000 = none ∧ decodeM 0x0430422000000000 = none ∧ decodeM 0x0430420000000001 = none ∧ decodeM 0x083041FF00000000 = none ∧
    decodeM 0x0830440000000040 = none ∧ decodeM 0x1851800780000800 = none ∧ decodeM 0x5400000000000000 = none ∧ decodeV 0x0640040800000000 = none ∧
    decodeV 0xA800000000000000 = none ∧ decodeE 0x1C0128B300000005 = none ∧ decodeE 0x0480400000000000 = none := by decide +kernel

/-- 02, "An encoded fetch block": the bytes of the two bundles. -/
theorem test_decode_fetch_block :
    (decodeBundle [0x40, 0, 0, 0, 0, 0, 0, 0, 0, 0, 0, 0, 0, 0x42, 0x30, 0x04, 0x00, 0xC0, 0x00, 0x00, 0x08, 0x04, 0xC0, 0x05, 0x00, 0x00, 0x00, 0x80,
      0x40, 0x00, 0xAC, 0xC0]).toOption = some
        { hdr := 0x40, b := .nop, m := .add 3 1 2, v := .vadd { vOk with ty := .f32 }, e := .patchPair ⟨0, 5, 12, 0x40, true⟩ ⟨0, 0, 0, 0, false⟩ } ∧
    (decodeBundle ([0, 0, 0, 0, 0, 0, 0x48, 0x04] ++ List.replicate 24 0)).toOption = some
        { hdr := 0, b := .brNz 4 0, m := .nop, v := .nop, e := .nop } := by decide +kernel


/-! ### Decoding: words written out from the encoding tables of 02 and of the chapters -/

theorem test_decode_slotB :
    decodeB 0x0 = some .nop ∧
    decodeB 0x457fffe = some (.brZ 5 0x7FFFE) ∧
    decodeB 0x4480003 = some (.brNz 4 3) ∧
    decodeB 0x871ffff = some (.brpAny 7 1 0xFFFF) ∧
    decodeB 0xbf60002 = some (.brpAll 63 2 2) ∧
    decodeB 0x8180001 = some (.brpNone 1 0 1) ∧
    decodeB 0xfffffff = some (.jmp 0x3FFFFFF) ∧
    decodeB 0x10900000 = some (.jmpr 9) ∧
    decodeB 0x16000000 = some (.call 0x2000000) ∧
    decodeB 0x18a00000 = some (.callr 10) ∧
    decodeB 0x1c000000 = some .ret ∧
    decodeB 0x221bffff = some (.loopSet 2 6 0x3FFFF) ∧
    decodeB 0x27abcdef = some (.loopSeti 3 0xABC 0xDEF) ∧
    decodeB 0x29000000 = some (.loopEnd 1) ∧
    decodeB 0x2c830003 = some (.tsbAny 2 3 3) ∧
    decodeB 0x2fe1c000 = some (.tsbNone 15 0x21 0x4000) ∧
    decodeB 0x33e00001 = some (.ipf 15 0x200001) ∧
    decodeB 0x34000001 = some (.phmark 1) ∧
    decodeB 0x3800002a = some (.trap 0x2A) ∧
    decodeB 0x3c00ffff = some (.brk 0xFFFF) ∧
    decodeB 0x40000000 = some .idle ∧
    decodeB 0x44000000 = some .eret ∧
    decodeB 0x48301a00 = some (.csrr 3 0x1A) ∧
    decodeB 0x4c901800 = some (.csrw 0x18 9) ∧
    decodeB 0x50910500 = some (.csrs 0x105 9) ∧
    decodeB 0x54150d00 = some (.csrc 0x50D 1) := by
  decide +kernel

theorem test_decode_alu :
    decodeM 0x430420000000000 = some (.add 3 1 2) ∧
    decodeM 0x430830100000000 = some (.sub 3 2 3) ∧
    decodeM 0x430c40200000000 = some (.mul 3 3 4) ∧
    decodeM 0x431050300000000 = some (.mulh 3 4 5) ∧
    decodeM 0x431460400000000 = some (.mulhn 3 5 6) ∧
    decodeM 0x431870500000000 = some (.div 3 6 7) ∧
    decodeM 0x431c80600000000 = some (.divn 3 7 8) ∧
    decodeM 0x430490700000000 = some (.rem 3 1 9) ∧
    decodeM 0x4308a0800000000 = some (.remn 3 2 10) ∧
    decodeM 0x430cb0900000000 = some (.and 3 3 11) ∧
    decodeM 0x4310c0a00000000 = some (.or 3 4 12) ∧
    decodeM 0x4314d0b00000000 = some (.xor 3 5 13) ∧
    decodeM 0x4318e0c00000000 = some (.andn 3 6 14) ∧
    decodeM 0x431cf0d00000000 = some (.shl 3 7 15) ∧
    decodeM 0x430500e00000000 = some (.shr 3 1 16) ∧
    decodeM 0x430910f00000000 = some (.sar 3 2 17) ∧
    decodeM 0x430d21000000000 = some (.rol 3 3 18) ∧
    decodeM 0x431131100000000 = some (.min 3 4 19) ∧
    decodeM 0x431541200000000 = some (.max 3 5 20) ∧
    decodeM 0x431951300000000 = some (.minn 3 6 21) ∧
    decodeM 0x431d61400000000 = some (.maxn 3 7 22) ∧
    decodeM 0x430571500000000 = some (.seq 3 1 23) ∧
    decodeM 0x430981600000000 = some (.sne 3 2 24) ∧
    decodeM 0x430d91700000000 = some (.slt 3 3 25) ∧
    decodeM 0x4311a1800000000 = some (.sltn 3 4 26) ∧
    decodeM 0x4315b1900000000 = some (.sle 3 5 27) ∧
    decodeM 0x4319c1a00000000 = some (.slen 3 6 28) ∧
    decodeM 0x68c801b00000000 = some (.clz 40 50) ∧
    decodeM 0x69cc01c00000000 = some (.ctz 41 51) ∧
    decodeM 0x6ad001d00000000 = some (.popc 42 52) := by
  decide +kernel

theorem test_decode_alu_2 :
    decodeM 0x6bd401e00000000 = some (.bswap 43 53) ∧
    decodeM 0x6cd801f00000000 = some (.mov 44 54) := by
  decide +kernel

theorem test_decode_alui :
    decodeM 0x8720000ffffff00 = some (.addi 7 8 0xffffff00) ∧
    decodeM 0x8724100ffffff01 = some (.andi 7 9 0xffffff01) ∧
    decodeM 0x8728200ffffff02 = some (.ori 7 10 0xffffff02) ∧
    decodeM 0x872c300ffffff03 = some (.xori 7 11 0xffffff03) ∧
    decodeM 0x873040000000025 = some (.shli 7 12 0x25) ∧
    decodeM 0x873450000000026 = some (.shri 7 13 0x26) ∧
    decodeM 0x873860000000027 = some (.sari 7 14 0x27) ∧
    decodeM 0x873c700ffffff07 = some (.slti 7 15 0xffffff07) ∧
    decodeM 0x8740800ffffff08 = some (.sltni 7 16 0xffffff08) ∧
    decodeM 0x8744900ffffff09 = some (.seqi 7 17 0xffffff09) ∧
    decodeM 0x8748a00ffffff0a = some (.muli 7 18 0xffffff0a) ∧
    decodeM 0xc5000009abcdef0 = some (.li 5 0x9ABCDEF0) ∧
    decodeM 0x1050000012345678 = some (.lih 5 0x12345678) ∧
    decodeM 0x14108313f0000000 = some (.sel 1 2 3 4 63) := by
  decide +kernel

theorem test_decode_memory :
    decodeM 0x1851aaf008000100 = some (.ld .b 5 6 0xABC 0x80001) ∧
    decodeM 0x1851aaf088000200 = some (.ld .bn 5 6 0xABC 0x80002) ∧
    decodeM 0x1851aaf108000300 = some (.ld .h 5 6 0xABC 0x80003) ∧
    decodeM 0x1851aaf188000400 = some (.ld .hn 5 6 0xABC 0x80004) ∧
    decodeM 0x1851aaf208000500 = some (.ld .w 5 6 0xABC 0x80005) ∧
    decodeM 0x1851aaf288000600 = some (.ld .wn 5 6 0xABC 0x80006) ∧
    decodeM 0x1851aaf308000700 = some (.ld .d 5 6 0xABC 0x80007) ∧
    decodeM 0x1c51800400001000 = some (.st .b 5 6 1 0x10) ∧
    decodeM 0x1c51800500001000 = some (.st .h 5 6 1 0x10) ∧
    decodeM 0x1c51800600001000 = some (.st .w 5 6 1 0x10) ∧
    decodeM 0x1c51800700001000 = some (.st .d 5 6 1 0x10) ∧
    decodeM 0x2084527123456789 = some (.vld { v := 0x21, base := 5, h := 2, w := 7, stride := 0x123, off := 0x456, handle := 0x789 }) ∧
    decodeM 0x2484527123456789 = some (.vst { v := 0x21, base := 5, h := 2, w := 7, stride := 0x123, off := 0x456, handle := 0x789 }) ∧
    decodeM 0x2884527123456789 = some (.vldVer { v := 0x21, base := 5, h := 2, w := 7, stride := 0x123, off := 0x456, handle := 0x789 }) ∧
    decodeM 0x2c5187fff00ffff0 = some (.amo .add false .core 5 6 7 0xFFF 0xffff0) ∧
    decodeM 0x2c5187fff19ffff1 = some (.amo .and true .clus 5 6 7 0xFFF 0xffff1) ∧
    decodeM 0x2c5187fff22ffff2 = some (.amo .or false .die 5 6 7 0xFFF 0xffff2) ∧
    decodeM 0x2c5187fff3bffff3 = some (.amo .xor true .mod 5 6 7 0xFFF 0xffff3) ∧
    decodeM 0x2c5187fff44ffff4 = some (.amo .min false .sys 5 6 7 0xFFF 0xffff4) ∧
    decodeM 0x2c5187fff58ffff5 = some (.amo .max true .core 5 6 7 0xFFF 0xffff5) ∧
    decodeM 0x2c5187fff61ffff6 = some (.amo .minn false .clus 5 6 7 0xFFF 0xffff6) ∧
    decodeM 0x2c5187fff7affff7 = some (.amo .maxn true .die 5 6 7 0xFFF 0xffff7) ∧
    decodeM 0x2c5187fff83ffff8 = some (.amo .swap false .mod 5 6 7 0xFFF 0xffff8) ∧
    decodeM 0x3051872048ee0004 = some (.cas true .mod 5 6 7 8 0x123 0x20004) ∧
    decodeM 0x3451870010001000 = some (.boArr 5 6 7 1 0x10) ∧
    decodeM 0x3851870018000024 = some (.boWait 5 6 7 9 1 0x80000) ∧
    decodeM 0x3c00000000000000 = some (.fence .core) ∧
    decodeM 0x3c80000000000000 = some (.fence .clus) ∧
    decodeM 0x3d00000000000000 = some (.fence .die) ∧
    decodeM 0x3d80000000000000 = some (.fence .mod) := by
  decide +kernel

theorem test_decode_memory_2 :
    decodeM 0x3e00000000000000 = some (.fence .sys) ∧
    decodeM 0x4000000000000000 = some .relRec ∧
    decodeM 0x44024a0000000000 = some (.hset 9 10) ∧
    decodeM 0x4802400000000000 = some (.hinv 9) ∧
    decodeM 0x4c81870010004000 = some (.dstc 8 6 7 1 0x40) ∧
    decodeM 0x5091800010004000 = some (.dldc 9 6 1 0x40) := by
  decide +kernel

theorem test_decode_vectorArithmetic :
    decodeV 0x40004080000c920 = some (.vadd { ty := .s8, d := 0, a := 16, b := 32, c := 0, h := 0, w := 3, pred := 9, da := false, rnd := .rne, sat := true }) ∧
    decodeV 0x8c0444840048010 = some (.vsub { ty := .n16, d := 1, a := 17, b := 33, c := 0, h := 1, w := 2, pred := 0, da := true, rnd := .rne, sat := false }) ∧
    decodeV 0xdc0848880003f80 = some (.vmul { ty := .f32, d := 2, a := 18, b := 34, c := 0, h := 0, w := 0, pred := 63, da := false, rnd := .rup, sat := false }) ∧
    decodeV 0x1180c4c8ccc000e0 = some (.vfma .fma { ty := .bf16, d := 3, a := 19, b := 35, c := 51, h := 0, w := 0, pred := 0, da := false, rnd := .rdn, sat := true }) ∧
    decodeV 0x1180c4c8ccc000e1 = some (.vfma .fms { ty := .bf16, d := 3, a := 19, b := 35, c := 51, h := 0, w := 0, pred := 0, da := false, rnd := .rdn, sat := true }) ∧
    decodeV 0x1180c4c8ccc000e2 = some (.vfma .fnma { ty := .bf16, d := 3, a := 19, b := 35, c := 51, h := 0, w := 0, pred := 0, da := false, rnd := .rdn, sat := true }) ∧
    decodeV 0x1501050900080000 = some (.vmin { ty := .s32, d := 4, a := 20, b := 36, c := 0, h := 2, w := 0, pred := 0, da := false, rnd := .rne, sat := false }) ∧
    decodeV 0x1941454940000000 = some (.vmax { ty := .n32, d := 5, a := 21, b := 37, c := 0, h := 0, w := 0, pred := 0, da := false, rnd := .rne, sat := false }) ∧
    decodeV 0x1c81858000000020 = some (.vabs { ty := .s16, d := 6, a := 22, b := 0, c := 0, h := 0, w := 0, pred := 0, da := false, rnd := .rne, sat := true }) ∧
    decodeV 0x2001c5c000000020 = some (.vneg { ty := .s8, d := 7, a := 23, b := 0, c := 0, h := 0, w := 0, pred := 0, da := false, rnd := .rne, sat := true }) ∧
    decodeV 0x2602060a00000000 = some (.vand { ty := .m8, d := 8, a := 24, b := 40, c := 0, h := 0, w := 0, pred := 0, da := false, rnd := .rne, sat := false }) ∧
    decodeV 0x2982464a40000000 = some (.vor { ty := .bf16, d := 9, a := 25, b := 41, c := 0, h := 0, w := 0, pred := 0, da := false, rnd := .rne, sat := false }) ∧
    decodeV 0x2c42868a80000000 = some (.vxor { ty := .n8, d := 10, a := 26, b := 42, c := 0, h := 0, w := 0, pred := 0, da := false, rnd := .rne, sat := false }) ∧
    decodeV 0x3042c6c000000000 = some (.vnot { ty := .n8, d := 11, a := 27, b := 0, c := 0, h := 0, w := 0, pred := 0, da := false, rnd := .rne, sat := false }) ∧
    decodeV 0x34c3070b00000000 = some (.vshl { ty := .n16, d := 12, a := 28, b := 44, c := 0, h := 0, w := 0, pred := 0, da := false, rnd := .rne, sat := false }) ∧
    decodeV 0x3883474b40000000 = some (.vshr { ty := .s16, d := 13, a := 29, b := 45, c := 0, h := 0, w := 0, pred := 0, da := false, rnd := .rne, sat := false }) ∧
    decodeV 0x3d03878b80000000 = some (.vsar { ty := .s32, d := 14, a := 30, b := 46, c := 0, h := 0, w := 0, pred := 0, da := false, rnd := .rne, sat := false }) ∧
    decodeV 0x41c047cbc0000500 = some (.vcmp .eq { ty := .f32, d := 1, a := 31, b := 47, c := 0, h := 0, w := 0, pred := 5, da := false, rnd := .rne, sat := false }) ∧
    decodeV 0x41c147cbc0000501 = some (.vcmp .ne { ty := .f32, d := 5, a := 31, b := 47, c := 0, h := 0, w := 0, pred := 5, da := false, rnd := .rne, sat := false }) ∧
    decodeV 0x41c247cbc0000502 = some (.vcmp .lt { ty := .f32, d := 9, a := 31, b := 47, c := 0, h := 0, w := 0, pred := 5, da := false, rnd := .rne, sat := false }) ∧
    decodeV 0x41c347cbc0000503 = some (.vcmp .le { ty := .f32, d := 13, a := 31, b := 47, c := 0, h := 0, w := 0, pred := 5, da := false, rnd := .rne, sat := false }) ∧
    decodeV 0x41c447cbc0000504 = some (.vcmp .gt { ty := .f32, d := 17, a := 31, b := 47, c := 0, h := 0, w := 0, pred := 5, da := false, rnd := .rne, sat := false }) ∧
    decodeV 0x41c547cbc0000505 = some (.vcmp .ge { ty := .f32, d := 21, a := 31, b := 47, c := 0, h := 0, w := 0, pred := 5, da := false, rnd := .rne, sat := false }) ∧
    decodeV 0x454000408fc00000 = some (.vsel { ty := .n32, d := 0, a := 1, b := 2, c := 63, h := 0, w := 0, pred := 0, da := false, rnd := .rne, sat := false }) ∧
    decodeV 0x49c0010000000000 = some (.vcvt .s8 { ty := .f32, d := 0, a := 4, b := 0, c := 0, h := 0, w := 0, pred := 0, da := false, rnd := .rne, sat := false }) ∧
    decodeV 0x4a00010000000067 = some (.vcvt .f32 { ty := .m8, d := 0, a := 4, b := 0, c := 0, h := 0, w := 0, pred := 0, da := false, rnd := .rtz, sat := true }) ∧
    decodeV 0x4dc0020000000020 = some (.vexp2 { ty := .f32, d := 0, a := 8, b := 0, c := 0, h := 0, w := 0, pred := 0, da := false, rnd := .rne, sat := true }) ∧
    decodeV 0x5180424000000060 = some (.vlog2 { ty := .bf16, d := 1, a := 9, b := 0, c := 0, h := 0, w := 0, pred := 0, da := false, rnd := .rtz, sat := true }) ∧
    decodeV 0x55c08280000000a0 = some (.vrcp { ty := .f32, d := 2, a := 10, b := 0, c := 0, h := 0, w := 0, pred := 0, da := false, rnd := .rup, sat := true }) ∧
    decodeV 0x5980c2c0000000e0 = some (.vrsq { ty := .bf16, d := 3, a := 11, b := 0, c := 0, h := 0, w := 0, pred := 0, da := false, rnd := .rdn, sat := true }) := by
  decide +kernel

theorem test_decode_vectorArithmetic_2 :
    decodeV 0x5dc1030000000020 = some (.vtanh { ty := .f32, d := 4, a := 12, b := 0, c := 0, h := 0, w := 0, pred := 0, da := false, rnd := .rne, sat := true }) := by
  decide +kernel

theorem test_decode_vectorMoves :
    decodeV 0x60900000000fc000 = some (.vred .sum { ty := .s16, d := 64, a := 0, b := 0, c := 0, h := 3, w := 15, pred := 0, da := false, rnd := .rne, sat := false }) ∧
    decodeV 0x60900000000fc001 = some (.vred .max { ty := .s16, d := 64, a := 0, b := 0, c := 0, h := 3, w := 15, pred := 0, da := false, rnd := .rne, sat := false }) ∧
    decodeV 0x60900000000fc002 = some (.vred .min { ty := .s16, d := 64, a := 0, b := 0, c := 0, h := 3, w := 15, pred := 0, da := false, rnd := .rne, sat := false }) ∧
    decodeV 0x64404080c0000000 = some (.vperm { ty := .n8, d := 1, a := 2, b := 3, c := 0, h := 0, w := 0, pred := 0, da := false, rnd := .rne, sat := false }) ∧
    decodeV 0x69004fc000044000 = some (.vbcast { ty := .s32, d := 1, a := 63, b := 0, c := 0, h := 1, w := 1, pred := 0, da := false, rnd := .rne, sat := false }) ∧
    decodeV 0x6c804080cf000000 = some (.vext { ty := .s16, d := 1, a := 2, b := 3, c := 60, h := 0, w := 0, pred := 0, da := false, rnd := .rne, sat := false }) ∧
    decodeV 0x70c0408f4f800000 = some (.vins { ty := .n16, d := 1, a := 2, b := 61, c := 62, h := 0, w := 0, pred := 0, da := false, rnd := .rne, sat := false }) ∧
    decodeV 0x763fff8000000010 = some (.vmov { ty := .m8, d := 255, a := 254, b := 0, c := 0, h := 0, w := 0, pred := 0, da := true, rnd := .rne, sat := false }) ∧
    decodeV 0xa400408a00014000 = some (.vrot { ty := .s8, d := 1, a := 2, b := 40, c := 0, h := 0, w := 5, pred := 0, da := false, rnd := .rne, sat := false }) ∧
    decodeV 0x79c004000a004000 = some (.vquant { ty := .f32, d := 0, a := 16, b := 0, c := 40, h := 0, w := 1, pred := 0, da := false, rnd := .rne, sat := false }) ∧
    decodeV 0x7d8004000a0000a0 = some (.vdeq { ty := .bf16, d := 0, a := 16, b := 0, c := 40, h := 0, w := 0, pred := 0, da := false, rnd := .rup, sat := true }) ∧
    decodeV 0x800004080c000020 = some (.vdot { ty := .s8, d := 0, a := 16, b := 32, c := 48, h := 0, w := 0, pred := 0, da := false, rnd := .rne, sat := true }) ∧
    decodeV 0x85c004000c09c000 = some (.vsmx { ty := .f32, d := 0, a := 16, b := 0, c := 48, h := 2, w := 7, pred := 0, da := false, rnd := .rne, sat := false }) ∧
    decodeV 0x8880040800000020 = some (.vpack { ty := .s16, d := 0, a := 16, b := 32, c := 0, h := 0, w := 0, pred := 0, da := false, rnd := .rne, sat := true }) ∧
    decodeV 0x8d40040140000000 = some (.vunpk { ty := .n32, d := 0, a := 16, b := 5, c := 0, h := 0, w := 0, pred := 0, da := false, rnd := .rne, sat := false }) := by
  decide +kernel

theorem test_decode_predicates :
    decodeV 0x90004080c0000000 = some (.pand { ty := .s8, d := 1, a := 2, b := 3, c := 0, h := 0, w := 0, pred := 0, da := false, rnd := .rne, sat := false }) ∧
    decodeV 0x940fcf8f40000000 = some (.por { ty := .s8, d := 63, a := 62, b := 61, c := 0, h := 0, w := 0, pred := 0, da := false, rnd := .rne, sat := false }) ∧
    decodeV 0x9801014180000000 = some (.pxor { ty := .s8, d := 4, a := 5, b := 6, c := 0, h := 0, w := 0, pred := 0, da := false, rnd := .rne, sat := false }) ∧
    decodeV 0x9c01c20000000000 = some (.pnot { ty := .s8, d := 7, a := 8, b := 0, c := 0, h := 0, w := 0, pred := 0, da := false, rnd := .rne, sat := false }) ∧
    decodeV 0xa172024000040300 = some (.ppopc { ty := .n32, d := 200, a := 9, b := 0, c := 0, h := 1, w := 0, pred := 3, da := false, rnd := .rne, sat := false }) := by
  decide +kernel

theorem test_decode_bufferCommands :
    decodeE 0x400140028000000 = some (.cbSet 10 5) ∧
    decodeE 0x80000000c000100 = some (.cbPush 3 256) ∧
    decodeE 0xc0000003c000001 = some (.cbPop 15 1) ∧
    decodeE 0x1005002004000001 = some (.cbWait 5 1 false 1 2) ∧
    decodeE 0x1005002004000300 = some (.cbWait 5 1 true 256 2) ∧
    decodeE 0x14060000100002ab = some (.cbRd 6 4 2 0xAB) ∧
    decodeE 0x180000000000beef = some (.cbRel 0xBEEF) := by
  decide +kernel

theorem test_decode_matrixCommands :
    decodeE 0x1c0028b300000045 = some (.mm 5 true 10 11 12) ∧
    decodeE 0x200004000000003e = some (.mtLd .me 0x3E 1) ∧
    decodeE 0x200008000000007e = some (.mtLd .pae 0x3E 2) ∧
    decodeE 0x20000c00000000be = some (.mtLd .dae 0x3E 3) ∧
    decodeE 0x20001000000000fe = some (.mtLd .ce 0x3E 4) ∧
    decodeE 0x2400300000000083 = some (.ftLd 3 4 12) ∧
    decodeE 0x28002c00000007c5 = some (.epLd 5 31 11) ∧
    decodeE 0xc0ac0040bffe0001 = some (.patchPair { eng := 0, tmpl := 5, field := 12, value := 0x40, issue := true } { eng := 3, tmpl := 63, field := 31, value := 0, issue := true }) := by
  decide +kernel

theorem test_decode_copyCommands :
    decodeE 0x2c0528b300000001 = some (.cp { ver := true, whole := false, ph := false, dcb := false, scb := false } 0 5 10 11 12) ∧
    decodeE 0x2c0528b30800000a = some (.cp { ver := false, whole := true, ph := false, dcb := true, scb := false } 2 5 10 11 12) ∧
    decodeE 0x300728b3042af345 = some (.cpM true true 1 0xABCD 7 10 11 12) ∧
    decodeE 0x340528b300000424 = some (.cp2d { ver := false, whole := false, ph := true, dcb := false, scb := false } 33 0 5 10 11 12) ∧
    decodeE 0x380528b324000070 = some (.gat { ver := false, whole := false, ph := false, dcb := false, scb := true } 3 9 5 10 11 12) ∧
    decodeE 0x3c0528b3000007e1 = some (.sca { ver := true, whole := false, ph := false, dcb := false, scb := false } 63 0 5 10 11 12) ∧
    decodeE 0x4003240000000000 = some (.cpRes 3 9) ∧
    decodeE 0x4003240000000001 = some (.cpResDrop 3 9) := by
  decide +kernel

theorem test_decode_orderCommands :
    decodeE 0x4405187000000000 = some (.tlWait .me 5 6 7) ∧
    decodeE 0x4803000000000000 = some (.tlRd .me 3) ∧
    decodeE 0x4c0028b000000000 = some (.tlPub .me 10 11) ∧
    decodeE 0x4445187000000000 = some (.tlWait .ce 5 6 7) ∧
    decodeE 0x4843000000000000 = some (.tlRd .ce 3) ∧
    decodeE 0x4c4028b000000000 = some (.tlPub .ce 10 11) ∧
    decodeE 0x4485187000000000 = some (.tlWait .vp 5 6 7) ∧
    decodeE 0x4883000000000000 = some (.tlRd .vp 3) ∧
    decodeE 0x4c8028b000000000 = some (.tlPub .vp 10 11) ∧
    decodeE 0x44c5187000000000 = some (.tlWait .at 5 6 7) ∧
    decodeE 0x48c3000000000000 = some (.tlRd .at 3) ∧
    decodeE 0x4cc028b000000000 = some (.tlPub .at 10 11) := by
  decide +kernel

theorem test_decode_kvCommands :
    decodeE 0x500028000000000b = some (.atMask 11 10) ∧
    decodeE 0x54051800000030ea = some (.kvApp 5 6 0x2A 0xC3) ∧
    decodeE 0x5807188000000022 = some (.kvLk 7 6 8 0x22) ∧
    decodeE 0x5c09000000000000 = some (.kvAlloc 9) ∧
    decodeE 0x5c09180000000001 = some (.kvAllocFork 9 6) ∧
    decodeE 0x6005280000000000 = some (.kvRef 5 10) ∧
    decodeE 0x6405180000000000 = some (.kvFree 5 6) ∧
    decodeE 0x6405180000000001 = some (.kvFreeSeq 5 6) ∧
    decodeE 0x6805188000000002 = some (.kvCow 5 6 8 2) ∧
    decodeE 0x6805188000000042 = some (.kvCowSpill 5 6 8 2) ∧
    decodeE 0x6c05180000000000 = some (.kvLenCommit 5 6) ∧
    decodeE 0x6c45180000000000 = some (.kvLenRestore 5 6) ∧
    decodeE 0x70051890000000c2 = some (.pfxIns 5 6 9 2 3) ∧
    decodeE 0x74051890000000c2 = some (.pfxFind 5 6 9 2 3) ∧
    decodeE 0x7405009000001002 = some (.pfxFindDrop 5 9 2) := by
  decide +kernel

theorem test_decode_taskCommands :
    decodeE 0x7805006000000003 = some (.arrWait 5 6 3) ∧
    decodeE 0x7c0728b000000000 = some (.segPin 7 10 11) ∧
    decodeE 0x8000280000000000 = some (.segUnpin 10) ∧
    decodeE 0x840828b000000004 = some (.segHold 8 10 11 4) ∧
    decodeE 0x8805280000000000 = some (.spawn 5 10) ∧
    decodeE 0x8c01000000000002 = some (.taskEnd 1 2) ∧
    decodeE 0x9000380000000001 = some (.feSetFull 14) ∧
    decodeE 0x9000380000000000 = some (.feSetEmpty 14) ∧
    decodeE 0x9407209000000000 = some (.rqNextAdv 7 8 9) ∧
    decodeE 0x9407209000000001 = some (.rqNextDone 7 8 9) ∧
    decodeE 0x9407209000000002 = some (.rqNextSusp 7 8 9) ∧
    decodeE 0x9407209000000003 = some (.rqNextResume 7 8 9) ∧
    decodeE 0x9407209000000004 = some (.rqNextRelease 7 8 9) ∧
    decodeE 0x9805187000000000 = some (.cmpApp 5 6 7) ∧
    decodeE 0x9c05180000000000 = some (.cmpTake 5 6) ∧
    decodeE 0xa005000000000000 = some (.termOpen 5) ∧
    decodeE 0xa045000000000000 = some (.termClose 5) ∧
    decodeE 0xa085006000000000 = some (.termWait 5 6) ∧
    decodeE 0xa405006000000000 = some (.bar .clus 5 6) ∧
    decodeE 0xa8001c0000000000 = some (.dmSet .clus 7) ∧
    decodeE 0xa445006000000000 = some (.bar .die 5 6) ∧
    decodeE 0xa8401c0000000000 = some (.dmSet .die 7) ∧
    decodeE 0xa485006000000000 = some (.bar .mod 5 6) ∧
    decodeE 0xa8801c0000000000 = some (.dmSet .mod 7) := by
  decide +kernel

theorem test_decode_unitCommands :
    decodeE 0xac05187000000000 = some (.bltOpen 5 6 7) ∧
    decodeE 0xac45209000000000 = some (.bltPost 5 8 9) ∧
    decodeE 0xac8518000000000a = some (.bltRead 5 6 10) ∧
    decodeE 0xacc5180000000000 = some (.bltClose 5 6) ∧
    decodeE 0xb005180000000000 = some (.govRes 5 6) ∧
    decodeE 0xb045000000000000 = some (.govRel 5) ∧
    decodeE 0xb085180000000000 = some (.govBallast 5 6) ∧
    decodeE 0xb405180000000000 = some (.opReq 5 6) ∧
    decodeE 0xb805000000000000 = some (.ctxSwap 5) ∧
    decodeE 0xb845180000000000 = some (.ctxSpill 5 6) ∧
    decodeE 0xb885180000000000 = some (.ctxFill 5 6) ∧
    decodeE 0xbc00000000008f01 = some (.bankVec .full 0x8F01) ∧
    decodeE 0xbc00000000018f01 = some (.bankVec .ret 0x8F01) ∧
    decodeE 0xbc00000000028f01 = some (.bankVec .off 0x8F01) ∧
    decodeE 0xbc4000000002000f = some (.bankBuf .off .w 0xf) ∧
    decodeE 0xbc4000000012000f = some (.bankBuf .off .a 0xf) ∧
    decodeE 0xbc40000000220007 = some (.bankBuf .off .c 0x7) ∧
    decodeE 0xbc40000000320007 = some (.bankBuf .off .p 0x7) := by
  decide +kernel


/-! ### States for the witnesses -/

/-- After reset, at privilege S. -/
def tR : State := State.reset

/-- The same at privilege U. -/
def tU : State := tR.mapFlow (fun f => { f with level := 0 })

/-- With register s5. -/
def tS (v : Word) : State := tR.mapRegs (fun r => { r with s := [(5, v)] })

/-- A handle entry of partition 0 from the start of a space, with every right. -/
def ent (sp bound : Nat) : HEnt := BitVec.ofNat 256 (bound * 2 ^ 64 + sp * 2 ^ 116 + 63 * 2 ^ 122 + 2 ^ 131)

/-- Handles 0 (P), 1 (D), 2 (W), 6 (S), 8 (D, without rights) and 9 (G, durable, its first page in the TLB); s5 as given. -/
def tH (v : Word) : State :=
  { tS v with
    handles := [(0, ent 3 0x10000), (1, ent 4 0x10000), (2, ent 0 0x10000), (6, ent 6 0x50000000),
      (8, BitVec.ofNat 256 (0x100 * 2 ^ 64 + 4 * 2 ^ 116 + 2 ^ 131)),
      (9, ent 7 0x10000 ||| BitVec.ofNat 256 (2 ^ 130))]
    ptroot := [(0, 1)], tlb := [{ part := 0, va := 0, size := 65536, leaf := 0xF, core := some 0, station := 0 }] }

/-- What `admits` asks, as one Bool. -/
def adm (s : State) (i : Instr) : Bool :=
  !s.mustDefer i && (privFault i s).isNone && ((familyOf i).fault i s).isNone && ((familyOf i).hold i s).isNone

theorem admits_of {s : State} {i : Instr} (h : adm s i = true) : s.admits i := by
  simp only [adm, Bool.and_eq_true, Bool.not_eq_true', Option.isNone_iff_eq_none] at h
  exact ⟨h.1.1.1, Or.inr ⟨h.1.1.2, h.1.2, h.2⟩⟩

/-- The bundle is not checked yet, the operation carries no Q, and a trap may be taken. -/
def traps (s : State) : Bool :=
  !s.core.iss.checked && s.core.iss.q == 0 && !s.core.ctx.f.act && decide (s.core.ctx.held.length < 4)

/-! ### Witnesses of the hypotheses -/

theorem wit_Division :
    adm (tS 7) (.div 1 2 5) = true ∧ adm (tS 7) (.rem 1 2 5) = true ∧ adm (tS 7) (.divn 1 2 5) = true ∧ adm (tS 7) (.remn 1 2 5) = true ∧
    (tS 7).arg (.div 1 2 5) 1 ≠ 0 ∧ traps tR = true ∧ tR.arg (.div 1 2 0) 1 = 0 ∧ tR.arg (.divn 1 2 0) 1 = 0 ∧ tR.arg (.rem 1 2 0) 1 = 0 ∧
    tR.arg (.remn 1 2 0) 1 = 0 := by decide +kernel

theorem wit_ConditionalBranches :
    adm (tS 0) (.brZ 5 1) = true ∧ (tS 0).rs (srcTag .b 0) 5 = 0 ∧ adm (tS 1) (.brZ 5 1) = true ∧ (tS 1).rs (srcTag .b 0) 5 ≠ 0 ∧
    adm (tS 1) (.brNz 5 1) = true ∧ adm (tS 0) (.brNz 5 1) = true ∧ adm tR (.brpAny 0 0 1) = true ∧ adm tR (.brpAny 3 2 1) = true ∧
    adm tR (.brpAll 0 1 1) = true ∧ adm tR (.brpAll 3 1 1) = true ∧ adm tR (.brpNone 0 2 1) = true ∧ adm tR (.brpNone 3 0 1) = true ∧
    tR.rp (srcTag .b 1) 0 = BitVec.allOnes 64 ∧ tR.rp (srcTag .b 1) 3 = 0 := by decide +kernel

theorem wit_JumpsAndCalls :
    adm tR (.jmp 1) = true ∧ adm tR (.call 1) = true ∧ adm (tS 0x40) (.jmpr 5) = true ∧ adm (tS 0x40) (.callr 5) = true ∧ adm tR .ret = true ∧
    traps (tS 0x41) = true ∧ ((tS 0x41).rs (srcTag .b 0) 5).toNat % 64 ≠ 0 ∧
    (let s := tR.mapRegs (fun r => { r with s := [(63, 0x60)] }); traps s = true ∧ (s.rs (srcTag .b 0) 63).toNat % 64 ≠ 0) := by decide +kernel

theorem wit_Loops :
    adm (tS 3) (.loopSet 1 5 2) = true ∧ ((tS 3).rs (srcTag .b 0) 5).toNat % 2 ^ 32 = 3 ∧ adm (tS (2 ^ 32)) (.loopSet 1 5 2) = true ∧
    ((tS (2 ^ 32)).rs (srcTag .b 0) 5).toNat % 2 ^ 32 = 0 ∧ adm tR (.loopSeti 0 1 1) = true ∧ adm tR (.loopSeti 0 0 1) = true ∧
    tR.core.ctx.f.pc / 32 % 2 = 0 ∧
    (let s := tR.mapFlow (fun f => { f with pc := 32 }); adm s (.loopSeti 0 0 1) = true ∧ s.core.ctx.f.pc / 32 % 2 = 1) ∧
    adm tR (.loopEnd 2) = true ∧ Tab.get 0 tR.core.ctx.r.l 2 ≠ 1 ∧ tR.core.ctx.f.rotlo = 16 ∧
    (let s := (tR.mapRegs (fun r => { r with l := [(2, 1)] })).mapFlow (fun f => { f with rotlo := 15 })
     adm s (.loopEnd 2) = true ∧ Tab.get 0 s.core.ctx.r.l 2 = 1) := by decide +kernel

/-- Where no check bits are listed every word is right. -/
theorem clean_of {s : State} (h : s.chk = []) : s.allClean ∧ ∀ ks, s.cleanAt ks :=
  have hw : ∀ w, s.eccWord w = .clean := fun w => by simp [State.eccWord, h]
  ⟨hw, fun _ _ _ => hw _⟩

theorem wit_StatusBranchesAndMarks_clean : tR.allClean := (clean_of (by decide +kernel)).1

theorem wit_StatusBranchesAndMarks :
    tR.chk = [] ∧ adm tR (.tsbAny 3 0x3F 1) = true ∧ adm tR (.tsbNone 3 0x3F 1) = true ∧ (Tab.get {} tR.core.ctx.cb 3).seen = false ∧
    adm tR (.phmark 1) = true ∧ tR.core.ctx.phases = [] ∧ adm tR (.ipf 15 1) = true := by decide +kernel

theorem wit_TrapsAndIdle :
    (let s := tR.mapFlow (fun f => { f with brken := true })
     adm s (.trap 7) = true ∧ adm s (.brk 7) = true ∧ s.core.iss.bundle = false ∧ s.core.ctx.pending = [] ∧ s.core.ctx.f.act = false ∧
       s.core.ctx.held.length < 4 ∧ s.core.ctx.f.brken = true) ∧
    adm tR (.brk 7) = true ∧ tR.core.ctx.f.brken = false ∧ adm tR .idle = true ∧
    (let s := tR.mapCore (fun c => { c with iss := { c.iss with bundle := true } }); adm s (.trap 7) = true ∧ s.core.iss.bundle = true) := by
  decide +kernel

theorem wit_ReturnFromTrap : tR.admits .eret := admits_of (by decide +kernel)

theorem wit_CsrReads : tR.admits (.csrr 3 0x100) ∧ tU.admits (.csrr 3 0x000) :=
  ⟨admits_of (by decide +kernel), admits_of (by decide +kernel)⟩

theorem wit_CsrWritesReadBack :
    adm (tS 3) (.csrw 0x105 5) = true ∧ adm (tS 3) (.csrs 0x010 5) = true ∧ adm (tS 3) (.csrc 0x508 5) = true ∧
    csrMask 0x105 = some 7 ∧ csrMask 0x010 = some 0xFFF ∧ csrMask 0x508 = some (BitVec.allOnes 64) := by decide +kernel

theorem wit_PrivilegeTraps : traps tU = true ∧ tU.core.ctx.f.level = 0 ∧ (0x100 : Nat) < 0x200 ∧ (0x50B : Nat) ≤ 0x50D := by decide +kernel

theorem wit_CsrFieldAndBaseRules :
    tR.core.ctx.f.rotlo = 16 ∧ (tR.mapFlow (fun f => { f with rotlo := 15 })).core.ctx.f.rotlo < 16 ∧ tR.baseTaken 0 65536 ∧
    (tH 0).baseTaken (2 ^ 52) 512 ∧ ¬ tR.baseTaken 512 512 ∧
    (let e := (tR.die tR.station).req (tR.core.ctx.csr.rpRq.toNat % 256); e.state = 0 ∧ (1 : Word).getLsbD 0 = true ∧ (2 : Word).getLsbD 0 = false) := by
  unfold State.baseTaken
  decide +kernel

/-- A request that holds something, with mirroring enabled and its sequence on the record's station. -/
theorem wit_CsrFieldAndBaseRules_record :
    let s : State := { tH 0 with dies := [(0, { reqs := [(0, { state := 1, rpha := 9 * 2 ^ 52 })] })],
                                 kv := [(0, { kvmirb := 1, seqs := [(0, some {})] })] }
    let e := (s.die s.station).req (s.core.ctx.csr.rpRq.toNat % 256)
    e.part = s.part ∧ e.state ≠ 0 ∧ e.state ≠ 6 ∧ (s.kvp s.station s.part).kvmirb ≠ 0 ∧ (s.kvp s.station s.part).mirErr = false ∧
    (s.rpPlace e.rpha).2.isSome = true ∧
    fld s.core.ctx.csr.rpLen 0 32 ≤ (((s.rpPlace e.rpha).1.kvp s.station s.part).seq (e.kvroot % 2 ^ 16) |>.getD {}).clen := by decide +kernel

/-- One access waits in the order, of this instruction, with these operands and places. -/
def tL (i : Instr) (caps : List Word) (keys : List Nat) (s : State) : State :=
  s.mapCore (fun c => { c with ccyc := 5, leases := [{ ins := i, caps := caps, vdata := [], keys := keys, serial := 1, bundle := 0, durable := false }] })

/-- The wait of a core that has passed some of its bound. -/
def tW (w : Wait) (s : State) : State := s.mapCore (fun c => { c with wait := some w })

theorem tH_below (v : Word) : (tH v).serialsBelow := by
  intro p hp
  cases hp

theorem wit_Loads :
    let i : Instr := .ld .d 6 5 1 8
    (tH 16).admits i ∧ (tH 16).access (opAddr 1 ((tH 16).arg i 0) 8) 8 true false spLd = .ok ((tH 16).hEnt 0 0 1) (keysFrom (rD 0 + 24) 8) ∧
    (tH 16).cleanAt (keysFrom (rD 0 + 24) 8) ∧ (tH 16).core.leases = [] ∧ (tH 16).serialsBelow ∧
    (tH 16).access (opAddr 2 16 0) 1 true false spLd = .ok ((tH 16).hEnt 0 0 2) (keysFrom (rBuf 0 0 + 16) 1) :=
  ⟨admits_of (by decide +kernel), by decide +kernel, by unfold State.cleanAt; decide +kernel, by decide +kernel, tH_below 16, by decide +kernel⟩

theorem wit_Stores :
    adm (tH 16) (.st .d 6 5 2 8) = true ∧ (tH 16).access (opAddr 2 16 8) 8 false true spLd = .ok ((tH 16).hEnt 0 0 2) (keysFrom (rBuf 0 0 + 24) 8) ∧
    adm (tH 16) (.st .b 6 5 1 0) = true ∧ (tH 16).access (opAddr 1 16 0) 1 false true spLd = .ok ((tH 16).hEnt 0 0 1) (keysFrom (rD 0 + 16) 1) ∧
    adm (tH 16) (.st .w 6 5 9 0) = true ∧ (tH 16).access (opAddr 9 16 0) 4 false true spLd = .ok ((tH 16).hEnt 0 0 9) (keysFrom (rG + 16) 4) := by
  decide +kernel

/-- Two places of a block of one row. -/
def vm2 (handle : BitVec 12) : VMem := { v := 0x10, base := 5, h := 0, w := 1, stride := 2, off := 1, handle := handle }

/-- The vector banks FULL. -/
def tV (v : Word) : State := (tH v).mapRegs (fun r => { r with bank := (List.range 16).map (fun k => (k, .full)) })

theorem wit_VectorLoads :
    (let s := tV 64
     (adm s (.vld (vm2 1)) = true ∧ ∀ r ∈ memReqs (.vld (vm2 1)) s, (s.reqAccess r).faultOf = none ∧ (s.reqAccess r).keys ≠ []) ∧
     (adm s (.vldVer (vm2 2)) = true ∧ ∀ r ∈ memReqs (.vldVer (vm2 2)) s, (s.reqAccess r).faultOf = none ∧ (s.reqAccess r).keys ≠ []) ∧
     s.core.leases = [] ∧ s.chk = [] ∧ s.core.ctx.fl.pend = [] ∧ hSpace (s.hEnt 0 0 1) = spD ∧ hSpace (s.hEnt 0 0 2) < 4) ∧
    (let s := { tV 64 with mem := [(rBuf 0 0 + 72, 1)] }
     adm s (.vldVer (vm2 2)) = true ∧
     leNat (s.rdKeys (((s.access (vmBase (.vldVer (vm2 2)) (vm2 2) s) 64 true false spVec).keys.drop 8).take 8)) % 2 = 1) := by decide +kernel

theorem wit_VectorStores :
    let s := tV 64
    adm s (.vst (vm2 2)) = true ∧ s.core.iss.cap = none ∧ hSpace (s.hEnt 0 0 2) < 4 ∧
    (∀ r ∈ memReqs (.vst (vm2 2)) s, (s.reqAccess r).faultOf = none ∧ (s.reqAccess r).keys ≠ []) ∧
    adm s (.vst (vm2 1)) = true ∧ hSpace (s.hEnt 0 0 1) = spD ∧
    (∀ r ∈ memReqs (.vst (vm2 1)) s, (s.reqAccess r).faultOf = none ∧ (s.reqAccess r).keys ≠ []) := by decide +kernel

theorem wit_AtomicsIssue :
    let s := tH 16
    adm s (.amo .add true .die 7 5 6 1 0) = true ∧ adm s (.cas false .mod 7 5 6 8 9 0) = true ∧ adm s (.boArr 7 5 6 1 0) = true ∧
    (memReqs (.amo .add true .die 7 5 6 1 0) s).map s.reqAccess = [.ok (s.hEnt 0 0 1) (keysFrom (rD 0 + 16) 8)] ∧
    (memReqs (.cas false .mod 7 5 6 8 9 0) s).map s.reqAccess = [.ok (s.hEnt 0 0 9) (keysFrom (rG + 16) 4)] ∧
    (memReqs (.boArr 7 5 6 1 0) s).map s.reqAccess = [.ok (s.hEnt 0 0 1) (keysFrom (rD 0 + 16) 16)] ∧ s.chk = [] ∧ s.core.ctx.fl.pend = [] := by
  decide +kernel

theorem wit_StoresAndLoadsPerform :
    (tL (.st .d 6 5 1 0) [16, 7] (keysFrom (rD 0) 8) (tH 0)).nextLease.isSome = true ∧ (tL (.ld .d 6 5 1 0) [16] (keysFrom (rD 0) 8) (tH 0)).nextLease.isSome = true := by
  decide +kernel

theorem wit_AtomicsPerform :
    let ks := keysFrom (rD 0) 8
    (tL (.amo .add true .die 7 5 6 1 0) [0, 7] ks (tH 0)).nextLease.isSome = true ∧ (tL (.cas true .die 7 5 6 8 1 0) [0, 0, 9] ks (tH 0)).nextLease.isSome = true ∧
    ks.length = 64 / 8 ∧ (keysFrom (rD 0) 4).length = 32 / 8 ∧ keyBanks ks = [] ∧ ks.Nodup := by decide +kernel

/-- A barrier object of two: an arrival with count 0, one that stays below the number expected, one that completes the phase, one too many. -/
theorem wit_BarrierArrivals :
    let ks := keysFrom (rD 0) 16
    let s : Word → State := fun k => tL (.boArr 7 5 6 1 0) [0, k] ks { tH 0 with mem := [(rD 0, 2)] }
    let o := leNat ((s 0).rdKeys ks)
    (s 0).nextLease.isSome = true ∧ ks.length = 16 ∧ keyBanks ks = [] ∧ ks.Nodup ∧ o % 2 ^ 16 = 2 ∧ o / 2 ^ 37 % 2 ^ 27 = 0 ∧ o / 2 ^ 16 % 2 ^ 16 = 0 ∧
    (s 1).nextLease.isSome = true ∧ (s 2).nextLease.isSome = true ∧ (s 3).nextLease.isSome = true := by decide +kernel

theorem wit_OrderWaits :
    let i : Instr := .boWait 7 5 6 8 1 0
    let obj := fun (w : Word) => (({ tH 16 with mem := [(rD 0 + 16, 1)] } : State).mapRegs (fun r => { r with s := [(5, 16), (6, w), (8, 9)] }))
    (∀ s ∈ [tH 16, obj 0, obj 1], s.core.iss.q.getLsbD 1 = false ∧ s.core.iss.checked = false ∧ memFault i s = none ∧
      s.access (opAddr 1 (s.arg i 0) 0) 16 true false spAtom = .ok (s.hEnt 0 0 1) (keysFrom (rD 0 + 16) 16) ∧
      s.anyAsleep (keysFrom (rD 0 + 16) 16) = false ∧ s.core.leases = [] ∧ s.core.ctx.fl.defer = []) ∧
    (let o := fun (s : State) => leNat (s.rdKeys (keysFrom (rD 0 + 16) 16))
     o (tH 16) % 2 ^ 16 = 0 ∧ o (obj 0) % 2 ^ 16 = 1 ∧ o (obj 0) / 2 ^ 37 = 0 ∧ o (obj 0) / 2 ^ 32 % 16 = 0) ∧
    ((obj 0).arg i 1).toNat % 16 = 0 ∧ ((obj 1).arg i 1).toNat % 16 ≠ 0 ∧
    (tW { elapsed := 9, bound := 9, expired := true } (obj 0)).timedOut = true ∧ (obj 0).timedOut = false ∧
    (let s := tL (.st .d 6 5 9 0) [16, 7] (keysFrom rG 8) (tH 0)
     traps s = true ∧ s.timedOut = false ∧ s.core.leases.map (fun l => leavesLease l.ins) = [true]) := by decide +kernel

/-- Its object is read without a correction, in each of those states. -/
theorem wit_OrderWaits_clean (w : Word) (ks : List Nat) :
    (({ tH 16 with mem := [(rD 0 + 16, 1)] } : State).mapRegs (fun r => { r with s := [(5, 16), (6, w), (8, 9)] })).cleanAt ks ∧ (tH 16).cleanAt ks :=
  have h : (tH 16).chk = [] := by decide +kernel
  ⟨(clean_of h).2 ks, (clean_of h).2 ks⟩

/-- With nothing on its way everything is performed and durable. -/
theorem wit_OrderWaits_done : (tH 16).boReads ∧ (tH 16).allPerformed ∧ (tH 16).allDurable := by
  have hc : (tH 16).core.ctx.cmds = [] ∧ (tH 16).core.contexts = [(tH 16).core.ctx] ∧ (tH 16).core.ctx.rp = none := by decide +kernel
  have hl : (tH 16).core.leases = [] ∧ (tH 16).core.defers = [] ∧ (tH 16).core.ctx.defers = [] ∧ (tH 16).core.ctx.fl.defer = [] ∧
    (tH 16).durCopies = false ∧ (tH 16).durq = [] ∧ (tH 16).mirq = [] := by decide +kernel
  have hp : ∀ u : Tl, ((tH 16).core.ctx.tl u).livePubs = [] := fun u => by cases u <;> decide +kernel
  simp only [State.boReads, State.allPerformed, State.allDurable, hc, hl, hp]
  refine ⟨by simp, by simp, by simp, by simp, by simp, by simp, by simp, by simp, by simp, by simp, fun x hx => ?_⟩
  obtain rfl : x = (tH 16).core.ctx := by simpa using hx
  exact ⟨hc.2.2, fun m hm => by
    have h : m ∈ ([] : List Cmd) := hc.1 ▸ hm
    cases h⟩

theorem wit_RawBytesAndHandles :
    let s := tH 16
    adm s (.dstc 6 5 7 2 0) = true ∧ s.access (opAddr 2 16 0) 8 false true spRaw = .ok (s.hEnt 0 0 2) (keysFrom (rBuf 0 0 + 16) 8) ∧
    (keysFrom (rBuf 0 0 + 16) 8).headD 0 % 8 = 0 ∧ adm s (.dldc 6 5 2 0) = true ∧ adm s (.dldc 6 5 1 0) = true ∧
    s.access (opAddr 1 16 0) 8 true false spRaw = .ok (s.hEnt 0 0 1) (keysFrom (rD 0 + 16) 8) ∧ s.core.leases = [] ∧ s.core.ctx.cmds = [] ∧
    adm s (.hinv 5) = true ∧
    (let t : State := { tH (2 ^ 52 + 32) with mem := [(rD 0 + 46, 0x90), (rD 0 + 48, 8)] }
     adm t (.hset 5 5) = true ∧ t.hImage (t.arg (.hset 5 5) 1).toNat = some (BitVec.ofNat 256 (9 * 2 ^ 116 + 2 ^ 131))) := by decide +kernel

theorem wit_RawBytesAndHandles_clean (ks : List Nat) :
    ({ tH (2 ^ 52 + 32) with mem := [(rD 0 + 46, 0x90), (rD 0 + 48, 8)] } : State).cleanAt ks :=
  have h : (tH (2 ^ 52 + 32)).chk = [] := by decide +kernel
  (clean_of h).2 ks

/-- Misaligned; invalid; another partition's; without the right; at the first byte beyond the bound. -/
theorem wit_AccessFaultsTrap :
    let s := tH 16
    traps s = true ∧ opAddr 1 (s.arg (.ld .d 6 5 1 1) 0) 1 % 2 ^ 52 % 8 ≠ 0 ∧ hValid (s.hEnt 0 0 10) = false ∧
    (let e := s.hEnt 0 0 8; hValid e = true ∧ hPart e = s.part ∧ hCpol e ≤ 1 ∧ hSpace e ∈ spLd ∧ hRd e = false ∧ hWr e = false) ∧
    (let e := s.hEnt 0 0 1; hValid e = true ∧ hRd e = true ∧ hWr e = true ∧ hSpace e ∈ spLd ∧
      hBound e < opAddr 1 (s.arg (.ld .b 6 5 1 0xFFF0) 0) 0xFFF0 % 2 ^ 52 + 1) ∧
    (let t := s.mapFlow (fun f => { f with part := 1 }); hPart ({ t with handles := [(4097, ent 4 0x100)] }.hEnt 0 1 1) ≠ t.part) := by decide +kernel

/-- A walk that meets an invalid root, and one that finds a leaf in one table of the third level. -/
theorem wit_PageWalkEnds :
    let w : Walk := { core := 0, part := 0, va := 0, rd := true, wr := false, space := spG }
    (let s : State := { tR with walks := [w] }; s.walks = [w] ∧ s.walk w.part w.va = .bad 0x10) ∧
    (let s : State := { tR with walks := [w], ptroot := [(0, 1)], mem := [(rG, 1), (rG + 2, 1), (rG + 0x10000, 7)] }
     s.walk w.part w.va = .ok 7 (2 ^ 30) ∧ leafUse 7 w.rd w.wr w.space = none) := by decide +kernel

theorem wit_PageWalkEnds_clean (ws : List Walk) (root : Tab (BitVec 64)) (m : List Host.Cell) :
    ({ tR with walks := ws, ptroot := root, mem := m } : State).allClean :=
  have h : tR.chk = [] := by decide +kernel
  (clean_of h).1

/-- Buffer 1: four slots of 64 bytes in W, of the control core, visible at the commit. -/
def cb1 : CbDesc := { handle := 2, slotsz := 1, nslot := 3, vrel := true, valid := true, npend := 1 }

/-- The context with that buffer. -/
def tC (d : CbDesc) : State := (tH 0).mapCtx (fun x => { x with cb := [(1, d)] })

/-- Image of a descriptor at the start of D. -/
def tImg : State := { tH (2 ^ 52) with mem := [(rD 0, 2), (rD 0 + 8, 1), (rD 0 + 10, 6)] }

theorem wit_CbCommands :
    adm tImg (.cbSet 1 5) = true ∧ tImg.chk = [] ∧ adm (tC cb1) (.cbPush 1 4) = true ∧
    adm (tC { cb1 with vptr := 3, pptr := 3 }) (.cbPop 1 3) = true ∧ adm (tC cb1) (.cbRel 2) = true ∧ (tC cb1).core.ctx.task.missed = false ∧
    (tC cb1).core.ctx.rqs = [] := by decide +kernel

theorem wit_CommitsApply :
    let r : Commit := { phase := 0, mask := 2, lateP := [(1, 1)], lateC := [], bundle := 0 }
    let s := ((tC { cb1 with pptr := 3, cptr := 1 }).mapCtx (fun x => { x with commits := [r], phase := 1 })).mapCore (fun c => { c with ccyc := 4 })
    s.core.readyCommit s.core.ctx = some r ∧ s.core.ctx.rqs = [] ∧ r.mask.testBit 1 = true ∧ r.mask.testBit 0 = false ∧
    (Tab.get {} s.core.ctx.cb 1).prod ≠ 6 := by decide +kernel

theorem wit_BoundedWaits :
    let s := tC cb1
    traps s = true ∧ s.mustDefer (.cbWait 3 1 true 4 0) = false ∧ s.mustDefer (.tlWait .me 3 1 2) = false ∧ s.mustDefer (.termWait 3 1) = false ∧
    s.qOf .e = false ∧ (Tab.get {} s.core.ctx.cb 1).valid = true ∧ 4 ≤ (Tab.get {} s.core.ctx.cb 1).room ∧ s.core.cbAvail s.core.ctx 1 < 1 ∧
    (s.arg (.tlWait .me 3 0 0) 0).toNat ≤ (s.core.ctx.tl .me).value ∧ s.quiet s.station s.part = true ∧ s.timedOut = false ∧ s.core.wait = none ∧
    (tW { elapsed := 5, bound := 5, expired := true } s).timedOut = true ∧ (tW { elapsed := 5, bound := 9 } s).timedOut = false ∧
    (let b := tW { elapsed := 5, bound := 5 } (s.mapCore (fun c => { c with bar := some (1, 7) }))
     b.core.wait = some { elapsed := 5, bound := 5 } ∧ b.core.bar = some (1, 7)) ∧
    (tW {} s).core.wait = some {} ∧ ({} : Wait).boundM = 0 ∧ ({} : Wait).bound = 0 := by decide +kernel

/-- A publication of 3 to the start of D, and a timeline at a value. -/
def pub3 : Pub := { key := rD 0, val := 3, low := 0, phase := 0, bundle := 0, durable := false }
def tP (v : Nat) : State := (tH (2 ^ 52)).mapCtx (fun x => { x with tlMe := { issued := 3, value := v, pubs := [pub3] } })

theorem wit_TimelinesAndPublications :
    adm (tC cb1) (.cbRd 3 1 0 255) = true ∧ adm (tC cb1) (.cbRd 3 1 1 0) = true ∧ adm (tC cb1) (.cbRd 3 1 2 0) = true ∧
    adm (tC cb1) (.cbRd 3 1 3 0) = true ∧ adm tR (.tlRd .at 3) = true ∧ adm (tP 3) (.tlPub .ce 5 0) = true ∧
    (let s := tP 3; (s.core.ctx.tl .me).pubs = [pub3] ∧ pub3.val.toNat ≤ (s.core.ctx.tl .me).value ∧ (s.core.ctx.tl .me).bad = [] ∧
      s.core.leases = [] ∧ pub3.durable = false) ∧
    (let s := tP 2; ∀ x ∈ s.core.contexts, ∀ q ∈ (x.tl .me).livePubs, (x.tl .me).value < q.val.toNat) := by decide +kernel

theorem wit_CommandsIssue :
    let s := tH (2 ^ 52)
    let f : CpFlags := ⟨false, false, false, false, false⟩
    adm s (.mm 5 true 1 2 3) = true ∧ adm s (.cp f 0 7 5 5 3) = true ∧ adm s (.cpM false false 0 0 7 5 5 3) = true ∧ adm s (.cp2d f 1 0 7 5 5 3) = true ∧
    adm s (.gat f 1 0 7 5 5 3) = true ∧ adm s (.sca f 1 0 7 5 5 3) = true ∧ adm s (.mtLd .me 5 5) = true ∧ adm s (.ftLd 3 4 5) = true ∧
    adm s (.epLd 5 4 5) = true ∧ adm s (.atMask 3 5) = true ∧ adm s (.patchPair ⟨0, 5, 12, 0x40, true⟩ ⟨3, 1, 31, 0, true⟩) = true ∧
    adm s (.kvApp 7 1 2 0) = true ∧ adm s (.cpRes 7 0) = true ∧ adm s (.spawn 7 5) = true ∧ adm (tH (6 * 2 ^ 52)) (.segUnpin 5) = true ∧
    adm s (.feSetFull 5) = true ∧ adm s (.feSetEmpty 5) = true ∧ adm (tH 3) (.dmSet .die 5) = true ∧ adm s (.bar .clus 7 1) = true := by decide +kernel

/-- One command has come to its front or unit. -/
def cmdOf (i : Instr) (caps : List Word) (nums keys : List Nat) : Cmd :=
  { ins := i, caps := caps, serial := 1, bundle := 0, phase := 0, nums := nums, sent := some 0, pc := 0, keys := keys }
def tM (m : Cmd) (s : State) : State := s.mapCore (fun c => { c with ccyc := 100, serial := 1, ctx := { c.ctx with cmds := [m] } })

/-- The command is the next to be applied. -/
def nextIs (m : Cmd) (s : State) : Bool := decide ((tM m s).core.nextCmd = some ((tM m s).core.ctx.cid, m))

theorem applies_of {m : Cmd} {s : State} (h : nextIs m s = true) : (tM m s).applies m := by
  unfold State.applies
  exact of_decide_eq_true h

theorem wit_FrontsApplyCommands :
    let s := tH 0
    nextIs (cmdOf (.mm 5 true 1 2 3) [1, 2, 3] [1] []) s = true ∧
    nextIs (cmdOf (.cp ⟨false, false, false, false, false⟩ 0 7 5 5 3) [2 ^ 52, 2 ^ 52, 64] [1] []) s = true ∧
    nextIs (cmdOf (.hset 1 2) [8, 2 ^ 52] [] []) s = true ∧ nextIs (cmdOf (.hinv 1) [8, 0] [] []) s = true ∧
    nextIs (cmdOf (.tlPub .ce 1 2) [2 ^ 52, 3] [0] [rD 0]) s = true ∧ nextIs (cmdOf (.cbRel 2) [] [] []) s = true ∧ s.part < 4 := by decide +kernel

/-- KV state: one page with a reference, two sequences of which one is free; a policy table of one entry. -/
def tK (ref : Nat) (seqs : Tab (Option SeqSt)) (nseq : Nat) : State :=
  { tH 0 with kv := [(0, { npage := 2, nseq := nseq, hdr := [(1, pageHdr 0xFFFFFF 0 0 0 1 ref 0)], seqs := seqs })] }

theorem wit_KvCommandsTakeEffect :
    nextIs (cmdOf (.kvAlloc 7) [] [] []) (tK 1 [] 2) = true ∧ nextIs (cmdOf (.kvRef 7 1) [1] [] []) (tK 1 [] 2) = true ∧
    nextIs (cmdOf (.kvFree 7 1) [1] [] []) (tK 1 [] 2) = true ∧ nextIs (cmdOf (.kvLk 7 1 2 0) [0, 0xFFFFFFFF] [] []) (tK 1 [] 2) = true ∧
    nextIs (cmdOf (.pfxFindDrop 7 2 0) [5] [] []) (tK 1 [] 2) = true ∧
    (let k := (tK 1 [(0, some {})] 1).kvp 0 0; ∀ i < k.nseq, k.seq i ≠ none) ∧ (let k := (tK 1 [(0, some {})] 2).kvp 0 0; ∃ i < k.nseq, k.seq i = none) ∧
    ((tK 1 [] 2).kvp 0 0).isPage 2 = false ∧ ((tK 1 [] 2).kvp 0 0).isPage 1 = true ∧ pRef (((tK 1 [] 2).kvp 0 0).h 1) = 1 ∧
    pRef (((tK 0 [] 2).kvp 0 0).h 1) = 0 ∧ pRef (((tK 65535 [] 2).kvp 0 0).h 1) = 65535 ∧ ((tK 1 [(0, some {})] 1).kvp 0 0).seq 0 = some {} ∧
    (tK 1 [] 2).pfxEnt 0 0 0 5 = none := by decide +kernel

/-- Scheduler state of the die: a list of one item, a request. -/
def tQ (open_ : Nat) (e : Req) (g : Group) : State :=
  { tH 0 with dies := [(0, { lists := [{ part := 0, tag := 3, items := [77] }], reqs := [(0, e)], groups := [(0, g)] })], dparts := [(0, { open_ := open_ })] }

theorem wit_UnitCommandsTakeEffect :
    let s := tQ 1 { state := 1 } { n := 3, q := 2, state := 1 }
    nextIs (cmdOf (.termOpen 7) [] [] []) (tQ 65535 {} {}) = true ∧ nextIs (cmdOf (.termClose 7) [] [] []) (tQ 0 {} {}) = true ∧
    ((tQ 65535 {} {}).dpart 0 0).open_ = 65535 ∧ ((tQ 0 {} {}).dpart 0 0).open_ = 0 ∧ nextIs (cmdOf (.cmpTake 7 1) [3] [] []) s = true ∧
    (s.die 0).listOf 0 3 = some { part := 0, tag := 3, items := [77] } ∧ (s.die 0).listOf 0 4 = none ∧
    nextIs (cmdOf (.rqNextAdv 7 1 2) [0, 0] [] []) s = true ∧ nextIs (cmdOf (.rqNextResume 7 1 2) [0, 0] [] []) s = true ∧
    ((s.die 0).req 0).state = 1 ∧ ((s.die 0).req 1).state = 0 ∧ nextIs (cmdOf (.segUnpin 1) [6 * 2 ^ 52] [] []) s = true ∧
    nextIs (cmdOf (.bltOpen 7 1 2) [1, 3] [] []) s = true ∧ ((s.die 0).group 1).state = 0 ∧ ((s.die 0).group 0).state ≠ 0 ∧
    ({ posts := [{ phase := 0, rq := 3, again := true }] } : Ctx).replays 3 = true ∧ nextIs (cmdOf (.bltPost 7 1 2) [256, 0] [] []) s = true ∧ nextIs (cmdOf (.bltRead 7 1 0) [1] [] []) s = true ∧
    nextIs (cmdOf (.bltClose 7 1) [0] [] []) s = true ∧ nextIs (cmdOf (.govRes 7 1) [257] [] []) s = true ∧
    nextIs (cmdOf (.govBallast 7 1) [320] [] []) s = true ∧ nextIs (cmdOf (.opReq 7 1) [400] [] []) s = true := by decide +kernel

/-- No source bank of the operation stops it. -/
def vrdy (s : State) (i : Instr) : Bool := (srcBlocks i).all (fun b => (b.banks s.core.ctx.f).all (fun k => decide (s.vbank k = .full)))

theorem vready_of {s : State} {i : Instr} (h : vrdy s i = true) : s.vready i := by
  refine Or.inr (fun b hb k hk => ?_)
  have := List.all_eq_true.1 (List.all_eq_true.1 h b hb) k hk
  exact of_decide_eq_true this

/-- Operands of slot V of a type, one register each. -/
def vA (ty : VTy) : VArgs := { ty := ty, d := 0, a := 16, b := 32, c := 48, h := 0, w := 0, pred := 0, da := false, rnd := .rne, sat := false }

/-- Registers v16, v32 and v48 hold a number in every bit group of 64. -/
def tX (a b c : Nat) : State := (tV 0).mapRegs (fun r => { r with v := [(16, BitVec.ofNat 512 a), (32, BitVec.ofNat 512 b), (48, BitVec.ofNat 512 c)], live := [(16, true), (32, true), (48, true)] })

theorem wit_VectorOperationsIssue :
    vUse (.vadd (vA .s8)) ≠ none ∧ vrdy (tV 0) (.vadd (vA .s8)) = true ∧ vrdy (tV 0) (.vadd { vA .s8 with da := true }) = true ∧
    vrdy tR (.vadd (vA .s8)) = false := by decide +kernel

theorem wit_VectorIntegerResults :
    vrdy (tX 5 3 1) (.vadd (vA .s8)) = true ∧ (VTy.s8).isI = true ∧ (VTy.s16).isSI = true ∧ vrdy (tX 5 3 1) (.vsel { vA .n32 with c := 1 }) = true ∧
    0 < (vA .s8).hN ∧ 0 < (vA .s8).wN ∧ 63 < 512 / (VTy.s8).width ∧ elem 8 ((tX 5 3 1).vsrc 2 32) 0 = 3 ∧
    8 ≤ elem 8 ((tX 5 8 1).vsrc 2 32) 0 ∧ laneInt .s8 ((tX 255 8 1).vsrc 1 16) 0 < 0 := by decide +kernel

theorem wit_VectorMovesAndPredicates :
    vrdy (tX 5 3 1) (.vcmp .lt { vA .s8 with d := 1 }) = true ∧ vrdy tR (.pand { vA .s8 with d := 1, a := 1, b := 2, c := 0 }) = true ∧
    vrdy (tX 5 3 1) (.vext { vA .s16 with c := 5 }) = true ∧ vrdy (tX 5 3 1) (.vred .sum { vA .s32 with b := 0, c := 0 }) = true := by decide +kernel

theorem wit_FloatRounding :
    (fp32 = fp32 ∨ fp32 = bf16) ∧ fp32.isFin 0x7F7FFFFF ∧ (3 * 2 ^ 11 ≤ 2 ^ 21 * 1) ∧ (m8EncRat .rne true true 3 1).1 % 128 ≠ 0 := by
  unfold Fmt.isFin
  decide +kernel

theorem wit_VectorFloatResults :
    let s := fun (x : Nat) => (tX x 0x7FC00000 0x7F800001).vsrc 1 16
    vrdy (tX 1 2 3) (.vadd (vA .f32)) = true ∧ vrdy (tX 1 2 3) (.vfma .fms (vA .f32)) = true ∧ vrdy (tX 1 2 3) (.vexp2 { vA .f32 with b := 0, c := 0 }) = true ∧
    elem 32 (s 0x7FC00000) 0 = 0x7FC00000 ∧ elem 32 (s 0xFF800000) 0 = 0xFF800000 ∧ elem 32 (s 0x80000000) 0 = 0x80000000 ∧
    0x80000000 < elem 32 (s 0x80000001) 0 ∧ elem 32 (s 0x3F800000) 0 = 0x3F800000 ∧ 0x7F800000 < 0x7F800001 % 2 ^ 31 := by decide +kernel

/-- The clauses on every float type. -/
theorem wit_VectorFloatResults_types :
    (VTy.f32).isF = true ∧ (VTy.bf16).isF = true ∧ vrdy (tX 1 2 3) (.vmin (vA .bf16)) = true ∧ vrdy (tX 1 2 3) (.vcmp .ge { vA .f32 with d := 1 }) = true ∧
    (1 : Nat) + (0 * 1 + 0) ≠ 0 := by decide +kernel

theorem wit_VectorWidthsAndDots :
    vrdy (tX 5 3 1) (.vcvt .s8 { vA .s32 with b := 0, c := 0 }) = true ∧ vrdy (tX 5 3 1) (.vrot { vA .s8 with b := 5, c := 0, w := 15 }) = true ∧
    vrdy (tX 5 3 1) (.vpack { vA .s16 with c := 0 }) = true ∧ vrdy (tX 5 3 1) (.vunpk { vA .n32 with b := 5, c := 0 }) = true ∧
    vrdy (tX 5 3 1) (.vdot (vA .s16)) = true ∧ vrdy (tX 0x7FC00000 3 1) (.vquant { vA .f32 with b := 0 }) = true ∧
    0x7F800000 < elem 32 ((tX 0x7FC00000 3 1).vsrc 1 16) 0 % 2 ^ 31 ∧ ((tX 0 0 0).rp (srcTag .v 4) 0).getLsbD 0 = true ∧
    vrdy (tX 5 3 255) (.vdeq { vA .f32 with b := 0 }) = true ∧ elem 8 ((tX 5 3 255).vsrc 3 48) 0 = 255 ∧
    vrdy (tX 0x7FC00000 3 1) (.vsmx { vA .f32 with b := 0 }) = true := by decide +kernel

/-- An ME operation of one step of K = 32 in BF16, from buffer 1 in A and buffer 2 in W. -/
def opMe (drain : Bool) : MeOp :=
  { num := 1, phase := 0, fmt := BitVec.ofNat 256 (2 ^ 128), ep := [0xC000, 0xF000], lost := false, ent := [(3, ent 1 0x300000), (2, ent 0 0x10000)]
    tmpl := BitVec.ofNat 512 (1 + (if drain then 4 else 0) + 2 ^ 12 + 2 ^ 16 + 2 ^ 32 + 2 * 2 ^ 36 + 2 ^ 80 + 2 ^ 112 + 2 ^ 496) }

/-- Its buffers full, its reservation held. -/
def tMe (o : MeOp) : State :=
  ({ tH 0 with handles := [(2, ent 0 0x10000), (3, ent 1 0x300000)] }).mapCore (fun c => { c with
    ccyc := 100, meR := { held := 20 }, ctx := { c.ctx with
      meq := [o]
      cb := [(1, { handle := 3, slotsz := 128, prod := 5, cons := 1, valid := true, pptr := 1, vptr := 1 }),
             (2, { handle := 2, slotsz := 128, prod := 5, cons := 1, valid := true, pptr := 1, vptr := 1 })] } })

def firedMe (drain : Bool) (st : MeStage) : MeFired :=
  { op := opMe drain, owner := 0, aKey := 0, bKey := 0, rKey := 0, dKey := 0, scaKey := 0, scbKey := 0, biasKey := 0, resKey := 0, groups := []
    fired := 0, stage := st, arr := [], arrFlags := [], bad := false }

/-- A decode operation of one row, from buffer 1 and to buffer 2 in A, on an empty sequence. -/
def opAt : AtOp :=
  { num := 1, phase := 0, cmd := 0, dae := true, ent := [(3, ent 1 0x300000)]
    tmpl := BitVec.ofNat 512 (1 + 2 ^ 16 + 2 * 2 ^ 20 + 2 ^ 32 + 2 ^ 36 + 2 ^ 48 + 2 ^ 64 + 2 ^ 96 + 2 * 2 ^ 128 + 2 ^ 496 + 2 * 2 ^ 497) }

def tAt : State :=
  ({ tH 0 with
      handles := [(1, ent 4 0x10000), (3, ent 1 0x300000)], mem := [(rD 0 + 1, 2)], clusters := [(0, { owner := 1, daeR := { held := 1 } })]
      kv := [(0, { nseq := 1, seqs := [(0, some {})], kvpolb := 2 ^ 52 })] }).mapCtx (fun x => { x with
    atq := [opAt]
    cb := [(1, { handle := 3, slotsz := 1, prod := 5, cons := 4, valid := true, pptr := 1, vptr := 1 }),
           (2, { handle := 3, base := 6 * 262144, slotsz := 2, prod := 4, cons := 5, valid := true })] })

/-- An operation that has run. -/
def ranAt : AtRun := { op := opAt, owner := 0, qKey := 0, oKey := 0, part := 0, groups := [], till := 0, app := 0, win := 0, recLen := 16384, toks := 1, pages := [] }

theorem wit_EnginesFireAndComplete :
    (tMe (opMe false)).core.ctx.meq = [opMe false] ∧ (tMe (opMe false)).meAct = .fire ∧
    (tMe { opMe false with tmpl := 0 }).meAct = .stop { code := 1 } ∧ tR.core.ctx.meq = [] ∧
    (let m := firedMe false (.mac 5); m.owner = tR.core.ctx.cid ∧ m.stage = .mac 5 ∧ m.bad = false ∧ meDr m.op.tmpl = false) ∧
    (let m := firedMe true (.drain 5); m.stage = .drain 5 ∧ meDr m.op.tmpl = true ∧ meWh m.op.tmpl = false) ∧
    tAt.core.ctx.atHead true = some opAt ∧ tAt.atAct true = .fire ∧ tAt.atTurn true = true ∧ tR.core.ctx.atHead false = none ∧
    ranAt.op.dae = true ∧ ranAt.till ≤ tR.core.ccyc ∧ ranAt.bad = false := by decide +kernel

/-- A copy of 64 bytes within D, its slots taken, and the core that runs it. -/
def cpy (pos : Nat) (sent : Option XReq) : Copy :=
  { num := 1, owner := 0, phase := 0, pos := pos, stage := .body, n := 64, sent := sent, ent := [(1, (tH 0).hEnt 0 0 1)]
    parm := { kind := .lin, ver := false, whole := false, ph := false, dcb := false, scb := false, cb := 0, src := 2 ^ 52, dst := 2 ^ 52 + 128, len := 64,
              nrow := 1, sstep := 0, dstep := 0, idx := 0, off := 0, mask := 0, tmplOk := true } }
def tCp (k : Copy) : State := (tH 0).mapCore (fun c => { c with ccyc := 9, copies := [k], ceR := { held := 6 } })

theorem wit_CopyEvents :
    let s := tCp (cpy 0 none)
    let k := { cpy 0 none with till := some 9 }
    let at_ := s.spot s.cix s.core.ctx k.ent (some (k.num, k.owner))
    s.core.copies = [cpy 0 none] ∧ k.owner = s.core.ctx.cid ∧ s.chk = [] ∧ s.core.ceR.held ≠ 0 ∧ k.pos < k.parm.total ∧
    s.ring.fenced.testBit s.station = false ∧ k.at s.core.ctx s.cix 0 0 = (⟨1, 0⟩, ⟨1, 128⟩, 64) ∧
    min (toEdge (chunkAddr k.ent ⟨1, 128⟩)) (min 64 (toEdge (chunkAddr k.ent ⟨1, 0⟩))) = 64 ∧
    at_ ⟨1, 0⟩ k.n false srcSpaces = .ok spD false (keysFrom (rD 0) 64) ∧
    at_ ⟨1, 128⟩ k.n true dstSpaces = .ok spD false (keysFrom (rD 0 + 128) 64) ∧
    s.sideFault (keysFrom (rD 0) 64) false = none ∧ s.sideFault (keysFrom (rD 0 + 128) 64) true = none ∧ s.anyAsleep (keysFrom (rD 0) 64) = false ∧
    (cpy 64 none).parm.total ≤ (cpy 64 none).pos ∧ (cpy 64 none).slots = [] ∧ k.re = false ∧
    (let r : XReq := { port := 0, mac := 0, station := 0, part := 0, ha := 2 ^ 52, n := 64 }
     (cpy 0 (some r)).sent = some r ∧ r.data = none ∧ ({ r with data := some [] } : XReq).data ≠ none) := by decide +kernel

/-- A copy that fills a slot of its buffer, the first in its order. -/
theorem wit_CopyEvents_slot :
    let u : CpSlot := { core := 0, slot := 0 }
    let k : Copy := { cpy 64 none with slots := [u], parm := { (cpy 64 none).parm with dcb := true, cb := 1 } }
    k.parm.dcb = true ∧ u.done = false ∧ (tCp k).orderTurn k u = true ∧ k.parm.total ≤ k.pos := by decide +kernel

theorem wit_PowerEvents :
    (let s := tR.mapCore (fun c => { c with ccyc := 64, vpWait := [{ cid := 0, num := 1, b := 2, lb := 3, need := false }] })
     let w : VpEnt := { cid := 0, num := 1, b := 2, lb := 3, need := false }
     s.core.vpWait = [w] ∧ w.need = false ∧ w.cid = s.core.ctx.cid) ∧
    (let s := tR.mapCore (fun c => { c with ccyc := 64 }); s.core.vpWait = [] ∧ s.core.vpLast + 64 ≤ s.core.ccyc ∧ s.core.vpR.idle + 64 ≤ s.core.ccyc) ∧
    tR.core.ccyc < tR.core.vpLast + 64 ∧
    (let s := tR.mapCore (fun c => { c with ccyc := 64, meR := { held := 20 }, ceR := { held := 6 } })
     s.core.me = [] ∧ s.core.ctx.meq = [] ∧ s.core.meR.asked = false ∧ s.core.copies = [] ∧ s.core.meR.held ≠ 0 ∧ s.core.meR.idle + 64 ≤ s.core.ccyc ∧ s.core.ceR.held ≠ 0 ∧
       s.core.ceR.idle + 64 ≤ s.core.ccyc) ∧
    (let s : State := { tR with clusters := [(0, { owner := 1, clk := 64, daeR := { held := 10 } })] }
     (∀ j < 8, (s.getCore (8 * s.cl + j)).atRun = [] ∧ (s.getCore (8 * s.cl + j)).ctx.atq = []) ∧ s.cluster.daeR.held ≠ 0 ∧
       s.cluster.daeR.idle + 64 ≤ s.cluster.clk) ∧
    (let s : State := { tR with clusters := [(0, { pow := { lvl := 9 } })] }
     (s.power s.cl).acts = [] ∧ (s.power s.cl).fifo = [] ∧ max (s.power s.cl).held (s.power s.cl).maxFloor < (s.power s.cl).lvl) ∧
    (tR.power tR.cl).ramp = false ∧
    (let p : Power := { ramp := true, fcur := 400, ftgt := 425, vcur := 550 }; p.fcur < p.ftgt ∧ (p.vcur < voltOf p.ftgt ∨ voltOf p.ftgt ≤ p.vcur)) ∧
    (let p : Power := { ramp := true, fcur := 400, ftgt := 400, vcur := voltOf 400 }; p.fcur = p.ftgt ∧ p.vcur = voltOf p.ftgt ∧ p.pend = none) := by
  decide +kernel

theorem wit_BankStates :
    adm tR (.bankVec .off 0xFFFF) = true ∧ adm tR (.bankVec .ret 1) = true ∧ adm tR (.bankVec .full 0x8001) = true ∧ tR.vbank 0 = .off ∧
    (tV 0).vbank 15 = .full ∧ adm tR (.bankBuf .off .p 0xF) = true ∧ adm tR (.bankBuf .ret .w 0x8000) = true ∧ adm tR (.bankBuf .full .c 1) = true ∧
    tR.core.bank 3 15 = .full ∧ Tab.wf .full tR.core.bbs = true ∧ Tab.wf .off tR.core.ctx.r.bank = true := by decide +kernel

theorem wit_CachesAndInvalidations_clean : ((tH 0).mapFlow (fun f => { f with codeh := 1 })).allClean :=
  (clean_of (by decide +kernel)).1

theorem wit_CachesAndInvalidations :
    (let s := tR.withFetchWord 32 0
     (Tab.get none s.cluster.lines (lineKey s.part s.core.ctx.f.codeh.toNat (s.core.ctx.f.pc / 64))).isSome = true) ∧
    (let s := (tH 0).mapFlow (fun f => { f with codeh := 1 })
     Tab.get none s.cluster.lines (lineKey s.part s.core.ctx.f.codeh.toNat (s.core.ctx.f.pc / 64)) = none ∧
       (s.blockBytes (s.core.ctx.f.pc / 64)).2.isSome = true) ∧
    ({ tR with clusters := [(0, { flush := some 1 })] } : State).cluster.flush = some 1 ∧ tR.cluster.flush = none := by decide +kernel

/-- An arrival task and a tile task, not taken. -/
def arr1 : ArrTask :=
  { id := 1, part := 0, race := 0, tag := 0, entry := 4, gap := false, trans := false, tset := 0, ftb := 0, bcls := 0, slot := 5, sid := 1, late := 0
    dep := 9, rot := 0, ents := [], join := 7 }
def tile1 : TileTask :=
  { id := 1, part := 0, entry := 4, eng := 0, ins := [], outs := [], deadline := none, rq := none, est := 1, arg := 3, recHa := 2 ^ 52, join := none }

theorem wit_TasksAndBarriers :
    (let s := ({ tR with dies := [(0, { arrs := [arr1] })] }).mapCore (fun c => { c with offer := some 1 })
     adm s (.arrWait 3 1 3) = true ∧ s.core.offer = some 1 ∧ s.qOf .e = false ∧ (s.die s.station).arrs.find? (fun t => t.id == 1) = some arr1) ∧
    (let s := ({ tR with dies := [(0, { tiles := [tile1] })] }).mapCore (fun c => { c with offer := some 1 })
     adm s (.arrWait 3 1 3) = true ∧ (s.die s.station).arrs.find? (fun t => t.id == 1) = none ∧
       (s.die s.station).tiles.find? (fun t => t.id == 1) = some tile1) ∧
    (let s := tW { elapsed := 4, bound := 4, expired := true, kind := 1, races := 3 } tR
     s.core.iss.checked = false ∧ s.qOf .e = false ∧ s.core.offer = none ∧ s.timedOut = true) ∧
    (let s := ({ tR with dies := [(0, { arrs := [arr1] })] }).mapCore (fun c => { c with wait := some { kind := 1, races := 3 } })
     s.ring.fenced.testBit s.station = false ∧ (s.die s.station).arrs = [arr1] ∧ arr1.taker = none ∧ arr1.id ∉ s.offered s.station ∧
       s.nextCore s.station (fun c => c.freeArr arr1) = some 0) ∧
    tR.core.bar = none ∧
    (let s := ({ tR with bars := [(1, { count := 1, pend := true })] }).mapCore (fun c => { c with bar := some (1, 1) })
     s.barOpen s.cix 1 = true) ∧
    (let s := tR.mapCore (fun c => { c with bar := some (1, 1) }); s.barOpen s.cix 1 = false) := by decide +kernel

/-- A step answers a next state that passes a test. -/
def stepsTo (s : State) (f : State → Bool) : Bool :=
  match step s with
  | .next t => f t
  | _ => false

theorem wit_MillraceEvents :
    let g : SegImg := { part := 0, race := 0, cidx := 0, addr := 0, gen := 0, tag := 0 }
    let p : PondSeg := { seg := { sid := 0, tag := 0, part := 0, kind := 0, race := 0, cidx := 0, late := 0, rot := 0, gen := 0, user := 0 }, since := 0
                         staging := some 0 }
    tR.ring.running = false ∧
    (let s : State := { tR with ring := { running := true, pe := 32, pw := 32, s0e := 1, s0w := 1 } }
     s.ring.running = true ∧ s.ring.stopped = false ∧ s.pond = [] ∧ s.ring.s0e ≤ s.stroke + 1 ∧ s.ring.pe ≠ 0 ∧ s.ring.s0w ≤ s.stroke + 1 ∧ s.ring.pw ≠ 0) ∧
    (let s : State := { tR with pond := [(3, some p)] }
     s.pond = [(3, some p)] ∧ p.staging = some 0 ∧ 0 ≤ s.stroke ∧ s.ownsDie 0 0 = true ∧ avtValid (s.avt 0 0 0) = false) ∧
    (let s : State := { tR with pond := [(640 * 31, some p)] }; s.ownsDie 31 0 = false) ∧
    (let s : State := { tR with ring := { running := true, pe := 64, pw := 64, s0e := 1, s0w := 1, todo := [(g, 1)] } }
     s.ring.todo = [(g, 1)] ∧ ∃ st ∈ s.ring.stations, s.stageAt g st ≠ none) := by decide +kernel

theorem wit_ContextSwapsAndChannels :
    let sh := fun (h : Shadow) => ({ tR with cix := 1 } : State).mapCore (fun c => { c with shadow := h })
    adm (sh {}) (.ctxSwap 3) = true ∧ tR.isLaunchCore = true ∧ (sh {}).isLaunchCore = false ∧ (sh { st := .full }).core.shadow.st = .full ∧
    (sh {}).core.shadow.spillTo = none ∧ (sh {}).core.shadow.fillFrom = none ∧
    (let s := sh { st := .spilling, spillTo := some none, spillAt := 1, fillAt := 1 }; s.core.ccyc < s.core.shadow.spillAt ∧ s.core.ccyc < s.core.shadow.fillAt) ∧
    (sh {}).core.shadow.spillAt ≤ (sh {}).core.ccyc ∧ (sh {}).core.shadow.fillAt ≤ (sh {}).core.ccyc ∧
    (let s := sh { st := .spilling, spillTo := some none, bank := some {} }; s.core.shadow.spillTo = some none ∧ s.core.shadow.bank = some {}) ∧
    (let x : Ctx := {}; (∀ k < 64, (x.program k).length ≤ 32) ∧ (∀ k < 16, (Tab.get [] x.mask k).length ≤ 2176)) ∧
    (let s := sh { st := .filling, fillFrom := some none, slotv := true }; s.core.shadow.fillFrom = some none ∧ s.chk = []) ∧
    (let s := sh { st := .filling, fillFrom := some (some (rD 0)) }; s.core.shadow.fillFrom = some (some (rD 0)) ∧ s.imageGood (rD 0) s.part = false) ∧
    adm (sh { st := .filling }) (.ctxSwap 3) = true := by decide +kernel

theorem wit_PartitionSwapsAndCoreResets :
    let s : State := { tR with cix := 1 }
    s.isLaunchCore = false ∧ s.cluster.owner.testBit 0 = true ∧ s.cluster.owner.testBit 1 = false ∧ (0 : Nat) + imageBytes ≤ 2 ^ 32 ∧
    (2 : Nat) ^ 32 < 2 ^ 32 + imageBytes ∧ s.core.shadow.bank = none ∧ s.chk = [] ∧ s.core.err = none ∧ s.core.swap = none ∧ (1535 : Nat) < 1536 ∧
    (∀ x ∈ (s.getCore 1535).contexts, x.rp = none) ∧
    (s.mapCore (fun c => { c with err := some { kind := 1 } })).core.err ≠ none := by decide +kernel

/-- A trap cause at the boundary, and an error of the phase with a snapshot. -/
def tErr (owner : Nat) (commits : List Commit) : State :=
  tR.mapCore (fun c => { c with
    err := some { kind := 1, phase := 0, owner := owner }
    ctx := { c.ctx with
      commits := commits
      phases := [{ idx := 0, restart := some 64, snap := some { s := [], l := [], p := [], ls := [], rotlo := 16, rotb := 0 } }] } })

theorem wit_TrapEntryAndContainment :
    let sn : Snap := { s := [], l := [], p := [], ls := [], rotlo := 16, rotb := 0 }
    let e : ErrCause := { kind := 1, phase := 0, owner := 0 }
    let found := fun (s : State) => (s.containable e).map (fun r => (r.2.1, r.2.2))
    tR.core.ctx.topCause = none ∧
    (let s := tR.mapCtx (fun x => { x with pending := [{ code := 0x1C }] })
     s.core.ctx.topCause = some { code := 0x1C } ∧ s.core.ctx.f.act = false ∧ s.core.ctx.held.length < 4) ∧
    (let s := (tR.mapCtx (fun x => { x with pending := [{ code := 0x1C }] })).mapFlow (fun f => { f with act := true })
     s.core.ctx.topCause = some { code := 0x1C }) ∧
    tR.core.frz.run < 65536 ∧ 65536 ≤ (tR.mapCore (fun c => { c with frz := { run := 65536 } })).core.frz.run ∧ tR.core.err = none ∧
    found (tErr 0 []) = some (64, sn) ∧ found (tErr 0 [{ phase := 0, mask := 0, lateP := [], lateC := [], bundle := 0 }]) = some (64, sn) ∧
    (let s := tR.mapCore (fun c => { c with err := some { kind := 4 } }); s.containable { kind := 4 } = none ∧ s.core.ctx.cid = 0) ∧
    tR.core.refetch = [] ∧
    (let r : Refetch := { owner := 0, cb := 1, slot := 0, parm := (cpy 0 none).parm, busy := true }
     let s := tR.mapCore (fun c => { c with refetch := [r] })
     s.core.refetch.find? (fun o => o.busy) = some r ∧ (∀ k ∈ s.core.copies, k.re = false) ∧
       ∃ k ∈ (s.mapCore (fun c => { c with copies := [{ cpy 0 none with re := true }] })).core.copies, k.re = true) := by decide +kernel

/-- A commit with an earlier phase, and none. -/
theorem wit_TrapEntryAndContainment_order :
    (∃ w ∈ ((tErr 0 [{ phase := 0, mask := 0, lateP := [], lateC := [], bundle := 0 }]).core.ownerCtx 0).commits, w.phase < 1) ∧
    ∀ w ∈ (tErr 0 []).core.ctx.commits, 0 ≤ w.phase := by decide +kernel

/-- Mirror work on an area at the start of the keep tier. -/
def tMir (w : MirWork) : State :=
  { tH 0 with
    mirq := [w], kv := [(0, { kvmirb := BitVec.ofNat 64 (9 * 2 ^ 52), nseq := 1 })]
    mem := [(rG + 0x20000, 1), (rG + 0x20002, 3), (rG + 0x30000, 0xF)], ptroot := [(0, BitVec.ofNat 64 (0x200 * 2 ^ 8 + 1))] }
def work (free : Bool) (stage : Nat) : MirWork :=
  { station := 0, part := 0, core := 0, seq := 0, free := free, len := 0, pages := [], leaf := [], pol := List.replicate 512 0, stage := stage }

theorem wit_RecoveryEvents :
    tR.mirHeads = [] ∧ (tMir (work true 0)).mirHeads.find? (fun o => o.stage == 0) = some (work true 0) ∧ (tMir (work true 0)).mirFault 0 0 = none ∧
    (tMir (work true 0)).mirKeys 0 0 ((tMir (work true 0)).mirImages (work true 0)) = some [] ∧
    ({ tMir (work true 0) with kv := [] } : State).mirFault 0 0 ≠ none ∧
    (tMir (work true 1)).mirHeads.find? (fun o => o.stage == 1) = some (work true 1) ∧ ((tMir (work true 1)).wordKeys (work true 1)).isSome = true ∧
    tR.durq = [] ∧ tR.mirq = [] ∧ (∀ x ∈ tR.core.contexts, x.rp = none) ∧
    (let p : RpWrite := { bytes := [1], keys := [rG], dir := 0, mir := [] }
     ((({ tR with rdir := [(0, { valid := true })] }).mapCtx (fun x => { x with rp := some p })).mapCore (fun c => { c with ccyc := 5 })).recordReady p = true ∧
       p.keys.Nodup ∧ p.keys.length = p.bytes.length) ∧
    tR.mbRuns 1 = false ∧ ({ tR with hub := { busy := true, cmd := 1 } } : State).mbRuns 1 = true ∧ tR.hub.ckpt = none ∧
    tR.records = [] := by decide +kernel

/-- Work whose images are its leaf and policies, with all of them reachable. -/
theorem wit_RecoveryEvents_images :
    ((tMir (work false 1)).mirKeys 0 0 ((tMir (work false 1)).mirImages (work false 1))).isSome = true := by decide +kernel

/-- A request of length 1 to be restored on the die it lived on, whose mirror has a policy and a page; `pages` of that die are free. -/
def restore1 : Restore := { station := 0, rq := 0, home := 0, homeRq := 0, part := 0, image := 2 ^ 96 }
def tRes (pages : Nat) (seqs : Nat) : State :=
  { tMir (work true 0) with
    mirq := [], kv := [(0, { npage := pages, nseq := seqs })], recdir := [(0, { kvmirb := 9 * 2 ^ 52, npage := 1, nseq := 1 })]
    hub := { tR.hub with restores := [restore1] }
    mem := [(rG + 32897, 2), (rG + 0x20000, 1), (rG + 0x20002, 3), (rG + 0x30000, 0xF)] }

theorem wit_RequestsRestored :
    tR.ring.stopped = false ∧ tR.hub.restores = [] ∧ tR.hub.lost = 0 ∧ ({ tR with ring := { stopped := true } } : State).ring.stopped = true ∧
    (tRes 0 1).hub.restores = [restore1] ∧ (({ tRes 0 1 with recdir := [] } : State).restorePlan { restore1 with home := 9 }).isNone = true ∧
    ((tRes 2 1).restorePlan restore1).map RestorePlan.pages = some 2 ∧ (tRes 2 1).chk = [] ∧
    ((tRes 0 0).kvp 0 0).freeSeqs = [] ∧ ((tRes 1 1).kvp 0 0).freeSeqs ≠ [] ∧
    (((tRes 1 1).kvp 0 0).freeDie.length + ((tRes 1 1).kvp 0 0).freeSpill.length < 2) ∧ 2 ≤ ((tRes 2 1).kvp 0 0).freeDie.length ∧
    ((tRes 2 1).mirRead restore1 (mirBody 1 0) 16384).isSome = true := by decide +kernel

/-- A record of group 3, of two members and quorum 1, with or without a post; the digests are those of the two records, which `State.bestRecord` tests. -/
def recVal (posted : Nat) : Nat :=
  5 + 3 * 2 ^ 180 + posted * 2 ^ 188 + 66 * 2 ^ 512 + 5 * 2 ^ 1920
    + 2 ^ 1792 * [337945681906936644845739092219756634164, 14251430336586647658516737095398924816].getD posted 0
def lost1 (posted : Nat) : LostReq := { rq := 7, rpha := 9 * 2 ^ 52 + 0xC000, val := recVal posted }
def tLost (posted : Nat) : State :=
  { tRes 0 1 with
    hub := { tR.hub with lost := 1 }, rdir := [(7, { rpha := (lost1 posted).rpha, valid := true, lost := true })]
    mem := (List.zip (keysFrom (rG + 0xC000) 256) (leBytes (recVal posted) 256)).filter (fun c => c.2 != 0) ++ (tRes 0 1).mem }

/-- The hypotheses of the clause on restored groups. -/
def groupLost (posted : Nat) : Prop :=
  let s := tLost posted
  s.hub.restores = [] ∧ s.hub.lost = 2 ^ 0 ∧ s.ring.fenced.testBit 0 = false ∧ (∀ i < 4, s.ownsDie 0 i = decide (i = 0)) ∧
    s.lostOf 0 0 = [(7, (lost1 posted).rpha)] ∧ (s.bestRecord 0 0 (lost1 posted).rpha).map (·.2) = some (lost1 posted).val ∧
    (lost1 posted).sibg = 3 ∧ (lost1 posted).gn = 2 ∧ ((s.die 0).group 3).state = 0 ∧ ((s.die 0).req 7).state = 0 ∧
    (lost1 posted).f 188 1 = posted

theorem wit_RequestsRestored_group : groupLost 0 := by unfold groupLost; decide +kernel

theorem wit_RequestsRestored_posted : groupLost 1 := by unfold groupLost; decide +kernel

/-- The module up. -/
def tUp : State := { tR with hub := { tR.hub with phase := 4 } }

theorem wit_HostWindows :
    tR.hub.phase ≠ 4 ∧ tUp.hub.phase = 4 ∧ fld (0 : BitVec 512) 0 2 = 0 ∧ lrBad 1 = false ∧ lrBad 2 = false ∧
    ({ tUp with ring := { fenced := 1 } } : State).ring.fenced.testBit 0 = true ∧ tUp.ring.fenced.testBit (fld (1 : BitVec 512) 2 5) = false ∧
    tUp.ring.stopped = false ∧ ((tUp.die 0).req 0).state = 0 ∧ tUp.launchBusy 0 0 = false ∧ (tUp.launchCore 0 0).isSome = true ∧
    tUp.log.tail ≤ 0 ∧ 0 ≤ tUp.log.head ∧ tUp.log.head ≤ tUp.log.tail + 4096 ∧ tUp.hub.busy = false ∧
    ({ tUp with hub := { tUp.hub with busy := true } } : State).hub.busy = true ∧ tUp.hub.kapbase.getLsbD 0 = false ∧
    ({ tUp with hub := { tUp.hub with kapbase := 1 } } : State).hub.kapbase.getLsbD 0 = true ∧ 1 ≤ tR.hub.phase ∧ tR.hub.phase ≤ 3 := by decide +kernel

def launch1 : Launch := { part := 0, station := 0, addr := 0, admitted := false, entry := 4, arg := 3, rqix := 0 }

theorem wit_HubAndDies :
    (∀ o ∈ tR.hub.launches, o.station = 0 → o.started = true) ∧
    (let s : State := { tUp with hub := { tUp.hub with launches := [launch1] } }
     s.launchCore 0 launch1.part = some 0 ∧ (s.getCore 0).launchCtx = [] ∧ (s.getCore 0).between = true) ∧
    hValid (tR.hEnt 0 0 1) = false ∧
    (let s : State := { tR with handles := [(1, ent 4 0x100 ||| BitVec.ofNat 256 (2 ^ 128))] }; hValid (s.hEnt 0 0 1) = true ∧ hPart (s.hEnt 0 0 1) ≠ 0) ∧
    (let e := (tH 0).hEnt 0 0 1; hSpace e = spD ∧ checkAt e .ce 0 1 0 8 false true [spD, spK, spG, spH] = none ∧
      checkAt e .ce 0 1 0 8 true false [spD, spK, spS, spG, spH] = none ∧ rD 0 + 8 ≤ rK 0) ∧
    tR.ring.fenced.testBit 0 = false ∧ ({ tR with ring := { fenced := 1 } } : State).ring.fenced.testBit 0 = true ∧ tR.durq = [] ∧
    (∀ x ∈ tR.core.contexts, x.rp = none) ∧ tR.mbRuns 10 = false ∧ ({ tR with hub := { busy := true, cmd := 10 } } : State).mbRuns 10 = true := by
  decide +kernel

theorem wit_MailboxCommands :
    let mb := fun (c : Nat) (a b : Word) => ({ tUp with hub := { tUp.hub with busy := true, cmd := c, arg0 := a, arg1 := b } } : State)
    tR.mbRuns 2 = false ∧ (mb 2 0 0).mbRuns 2 = true ∧ (mb 2 0 0).loadResult 0 64 64 ((mb 2 0 0).imageAt 0 0 18433) = 0 ∧ (mb 3 0 0).mbRuns 3 = true ∧
    (mb 4 31 0).mbRuns 4 = true ∧ (mb 4 31 0).ring.fenced.testBit 31 = false ∧ (mb 5 0 0).mbRuns 5 = true ∧ (mb 5 0 0).ring.fenced = 0 ∧
    (mb 6 0 0).mbRuns 6 = true ∧ (mb 7 191 0).mbRuns 7 = true ∧ (mb 8 191 0).mbRuns 8 = true ∧ (mb 9 0 0).mbRuns 9 = true ∧
    (Tab.get {} tUp.clusters 0).owner.testBit 0 = true ∧ (mb 0 0 0).hub.busy = true ∧ (mb 0 0 0).hub.ended = none ∧ (mb 0 0 0).hub.cmd = 0 ∧
    ({ mb 2 0 0 with hub := { (mb 2 0 0).hub with ended := some 1 } } : State).hub.ended = some 1 := by decide +kernel

/-- A record while the ring has stopped, a tail that is not taken, an offset of window V. -/
theorem wit_HostWindows_edges :
    (let s : State := { tUp with ring := { stopped := true } }; s.hub.phase = 4 ∧ s.ring.fenced.testBit 0 = false ∧ s.ring.stopped = true) ∧
    (∀ j, tUp.log.tail ≤ j → j ≤ tUp.log.head → j % 2 ^ 32 ≠ (5#32).toNat) ∧ (0x80000 ≤ 0x9FFF8 ∧ 0x9FFF8 < 0xA0000 ∧ 0x9FFF8 % 8 = 0) := by
  refine ⟨by decide +kernel, fun j _ h => ?_, by decide⟩
  have : j = 0 := Nat.le_zero.1 h
  subst this
  decide

/-- A chunk for a fenced die; a fence beside a fenced station and one of a fenced station; a restart of a ring that has stopped, and of one
that has not; a cluster that is not drained. -/
theorem wit_HubAndMailbox_edges :
    (let s : State := { tUp with ring := { fenced := 2 } }; s.ring.fenced.testBit 1 = true ∧ s.ring.fenced.testBit 0 = false ∧
      s.ring.fenced.testBit ((0 + 1) % 32) = true ∧ s.ring.fenced ≠ 0) ∧
    (let s : State := { tUp with ring := { stopped := true } }; s.ring.stopped = true) ∧
    tUp.ring.fenced = 0 ∧ tUp.ring.stopped = false ∧ tUp.hub.warm = false ∧ (192 : Nat) ≤ 192 % 256 ∧ tUp.drained 0 0 = true ∧
    ({ tUp with dies := [(0, { reqs := [(3, { state := 1 })] })] } : State).drained 0 0 = false := by decide +kernel

/-- A result whose cycle has come, and one that is still under way. -/
theorem wit_ResultsLand :
    let p : Pend := { dst := ⟨.s, 5⟩, val := 7, mask := BitVec.allOnes 512, iat := 0, due := 1, slot := .m, q := false, x := false, alts := [], unit := none }
    let s := (tR.mapCtx (fun x => { x with fl := { x.fl with pend := [p, { p with dst := ⟨.p, 3⟩, due := 9 }] } })).mapCore (fun c => { c with icyc := 1, ccyc := 1 })
    (decide (p.due ≤ s.core.icyc) && p.there s.core.ccyc) = true ∧ (decide (9 ≤ s.core.icyc) = false) ∧
    s.core.ctx.fl.pend.filter (fun o => o.dst == p.dst) = [p] := by decide +kernel

/-- The bundle of an addition after reset: it decodes, nothing holds it, and the step issues it. -/
theorem wit_StepRunsBundle :
    let w := 0x0430420000000000 * 2 ^ 64
    let s := tR.withFetchWord 256 w
    let f := s.core.ctx.f
    s.agenda = [] ∧ s.work = [] ∧ s.core.ahead = [] ∧ s.core.ctx.fl.lately = [] ∧ s.core.halted = false ∧ s.cluster.owner ≠ 0 ∧ s.core.ctx.fl.pend = [] ∧ s.core.ctx.fl.trans = [] ∧
    s.core.ctx.fl.defer = [] ∧ s.core.ctx.fl.vp = [] ∧ s.core.gap = 0 ∧ s.core.err = none ∧ s.core.frz.run < 65536 ∧ s.core.swap = none ∧ s.core.pswap = none ∧ s.core.endedCtx = [] ∧
    s.launchOver = false ∧ s.core.ctx.pending = [] ∧ s.core.bar = none ∧ s.core.holdCmd = none ∧ f.idle = false ∧
    s.core.ctx.task.ending = false ∧ f.highPc = 0 ∧ s.fetchFault f.pc = false ∧
    Tab.get none s.cluster.lines (lineKey s.part f.codeh.toNat (f.pc / 64)) = some (BitVec.ofNat 512 w) ∧
    decodeTableWord 256 w = some (.add 3 1 2) ∧
    stepsTo s (fun t => decide (t.core.ctx.fl.pend.map (·.dst) = [⟨.s, 3⟩]) && t.core.ctx.f.pc == 32 && t.core.ctr.issN == 1) = true := by decide +kernel

theorem wit_RoundTrip : Instr.wf (.brNz 4 0) = true ∧ (encode (.brNz 4 0)).isSome = true := by decide +kernel

theorem wit_MemoryStaysCanonical : tR.memWf ∧ stepsTo tR (fun _ => true) = true := by
  unfold State.memWf
  decide +kernel

/-- An image in D whose header is the model's and whose digest has been written. -/
def tGood : State :=
  let sh : Shadow := { st := .filling, fillFrom := some (some (rD 0)) }
  let s : State := (({ tR with cix := 1 } : State).mapCore (fun c => { c with shadow := sh })).wrLE (rD 0 + 0x400) 8 1
  let d := shake128 (s.rdN (rD 0 + 0xB00) 1280 ++ s.rdN (rD 0 + 0x12C00) 54272)
  (s.wrLE (rD 0 + 0x4F0) 8 d).wrLE (rD 0 + 0x4F8) 8 (d / 2 ^ 64)

/-- The clause of a good image is met. -/
theorem wit_ContextSwapsAndChannels_goodImage :
    tGood.core.shadow.fillFrom = some (some (rD 0)) ∧ tGood.imageGood (rD 0) tGood.part = true :=
  ⟨rfl, imageGood_of_digest _ _ _ _ rfl (by decide +kernel) (by decide +kernel) (by decide +kernel) (by decide +kernel)⟩

/-! ### Results of the spec's worked examples and of hand calculation -/

/-- The M8 codes of 3.9375, 768 and, below, of the quantising example (03 R64's examples). -/
theorem test_m8_ties : (m8Enc .rne false (.fin false 63 (-4))).1 = 0x30 ∧ (m8Enc .rne false (.ofNat 768)).1 = 0x07 ∧
    (m8Enc .rne false (.ofNat 800)).1 = 0x03 := by decide +kernel

/-- The worked example of a scale tile: blocks 0 to 3, drained to FP32 and to BF16 (03, "Worked example"). -/
theorem test_scale_tile :
    let z := List.replicate 29 0
    let a0 := m8Accumulate (.fin false 0 0, {}) ([0x03, 0x61, 0x03] ++ z) ([0x03, 0xE0, 0x83] ++ z) 0x7F 0x7F
    let a1 := m8Accumulate a0 ([0x68, 0, 0] ++ z) ([0x68, 0, 0] ++ z) 0x89 0x89
    let a3 := m8Accumulate (m8Accumulate a1 ([0, 0, 0] ++ z) ([0, 0, 0] ++ z) 0x7F 0x7F) ([0, 0, 0] ++ z) ([0, 0, 0] ++ z) 0x7F 0x7F
    fp32.bits .rne false a3.1 = 0x4A0FFFFC ∧ bf16.bits .rne false a3.1 = 0x4A10 ∧
      (m8Accumulate a1 ([0, 0, 0] ++ z) ([0, 0, 0] ++ z) 0xFF 0x7F).1.isNan = true := by decide +kernel

/-- The operands of the quantising example: elements 0 to 3, and zeros. -/
def tQuant (x2 : Nat) : List Vec := [ofElems 32 [0x40400000, 0xBF400000, x2, 0x3C23D70A], 0, 0, 0]

/-- 06, "Quantising two blocks": the codes, the scales, and the element 100.0. -/
theorem test_vquant :
    let v : VArgs := { ty := .f32, d := 16, a := 0, b := 0, c := 32, h := 0, w := 0, pred := 0, da := false, rnd := .rne, sat := false }
    (quantRow v (BitVec.allOnes 64) (tQuant 0x42800000)).1.take 5 = [0x1A, 0xB4, 0x07, 0x22, 0x00] ∧
    (quantRow v (BitVec.allOnes 64) (tQuant 0x42800000)).2 = [0x7C, 0x7F] ∧
    (quantRow v (BitVec.allOnes 64) (tQuant 0x42C80000)).1.getD 2 0 = 0x03 := by decide +kernel

/-- 06, the same example: the way back, with 128.0 for the code 0x03. -/
theorem test_vdeq : ([0x1A, 0xB4, 0x07, 0x22, 0x03].map (fun x => fp32.bits .rne false (m8Scaled 0x7C x))) =
    [0x40400000, 0xBF400000, 0x42800000, 0x3C200000, 0x43000000] := by decide +kernel

/-- 13, "The softmax order": exp2 of minus infinity is +0 and of -2 is 0.25. -/
theorem test_exp2 : fp32.exp2 .rne false (.inf true) = 0 ∧ fp32.exp2 .rne false (.ofInt (-2)) = 0x3E800000 := by decide +kernel

/-- The value of the youngest result that an instruction has in flight, and the latency it was given. -/
def sends (o : Host.Outcome State Fault Refusal) : Option (Dst × Nat × Nat) :=
  match o with
  | .next t => t.core.ctx.fl.pend.getLast?.map (fun p => (p.dst, p.val.toNat, p.due - p.iat))
  | _ => none

/-- s5 as given and s6 holds 2. -/
def tT (v : Word) : State := tR.mapRegs (fun r => { r with s := [(5, v), (6, 2)] })

/-- 05 R121 to R123: sums wrap, products' high halves by sign, division truncates toward zero, shift amounts are taken modulo 64. -/
theorem test_scalar_values :
    sends (exec (.addi 3 5 1) (tT (BitVec.allOnes 64))) = some (⟨.s, 3⟩, 0, 1) ∧
    sends (exec (.mulh 3 5 6) (tT (BitVec.allOnes 64))) = some (⟨.s, 3⟩, 2 ^ 64 - 1, 3) ∧
    sends (exec (.mulhn 3 5 6) (tT (BitVec.allOnes 64))) = some (⟨.s, 3⟩, 1, 3) ∧
    sends (exec (.div 3 5 6) (tT (-7))) = some (⟨.s, 3⟩, 2 ^ 64 - 3, 24) ∧
    sends (exec (.rem 3 5 6) (tT (-7))) = some (⟨.s, 3⟩, 2 ^ 64 - 1, 24) ∧
    sends (exec (.sar 3 5 6) (tT (-7))) = some (⟨.s, 3⟩, 2 ^ 64 - 2, 1) ∧
    sends (exec (.shl 3 6 5) (tT 65)) = some (⟨.s, 3⟩, 4, 1) ∧
    sends (exec (.slt 3 5 6) (tT (-7))) = some (⟨.s, 3⟩, 1, 1) ∧
    sends (exec (.sltn 3 5 6) (tT (-7))) = some (⟨.s, 3⟩, 0, 1) := by decide +kernel

/-- 05, the register table: a result for s0 is discarded and s0 reads zero. -/
theorem test_s0 : (tR.putFile ⟨.s, 0⟩ 7 (BitVec.allOnes 512)).rs 0 0 = 0 ∧ (tR.putFile ⟨.s, 5⟩ 7 (BitVec.allOnes 512)).rs 0 5 = 7 := by decide +kernel


end Sys2Proof.Tests
end

/-! # Hardware loops (04 R100, R101)

`loop.set`, `loop.seti` and `loop.end` each first write the loop registers (`armLoop`, `countLoop`); then control goes elsewhere, or not. -/

namespace Sys2Proof.Machine

theorem OnlyCore.trans {a b c : State} (hab : OnlyCore a b) (hbc : OnlyCore b c) : OnlyCore a c := by
  unfold OnlyCore at *
  rw [hbc, hab]

@[simp] theorem begun_tknN (s : State) : s.begun.core.ctr.tknN = s.core.ctr.tknN := by
  obtain h | h := begun_eq s
  · rw [h]
  · rw [h, State.thaw, State.mapCore_core]

/-! ## Setting up a loop (04 R100) -/

/-- The counter and the start of a loop, as `loop.set` and `loop.seti` write them. -/
def State.armLoop (s : State) (l : BitVec 2) (count : Nat) : State :=
  (s.mapRegs (fun r => { r with l := Tab.set 0 r.l l.toNat (BitVec.ofNat 32 count) })).mapFlow
    (fun f => { f with ls := Tab.set 0 f.ls l.toNat ((s.core.ctx.f.pc / 64 + 1) * 64 % 2 ^ 48) })

/-- Address of the block after the end of a loop whose end lies `off` blocks on. -/
def State.pastLoop (s : State) (off : Nat) : Nat := (s.core.ctx.f.pc / 64 + off + 1) * 64 % 2 ^ 48

theorem loopSet_of_count_ne_zero (s : State) (l : BitVec 2) {n : Nat} (off : Nat) (hn : n ≠ 0) : s.loopSet l n off = s.armLoop l n :=
  if_pos hn

theorem loopSet_zero_of_second (s : State) (l : BitVec 2) (off : Nat) (h2 : s.core.ctx.f.pc / 32 % 2 = 1) :
    s.loopSet l 0 off = (s.armLoop l 0).branch (s.pastLoop off) := by
  have hsecond : (s.armLoop l 0).secondBundle = true := beq_iff_eq.2 h2
  exact if_pos hsecond

theorem loopSet_zero_of_first (s : State) (l : BitVec 2) (off : Nat) (h1 : s.core.ctx.f.pc / 32 % 2 = 0) :
    s.loopSet l 0 off = (s.armLoop l 0).mapFlow (fun f => { f with skip := some (s.pastLoop off) }) := by
  have hfirst : ¬ (s.armLoop l 0).secondBundle = true := fun h2 => Nat.zero_ne_one (h1.symm.trans (beq_iff_eq.1 h2))
  exact if_neg hfirst

/-- Whether or not the body is skipped, just the counter and the start of the one loop are written. -/
theorem loopSet_registers (s : State) (l : BitVec 2) (n off : Nat) :
    OnlyCore s (s.loopSet l n off) ∧ (s.loopSet l n off).core.ctx.r = (s.armLoop l n).core.ctx.r ∧
    (s.loopSet l n off).core.ctx.f.ls = (s.armLoop l n).core.ctx.f.ls := by
  have harm : OnlyCore s (s.armLoop l n) := rfl
  by_cases hn : n = 0
  · subst hn
    obtain h1 | h2 := Nat.mod_two_eq_zero_or_one (s.core.ctx.f.pc / 32)
    · rw [loopSet_zero_of_first s l off h1]
      exact ⟨rfl, rfl, rfl⟩
    · rw [loopSet_zero_of_second s l off h2]
      obtain ⟨hf, -, -, -, hr, -, hcore⟩ := branched_branch (s.armLoop l 0) (s.pastLoop off)
      exact ⟨harm.trans hcore, hr, by rw [hf]⟩
  · rw [loopSet_of_count_ne_zero s l off hn]
    exact ⟨harm, rfl, rfl⟩

theorem loopSet_counters (s : State) (l : BitVec 2) (n off k : Nat) :
    Tab.get 0 (s.loopSet l n off).core.ctx.r.l k = if k = l.toNat then BitVec.ofNat 32 n else Tab.get 0 s.core.ctx.r.l k := by
  obtain ⟨-, hr, -⟩ := loopSet_registers s l n off
  rw [hr]
  exact Tab.get_set ..

theorem loopSet_starts (s : State) (l : BitVec 2) (n off k : Nat) :
    Tab.get 0 (s.loopSet l n off).core.ctx.f.ls k =
      if k = l.toNat then (s.core.ctx.f.pc / 64 + 1) * 64 % 2 ^ 48 else Tab.get 0 s.core.ctx.f.ls k := by
  obtain ⟨-, -, hls⟩ := loopSet_registers s l n off
  rw [hls]
  exact Tab.get_set ..

/-- The register files are as before. -/
theorem loopSet_files (s : State) (l : BitVec 2) (n off : Nat) :
    (s.loopSet l n off).core.ctx.r.s = s.core.ctx.r.s ∧ (s.loopSet l n off).core.ctx.r.v = s.core.ctx.r.v ∧
    (s.loopSet l n off).core.ctx.r.p = s.core.ctx.r.p := by
  obtain ⟨-, hr, -⟩ := loopSet_registers s l n off
  rw [hr]
  exact ⟨rfl, rfl, rfl⟩

/-- With a count, control goes on into the body. -/
theorem loopSet_enters (s : State) (l : BitVec 2) {n : Nat} (off : Nat) (hn : n ≠ 0) :
    let t := s.loopSet l n off
    t.core.iss = s.core.iss ∧ t.core.ctx.f.pc = s.core.ctx.f.pc ∧ t.core.ctx.f.skip = s.core.ctx.f.skip ∧ t.core.ctx.fl = s.core.ctx.fl := by
  rw [loopSet_of_count_ne_zero s l off hn]
  exact ⟨rfl, rfl, rfl, rfl⟩

/-- With a count of 0, the second bundle of a block branches past the loop. -/
theorem loopSet_branches (s : State) (l : BitVec 2) (off : Nat) (h2 : s.core.ctx.f.pc / 32 % 2 = 1) :
    (s.loopSet l 0 off).core.iss.taken = some 3 ∧ (s.loopSet l 0 off).core.ctx.f.pc = s.pastLoop off := by
  rw [loopSet_zero_of_second s l off h2]
  obtain ⟨hf, hiss, -⟩ := branched_branch (s.armLoop l 0) (s.pastLoop off)
  rw [hf, hiss]
  exact ⟨rfl, Nat.mod_mod ..⟩

/-- With a count of 0, the first bundle of a block leaves the skip for the end of its block. -/
theorem loopSet_leaves_skip (s : State) (l : BitVec 2) (off : Nat) (h1 : s.core.ctx.f.pc / 32 % 2 = 0) :
    let t := s.loopSet l 0 off
    t.core.iss = s.core.iss ∧ t.core.ctx.f.pc = s.core.ctx.f.pc ∧ t.core.ctx.f.skip = some (s.pastLoop off) ∧
      t.core.ctx.fl = s.core.ctx.fl := by
  rw [loopSet_zero_of_first s l off h1]
  exact ⟨rfl, rfl, rfl, rfl⟩

theorem exec_loopSet {s : State} {l : BitVec 2} {r : Reg} {off : BitVec 18} (h : s.admits (.loopSet l r off)) :
    exec (.loopSet l r off) s = .next (s.begun.loopSet l ((s.rs (srcTag .b 0) r).toNat % 2 ^ 32) off.toNat) := by
  rw [← begun_rs]
  exact issue_of_admits (fun _ => 1) (fun s => s.loopSet l ((s.rb r).toNat % 2 ^ 32) off.toNat) h

theorem exec_loopSeti {s : State} {l : BitVec 2} {count off : BitVec 12} (h : s.admits (.loopSeti l count off)) :
    exec (.loopSeti l count off) s = .next (s.begun.loopSet l count.toNat off.toNat) :=
  issue_of_admits (fun _ => 1) (fun s => s.loopSet l count.toNat off.toNat) h

/-! ## The end of a loop (04 R101) -/

theorem rotate_rotb_of_no_window {f : Flow} (h : 16 ≤ f.rotlo) : f.rotate.rotb = f.rotb :=
  if_pos (Nat.sub_eq_zero_of_le h)

/-- Within a window the base goes down by one, modulo the size of the window. -/
theorem rotate_rotb_succ {f : Flow} (h : f.rotlo < 16) : (f.rotate.rotb + 1) % (16 - f.rotlo) = f.rotb % (16 - f.rotlo) := by
  have hsize : 16 - f.rotlo ≠ 0 := by omega
  have hrot : f.rotate.rotb = (f.rotb + (16 - f.rotlo) - 1) % (16 - f.rotlo) := if_neg hsize
  have hback : f.rotb + (16 - f.rotlo) - 1 + 1 = f.rotb + (16 - f.rotlo) := by omega
  rw [hrot, Nat.mod_add_mod, hback, Nat.add_mod_right]

/-- The counter counted down, and the rotation, before control goes anywhere. -/
def State.countLoop (s : State) (l : BitVec 2) : State :=
  (s.mapRegs (fun r => { r with l := Tab.set 0 r.l l.toNat (Tab.get 0 r.l l.toNat - 1) })).mapFlow Flow.rotate

theorem loopEnd_of_last (s : State) (l : BitVec 2) (h : Tab.get 0 s.core.ctx.r.l l.toNat = 1) : s.loopEnd l = s.countLoop l := by
  have hzero : Tab.get 0 s.core.ctx.r.l l.toNat - 1 = 0 := by
    rw [h]
    rfl
  exact if_neg (fun hne => hne hzero)

theorem loopEnd_of_more (s : State) (l : BitVec 2) (h : Tab.get 0 s.core.ctx.r.l l.toNat ≠ 1) :
    s.loopEnd l = (s.countLoop l).transfer (Tab.get 0 s.core.ctx.f.ls l.toNat) 1 false := by
  have hmore : Tab.get 0 s.core.ctx.r.l l.toNat - 1 ≠ 0 := by bv_omega
  exact if_pos hmore

/-- Whether or not control goes back, the same registers are written, and what is in flight stays: `loop.end` squashes nothing. -/
theorem loopEnd_registers (s : State) (l : BitVec 2) :
    OnlyCore s (s.loopEnd l) ∧ (s.loopEnd l).core.ctx.r = (s.countLoop l).core.ctx.r ∧
    (s.loopEnd l).core.ctx.f.rotlo = s.core.ctx.f.rotlo ∧ (s.loopEnd l).core.ctx.f.rotb = s.core.ctx.f.rotate.rotb ∧
    (s.loopEnd l).core.ctx.fl = s.core.ctx.fl := by
  by_cases h : Tab.get 0 s.core.ctx.r.l l.toNat = 1
  · rw [loopEnd_of_last s l h]
    exact ⟨rfl, rfl, rfl, rfl, rfl⟩
  · rw [loopEnd_of_more s l h]
    exact ⟨rfl, rfl, rfl, rfl, rfl⟩

theorem loopEnd_counters (s : State) (l : BitVec 2) (k : Nat) :
    Tab.get 0 (s.loopEnd l).core.ctx.r.l k =
      if k = l.toNat then Tab.get 0 s.core.ctx.r.l l.toNat - 1 else Tab.get 0 s.core.ctx.r.l k := by
  obtain ⟨-, hr, -⟩ := loopEnd_registers s l
  rw [hr]
  exact Tab.get_set ..

/-- The register files are as before. -/
theorem loopEnd_files (s : State) (l : BitVec 2) :
    (s.loopEnd l).core.ctx.r.s = s.core.ctx.r.s ∧ (s.loopEnd l).core.ctx.r.v = s.core.ctx.r.v ∧
    (s.loopEnd l).core.ctx.r.p = s.core.ctx.r.p := by
  obtain ⟨-, hr, -⟩ := loopEnd_registers s l
  rw [hr]
  exact ⟨rfl, rfl, rfl⟩

/-- A counter that comes to 0 ends the loop: control goes on. -/
theorem loopEnd_ends (s : State) (l : BitVec 2) (h : Tab.get 0 s.core.ctx.r.l l.toNat = 1) :
    (s.loopEnd l).core.iss = s.core.iss ∧ (s.loopEnd l).core.ctx.f.pc = s.core.ctx.f.pc := by
  rw [loopEnd_of_last s l h]
  exact ⟨rfl, rfl⟩

/-- Any other counter goes back to the loop's start, from the next cycle. -/
theorem loopEnd_repeats (s : State) (l : BitVec 2) (h : Tab.get 0 s.core.ctx.r.l l.toNat ≠ 1) :
    (s.loopEnd l).core.iss.taken = some 1 ∧ (s.loopEnd l).core.ctr.tknN = s.core.ctr.tknN + 1 ∧
    (s.loopEnd l).core.ctx.f.pc = Tab.get 0 s.core.ctx.f.ls l.toNat % 2 ^ 48 := by
  rw [loopEnd_of_more s l h]
  exact ⟨rfl, rfl, rfl⟩

theorem exec_loopEnd {s : State} {l : BitVec 2} (h : s.admits (.loopEnd l)) : exec (.loopEnd l) s = .next (s.begun.loopEnd l) :=
  issue_of_admits (fun _ => 1) (fun s => s.loopEnd l) h

/-! ## The statement -/

/-- Settles O7: both forms that set up a loop run `loopSet` on their count, whose three ways on are those of the statement; `loop.end`
ends or repeats by whether its counter reads 1. -/
theorem loops : Obligations.Loops := by
  unfold Obligations.Loops
  constructor
  · intro s l r o18 cnt o12 i n off hi hadm
    have hexec : exec i s = .next (s.begun.loopSet l n off) := by
      obtain ⟨rfl, rfl, rfl⟩ | ⟨rfl, rfl, rfl⟩ := hi
      · exact exec_loopSet hadm
      · exact exec_loopSeti hadm
    obtain ⟨hcore, -, -⟩ := loopSet_registers s.begun l n off
    obtain ⟨hs, hv, hp⟩ := loopSet_files s.begun l n off
    have hcount := loopSet_counters s.begun l n off
    have hstart := loopSet_starts s.begun l n off
    rw [begun_ctx] at hs hv hp
    simp only [begun_ctx] at hcount hstart
    refine ⟨_, hexec, hcore, ?_, ?_, fun k hk => ⟨?_, ?_⟩, hs, hv, hp, fun hn => ?_, ?_, ?_⟩
    · rw [hcount, if_pos rfl]
    · rw [hstart, if_pos rfl]
    · rw [hcount, if_neg hk]
    · rw [hstart, if_neg hk]
    · simpa only [begun_ctx, begun_iss] using loopSet_enters s.begun l off hn
    · rintro rfl h2
      rw [← begun_ctx s] at h2 ⊢
      exact loopSet_branches s.begun l off h2
    · rintro rfl h1
      rw [← begun_ctx s] at h1 ⊢
      rw [← begun_iss s]
      exact loopSet_leaves_skip s.begun l off h1
  · intro s l hadm
    obtain ⟨hcore, -, hrotlo, hrotb, hfl⟩ := loopEnd_registers s.begun l
    obtain ⟨hs, hv, hp⟩ := loopEnd_files s.begun l
    have hcount := loopEnd_counters s.begun l
    rw [begun_ctx] at hrotlo hrotb hfl hs hv hp
    simp only [begun_ctx] at hcount
    refine ⟨_, exec_loopEnd hadm, hcore, ?_, fun k hk => ?_, hrotlo, fun h16 => ?_, fun h16 => ?_, fun h1 => ?_, fun h1 => ?_, hfl, hs, hv, hp⟩
    · rw [hcount, if_pos rfl, BitVec.toNat_sub, Nat.add_comm]
      rfl
    · rw [hcount, if_neg hk]
    · rw [hrotb, rotate_rotb_of_no_window h16]
    · rw [hrotb, rotate_rotb_succ h16]
    · rw [← begun_ctx s] at h1 ⊢
      rw [← begun_iss s]
      exact loopEnd_ends s.begun l h1
    · rw [← begun_ctx s] at h1 ⊢
      rw [← begun_tknN s]
      exact loopEnd_repeats s.begun l h1

end Sys2Proof.Machine

/-! # Immediates and constants (05 R123 to R125)

Each row of `alui` is a function of its one source. First these functions are read as the arithmetic of R123; then each is put where its
instruction uses it. -/

namespace Sys2Proof.Machine

/-! ## The immediate and the comparison flag -/

@[simp] theorem sx_toInt (imm : BitVec 32) : (sx imm).toInt = imm.toInt := BitVec.toInt_signExtend_of_le (by decide)

theorem ofInt_toInt_imm (imm : BitVec 32) : BitVec.ofInt 64 imm.toInt = sx imm := by
  rw [← sx_toInt, BitVec.ofInt_toInt]

theorem flag_decide (p : Prop) [Decidable p] : flag (decide p) = if p then 1 else 0 := by
  by_cases h : p <;> simp [flag, h]

/-! ## The values of `alui` (05 R123) -/

theorem addiVal_eq (imm : BitVec 32) (a : Word) : addiVal imm a = BitVec.ofInt 64 (a.toInt + imm.toInt) := by
  rw [BitVec.ofInt_add, BitVec.ofInt_toInt, ofInt_toInt_imm, addiVal]

theorem muliVal_eq (imm : BitVec 32) (a : Word) : muliVal imm a = BitVec.ofInt 64 (a.toInt * imm.toInt) := by
  rw [BitVec.ofInt_mul, BitVec.ofInt_toInt, ofInt_toInt_imm, muliVal]

theorem shliVal_eq (amt : BitVec 6) (a : Word) : shliVal amt a = BitVec.ofNat 64 (a.toNat * 2 ^ amt.toNat) := by
  rw [← Nat.shiftLeft_eq]
  rfl

theorem shriVal_eq (amt : BitVec 6) (a : Word) : shriVal amt a = BitVec.ofNat 64 (a.toNat / 2 ^ amt.toNat) := by
  have hlt : a.toNat / 2 ^ amt.toNat < 2 ^ 64 := Nat.lt_of_le_of_lt (Nat.div_le_self ..) a.isLt
  apply BitVec.eq_of_toNat_eq
  rw [shriVal, BitVec.toNat_ushiftRight, Nat.shiftRight_eq_div_pow, BitVec.toNat_ofNat, Nat.mod_eq_of_lt hlt]

theorem sariVal_eq (amt : BitVec 6) (a : Word) : sariVal amt a = BitVec.ofInt 64 (a.toInt / ((2 ^ amt.toNat : Nat) : Int)) :=
  congrArg (BitVec.ofInt 64) (Int.shiftRight_eq_div_pow ..)

theorem sltiVal_eq (imm : BitVec 32) (a : Word) : sltiVal imm a = if a.toInt < imm.toInt then 1 else 0 := by
  rw [sltiVal, BitVec.slt_eq_decide, flag_decide, sx_toInt]

theorem sltniVal_eq (imm : BitVec 32) (a : Word) : sltniVal imm a = if a.toNat < (imm.signExtend 64).toNat then 1 else 0 := by
  rw [sltniVal, BitVec.ult_eq_decide, flag_decide, sx]

theorem seqiVal_eq (imm : BitVec 32) (a : Word) : seqiVal imm a = if a.toInt = imm.toInt then 1 else 0 := by
  have heq : a = sx imm ↔ a.toInt = imm.toInt := by rw [← sx_toInt, BitVec.toInt_inj]
  have hbeq : (a == sx imm) = decide (a = sx imm) := rfl
  rw [seqiVal, hbeq, flag_decide]
  simp only [heq]

/-! ## What the instructions send -/

/-- An operation on one register sends the value that its function has there. -/
theorem next_alu1 {s : State} {d a : Reg} {lat : Nat} {f : Word → Word} {v : Word} (hv : f (s.rs (srcTag .m 0) a) = v) :
    (.next (s.alu1 d a lat f) : Host.Outcome State Fault Refusal) = .next (s.plusResult .m d v lat) := by
  rw [alu1_eq, hv]

theorem exec_li (s : State) (d : Reg) (imm : BitVec 32) : exec (.li d imm) s = .next (s.plusResult .m d (sx imm) 1) :=
  congrArg _ (setS_eq ..)

theorem exec_lih (s : State) (d : Reg) (imm : BitVec 32) :
    exec (.lih d imm) s = .next (s.plusResult .m d (imm ++ (s.rs (srcTag .m 0) d).setWidth 32) 1) :=
  congrArg _ (setS_eq ..)

theorem exec_sel (s : State) (d a b p : Reg) (idx : BitVec 6) :
    exec (.sel d a b p idx) s = .next (s.plusResult .m d
      (if (s.rp (srcTag .m 2) p.toNat).getLsbD idx.toNat then s.rs (srcTag .m 0) a else s.rs (srcTag .m 1) b) 1) :=
  congrArg _ (setS_eq ..)

/-- p0 reads all ones (05 R106), so that each of its bits picks S[A]. -/
theorem rp_zero_getLsbD (s : State) (k : Nat) (idx : BitVec 6) : (s.rp k 0).getLsbD idx.toNat = true := by
  have hones : s.rp k 0 = BitVec.allOnes 64 := if_pos rfl
  rw [hones, BitVec.getLsbD_allOnes, decide_eq_true idx.isLt]

/-- For `sel`, p0 is no case of its own. -/
theorem eq_zero_or_rp_getLsbD (s : State) (k : Nat) (p : Reg) (idx : BitVec 6) :
    (p = 0 ∨ (s.rp k p.toNat).getLsbD idx.toNat = true) ↔ (s.rp k p.toNat).getLsbD idx.toNat = true := by
  refine or_iff_right_of_imp ?_
  rintro rfl
  exact rp_zero_getLsbD s k idx

/-! ## The statement -/

/-- Settles O3: a row of `alui` sends the value of its function, `li` and `lih` send the immediate alone and over the register's low half,
and `sel` needs no case for p0, which reads all ones. -/
theorem scalarImmediatesAndConstants : Obligations.ScalarImmediatesAndConstants := by
  unfold Obligations.ScalarImmediatesAndConstants
  constructor
  · intro s d a imm amt
    exact ⟨next_alu1 (addiVal_eq ..), next_alu1 rfl, next_alu1 rfl, next_alu1 rfl, next_alu1 (shliVal_eq ..), next_alu1 (shriVal_eq ..),
      next_alu1 (sariVal_eq ..), next_alu1 (sltiVal_eq ..), next_alu1 (sltniVal_eq ..), next_alu1 (seqiVal_eq ..),
      next_alu1 (muliVal_eq ..)⟩
  · intro s d a b p imm idx
    refine ⟨⟨_, exec_li s d imm, sx_toInt imm⟩, ⟨_, exec_lih s d imm, BitVec.extractLsb'_append_eq_left, ?_⟩, ?_⟩
    · rw [BitVec.extractLsb'_append_eq_right, BitVec.setWidth_eq_extractLsb' (by decide)]
    · simp only [eq_zero_or_rp_getLsbD]
      exact exec_sel s d a b p idx

end Sys2Proof.Machine
